-- ==== Sys2Proof/Word.lean ====
section
/-! DEFINITION. Sys2Proof/Word.lean: the word types of the Zaloez and the 32-lane vector. -/

namespace Sys2Proof

/-- One 32-bit lane, uniform register or mask (R96). -/
abbrev W := BitVec 32
/-- One byte of memory. -/
abbrev Byte := BitVec 8
/-- A device virtual address or program counter (R23). -/
abbrev PC := BitVec 48

/-- The 32 lanes of a varying register (R6, R96). -/
abbrev Lanes := Vector W 32

/-- The vector whose lane `l` holds `f l`. -/
def Lanes.of (f : Nat → W) : Lanes := ⟨⟨(List.range 32).map f⟩, by simp⟩

/-- Lane `l` of a vector; lanes beyond 31 do not exist and read 0. -/
def Lanes.lane (x : Lanes) (l : Nat) : W := x.toArray.toList.getD l 0

/-- The vector of 32 equal lanes. -/
def Lanes.splat (w : W) : Lanes := Lanes.of fun _ => w

/-- Bit `n` of a mask. -/
def bit {w : Nat} (x : BitVec w) (n : Nat) : Bool := x.getLsbD n

/-- The mask of `w` bits whose bit `n` is `f n`. -/
def maskOf (w : Nat) (f : Nat → Bool) : BitVec w :=
  BitVec.ofNat w ((List.range w).foldl (fun acc n => acc + (f n).toNat * 2 ^ n) 0)

end Sys2Proof
end

