-- ==== Sys2Proof/Config.lean ====
section
/-! DEFINITION. Sys2Proof/Config.lean: the free values, which the manual leaves open or which stand for the outside
world. Each is an opaque constant: no proof can see its value. The log entry named says why it is free. -/

namespace Sys2Proof.Config

/-- Which of the events that could come next comes next (log 1). -/
opaque pick : Nat → Nat
/-- The data of a FREE KV block (R360), by block key and counter (log 13). -/
opaque freeByte : Nat → Nat → Byte
/-- The reply of a block service to a request that no KV instruction makes (R362), by counter and lane (log 12). -/
opaque freeWord : Nat → Nat → W
/-- How many instructions the method of a kiosk or block service, which is firmware's, issues for a request, by step counter
and lane (R284, R289; log 12). -/
opaque svcSteps : Nat → Nat → Nat
/-- HOME, METHOD, STATE and ASID of the object that firmware installs for the block service of a die and class (R289; log
12). -/
opaque svcEntry : Nat → Nat → BitVec 128
/-- The bytes of a journal record (R399), by record number, and the number of records in the ring less one (log 18). -/
opaque journalByte : Nat → Nat → Byte
opaque journalSize : Nat
/-- The hart whose interrupt file holds an MSI address (R397; log 19). -/
opaque msiHart : BitVec 64 → Nat
/-- Where the area of the i-th crew of one SAVE lies beyond SAVEBASE, for i above 0 (R406; log 20). -/
opaque saveOffset : Nat → Nat
/-- Where a telemetry record holds its six fields, as its bytes, and the number of records in the ring less one (R417;
log 21). -/
opaque telemetryByte : List Nat → Nat → Byte
opaque telemetrySize : Nat
/-- The digest and SVN that a report names while no image has been accepted (R416; log 10). -/
opaque romImage : BitVec 512 × BitVec 64
/-- The entries of a codebook of the plaza context, which has none (R149), by step counter, codebook and code (log 14). -/
opaque plazaCodebook : Nat → Nat → Nat → BitVec 16
/-- Whether `vsort` gives the tag RAW where tiles differ in bit 1 of their control words, by step counter (R179; log 16). -/
opaque sortRaw : Nat → Bool
/-- Whether a copy reads a byte that it has overwritten as it stood before, by step counter and key (R320, R382; log 11). -/
opaque copyOld : Nat → Nat → Bool
/-- Whether a copy goes from its last element to its first, by step counter (R320, which gives no order; log 11). -/
opaque copyDown : Nat → Bool
/-- The SHAKE256 digest of a byte string, 64 bytes (FIPS 202; R415, R416; log 10). -/
opaque shake256 : List Byte → BitVec 512
/-- The SLH-DSA-SHAKE-256s verification of a signature over a message under a public key (FIPS 205; R415; log 10). -/
opaque slhVerify : List Byte → List Byte → List Byte → Bool
/-- The signature of the device identity key over a message (R416; log 10). -/
opaque slhSign : List Byte → List Byte

/-- The set of a die's translation cache, of 512, that an entry occupies, by ASID, virtual page and page size (R213; log
59). -/
opaque dieSet : Nat → Nat → Nat → Nat
/-- Which entry a die's translation or walk cache gives up when it has no room, by step counter (R213; log 59). -/
opaque victim : Nat → Nat

/-- The router, of the 64 of a mesh, that the memory controller of a die attaches to, that an Ethernet port does on its die, and that the
host link, boot ROM and NVMe ports of die 0 do (R253; log 66). And the one that the object table of a die attaches to. -/
opaque hbmRouter : Nat → Nat
opaque portRouter : Nat → Nat
opaque hostRouter : Nat
opaque tableRouter : Nat → Nat

end Sys2Proof.Config
end

