-- ==== Sys2Proof/Syntax.lean ====
section
/-! DEFINITION. Sys2Proof/Syntax.lean: the instructions and steps of the Zaloez, one constructor for each row of the
opcode table. The fields of an encoded instruction are kept raw, stray bits included, because a stray bit is a
modifier fallback that sets WMOD (R40, R41). A step of a unit (a row with no encoding) names the unit, entry or
input it acts on. -/

namespace Sys2Proof

/-- The 16-bit form (R24). -/
structure H where
  vd : BitVec 6
  vs : BitVec 5
  deriving DecidableEq, Repr

/-- The T3 format (R31). -/
structure T3 where
  d : BitVec 6
  w : BitVec 1
  a : BitVec 7
  ba : BitVec 1
  b : BitVec 7
  bb : BitVec 1
  deriving DecidableEq, Repr

/-- The MR format (R31). -/
structure MR where
  d : BitVec 6
  bd : BitVec 1
  x : BitVec 7
  bx : BitVec 1
  rc : BitVec 4
  ord : BitVec 2
  scope : BitVec 2
  deriving DecidableEq, Repr

/-- The SR format with I = 0 (R31); `hi` is bits [31:27]. -/
structure SR where
  d : BitVec 5
  a : BitVec 5
  ba : BitVec 1
  b : BitVec 5
  bb : BitVec 1
  hi : BitVec 5
  deriving DecidableEq, Repr

/-- The SR format with I = 1 (R31). -/
structure SRI where
  d : BitVec 5
  a : BitVec 5
  ba : BitVec 1
  imm : BitVec 11
  deriving DecidableEq, Repr

/-- The UI format (R31). -/
structure UI where
  d : BitVec 5
  imm : BitVec 21
  deriving DecidableEq, Repr

/-- The BR format (R31). -/
structure BR where
  a : BitVec 5
  b : BitVec 5
  disp : BitVec 13
  deriving DecidableEq, Repr

/-- The J format (R31). -/
structure J where
  disp : BitVec 25
  deriving DecidableEq, Repr

/-- The EX format (R31). -/
structure EX where
  d : BitVec 5
  bd : BitVec 1
  a : BitVec 5
  ba : BitVec 1
  b : BitVec 5
  bb : BitVec 1
  deriving DecidableEq, Repr

/-- `endrun` (R38, R84). -/
structure EndrunF where
  x : BitVec 7
  y : BitVec 7
  n : BitVec 4
  deriving DecidableEq, Repr

/-- `trap` and `elect` (R38): an 18-bit immediate. -/
structure TrapF where
  code : BitVec 18
  deriving DecidableEq, Repr

/-- `elect` (R38, R122). -/
structure ElectF where
  role : BitVec 18
  deriving DecidableEq, Repr

/-- `setpt` (R38, R89); `rest` is bits [31:17]. -/
structure SetptF where
  c : BitVec 3
  rest : BitVec 15
  deriving DecidableEq, Repr

/-- `rshare` (R38, R110); `count` holds the count minus one. -/
structure RshareF where
  first : BitVec 6
  count : BitVec 6
  id : BitVec 6
  deriving DecidableEq, Repr

/-- `fe.clr` and `fe.set` (R38, R105); `rest` is bits [31:25]. -/
structure FeF where
  x : BitVec 7
  n : BitVec 4
  rest : BitVec 7
  deriving DecidableEq, Repr

/-- `fence` (R38, R239); `rest` is bits [31:17]. -/
structure FenceF where
  scope : BitVec 3
  rest : BitVec 15
  deriving DecidableEq, Repr

/-- `fence.x` (R38, R240); `rest` is bits [31:29]. -/
structure FenceXF where
  setA : BitVec 6
  setB : BitVec 6
  scope : BitVec 3
  rest : BitVec 3
  deriving DecidableEq, Repr

/-- `mx.lb` (R38, R311); `rest` is bits [31:29]. -/
structure MxLbF where
  rc : BitVec 4
  slot : BitVec 6
  fmt : BitVec 4
  pair : BitVec 1
  rest : BitVec 3
  deriving DecidableEq, Repr

/-- `mx.mma` (R38, R311); `rest` is bits [31:28]. -/
structure MxMmaF where
  rc : BitVec 4
  slot : BitVec 6
  tile : BitVec 3
  ov : BitVec 1
  rest : BitVec 4
  deriving DecidableEq, Repr

/-- `mx.st` (R38, R311); `rest` is bits [23:18]. -/
structure MxStF where
  rc : BitVec 4
  rest : BitVec 6
  tile : BitVec 3
  exp : BitVec 1
  fmt : BitVec 4
  deriving DecidableEq, Repr

/-- `mx.rd` (R38, R311). -/
structure MxRdF where
  v : BitVec 6
  tile : BitVec 3
  row : BitVec 7
  block : BitVec 2
  deriving DecidableEq, Repr

/-- `obj.callv` (R38, R272); `rest` is bit [31]. -/
structure CallvF where
  d : BitVec 6
  a : BitVec 6
  s : BitVec 5
  rest : BitVec 1
  deriving DecidableEq, Repr

/-- `zwait` of the control cores (R398), RISC-V R-type. -/
structure Zw where
  rd : BitVec 5
  rs1 : BitVec 5
  rs2 : BitVec 5
  deriving DecidableEq, Repr

/-- The discipline sources of device time (R15). -/
inductive TimeSrc where
  | ptm
  | ptp
  deriving DecidableEq, Repr

/-- A fault ring: one for each crew place and one plaza ring for each die (R401). -/
inductive RingId where
  | place (core slot : Nat)
  | plaza (die : Nat)
  deriving DecidableEq, Repr

/-- The queue-descriptor fields that have no row of their own (R378). -/
inductive QField where
  | ringLo
  | ringHi
  | log2size
  | prio
  | asid
  | ridx
  | err
  | errpktLo
  | errpktHi
  deriving DecidableEq, Repr

/-- The registers that REGISTER_WRITE reaches: those that have no row of their own (R3). A 64-bit register is
written in two words. -/
inductive Reg where
  | queue (q : Nat) (f : QField)
  | featAcc (i : Nat)
  | attNonce (i : Nat)
  | apasid
  | apbase (hi : Bool)
  | plzlim (die : Nat)
  | modid (die : Nat)
  | podRoute (die module : Nat)
  | kvPool (die cls word : Nat)
  | pinBudget (hi : Bool)
  | evictBase (hi : Bool)
  | withheld (core : Nat)
  | root (asid : Nat) (hi : Bool)
  | tqErr (die : Nat)
  | cqErr (die : Nat)
  | ringMsiAddr (r : RingId) (hi : Bool)
  | ringMsiData (r : RingId)
  | telemetryBase (die : Nat) (hi : Bool)
  | journalBase (hi : Bool)
  | reserved
  deriving DecidableEq, Repr

/-- A translation command (R220) without its OP byte. `resv` is true when a reserved byte is not zero. -/
structure TCmd where
  asid : BitVec 8
  core : BitVec 16
  seq : BitVec 32
  count : BitVec 32
  tag : BitVec 32
  va : BitVec 48
  done : BitVec 64
  resv : Bool
  deriving DecidableEq, Repr

/-- A crew command (R404) without its OP byte. `resv` is true when a reserved byte is not zero. -/
structure CCmd where
  crews : BitVec 8
  core : BitVec 16
  gangs : BitVec 16
  addr : BitVec 64
  tag : BitVec 32
  done : BitVec 64
  resv : Bool
  deriving DecidableEq, Repr

/-- The instructions and steps: one constructor for each row of the opcode table. -/
inductive Instr where
  | powerGood
  | bootRomImageCheck (port0 port1 : Option (List Byte))
  | reducedServiceReached
  | fullFunctionReached (good : BitVec 24)
  | bootload (len : W)
  | featcommit (v : W)
  | attgo (v : W)
  | attestationReportReady
  | timeSourceLock (src : TimeSrc) (ns : Nat)
  | timeSourceLoss (src : TimeSrc)
  | registerWrite (width : Nat) (r : Reg) (v : W)
  | hostApertureAccess (off n : Nat) (wr : Option (List Byte))
  | regionTableWrite (core idx : Nat) (v : W)
  | objectTableWrite (die idx : Nat) (v : BitVec 128) (firmware : Bool)
  | rbtokWrite (die : Nat) (v : W)
  | faultRingBaseWrite (r : RingId) (base : Nat)
  | fqrWrite (r : RingId) (v : W)
  | thermalBurstHalt (die : Nat)
  | thermalHaltLift (die : Nat)
  | patrolScrub (key : Nat) (single : Bool)
  | telemetryRecord (die : Nat) (temp current power : W)
  | linkRecalibration (link : Nat)
  | contextAged (core ctx : Nat)
  | implicitTrailer (core ctx : Nat)
  | loadCompletion (core acc : Nat)
  | sfuCompletion (core op : Nat)
  | accessPerformedAtHome (core acc line : Nat)
  | accessAck (core acc line : Nat)
  | bridgeCountReport (core acc unit : Nat)
  | paramLineFill (core ctx : Nat)
  | translationLookupEnd (core ctx : Nat)
  | replay (die : Nat) (c : TCmd)
  | cancel (die : Nat) (c : TCmd)
  | tsync (die : Nat) (c : TCmd)
  | tsyncComplete (die op : Nat)
  | messageArrival (msg : Nat)
  | msendStatus (msg : Nat)
  | routerPowerDown (router : Nat)
  | routerWakeSignal (router : Nat)
  | routerWakeDone (router : Nat)
  | objTableRequest (pkt : Nat)
  | plazaPacketArrival (pkt : Nat)
  | plazaPacketRetry (pkt : Nat)
  | waveTimeoutClose (core wave : Nat)
  | waveStart (core : Nat)
  | waveBudgetExceeded (core : Nat)
  | objReplyArrival (reply : Nat)
  | mxCommandRetire (core : Nat)
  | mxArbiterGrant (core : Nat)
  | roundaboutTokenArrival (die quad : Nat)
  | burstEnd (die quad : Nat)
  | vregPoolGrant (core : Nat)
  | copyNodeDone (core : Nat)
  | barrierPhaseNotify (core ctx : Nat)
  | finaliserOpen (die : Nat)
  | finaliserRule (die : Nat)
  | finaliserPass (die : Nat)
  | finaliserSlotRead (die : Nat)
  | finaliserKerbRead (die : Nat)
  | finaliserReopen (die : Nat)
  | finaliserClose (die : Nat)
  | finaliserKvSlotRead (die : Nat)
  | kerbRetry (die blk : Nat)
  | finaliserCommandRetry (cmd : Nat)
  | slotReplyArrival (cmd : Nat)
  | kvStExec (core : Nat)
  | kvLdExec (core : Nat)
  | kvVqlutExec (core : Nat)
  | kvVqscExec (core : Nat)
  | widxWrite (q : Nat) (v : W)
  | queueStateWrite (q : Nat) (v : W)
  | ticketsWrite (q : Nat) (v : W)
  | packetNop (q : Nat)
  | packetLaunch (q : Nat)
  | launchAdmission (q : Nat)
  | launchSenior (q : Nat)
  | launchComplete (slot : Nat)
  | packetCopy (q : Nat)
  | copyPacketDone (job : Nat)
  | packetSignal (q : Nat)
  | packetWait (q : Nat)
  | waitReread (q : Nat)
  | packetIndirect (q : Nat)
  | packetTimer (q : Nat)
  | timerPacketDue (q : Nat)
  | packetFence (q : Nat)
  | streamOpen (q : Nat)
  | streamTouch (q : Nat)
  | streamRetime (q : Nat)
  | streamClose (q : Nat)
  | touchRegisterWrite (v : W)
  | streamDue (id : Nat)
  | streamEvictDone (id : Nat)
  | streamRestoreStart (id : Nat)
  | streamRestoreDone (id : Nat)
  | failover
  | standbyAck
  | save (die : Nat) (c : CCmd)
  | saveComplete (core : Nat)
  | restore (die : Nat) (c : CCmd)
  | kill (die : Nat) (c : CCmd)
  | resume (die : Nat) (c : CCmd)
  | handler (die : Nat) (c : CCmd)
  | zwaitResume (hart : Nat)
  | illegalEncoding (word : BitVec 32) (wide : Bool)
  | barrierArrivalAtTable (cmd : Nat)
  | finaliserCommandArrival (cmd : Nat)
  | zwait (f : Zw)
  | vmov16 (f : H)
  | vaddI3216 (f : H)
  | vsubI3216 (f : H)
  | vand16 (f : H)
  | vor16 (f : H)
  | vxor16 (f : H)
  | vshl16 (f : H)
  | vshr16 (f : H)
  | vmaxI3216 (f : H)
  | vminI3216 (f : H)
  | vfadd16 (f : H)
  | vfsub16 (f : H)
  | vfmul16 (f : H)
  | vfmax16 (f : H)
  | vfmin16 (f : H)
  | vcvtF32I3216 (f : H)
  | vaddI32 (f : T3)
  | vsubI32 (f : T3)
  | vmulLo (f : T3)
  | vmulhI32 (f : T3)
  | vmulhN32 (f : T3)
  | vminI32 (f : T3)
  | vmaxI32 (f : T3)
  | vminN32 (f : T3)
  | vmaxN32 (f : T3)
  | vabsI32 (f : T3)
  | vclz (f : T3)
  | vpopc (f : T3)
  | vmadLo (f : T3)
  | vaddsI32 (f : T3)
  | vsubsI32 (f : T3)
  | vmov (f : T3)
  | vand (f : T3)
  | vor (f : T3)
  | vxor (f : T3)
  | vandn (f : T3)
  | vshl (f : T3)
  | vshr (f : T3)
  | vsra (f : T3)
  | vrol (f : T3)
  | vfadd (f : T3)
  | vfsub (f : T3)
  | vfmul (f : T3)
  | vfmin (f : T3)
  | vfmax (f : T3)
  | vfabs (f : T3)
  | vfneg (f : T3)
  | vfcpys (f : T3)
  | vfma (f : T3)
  | vfms (f : T3)
  | vfnma (f : T3)
  | vfnms (f : T3)
  | vhfmaBf16 (f : T3)
  | vhfmaF16 (f : T3)
  | vdot2Bf16 (f : T3)
  | vdot2F16 (f : T3)
  | vcmpEq (f : T3)
  | vcmpNe (f : T3)
  | vcmpLtI32 (f : T3)
  | vcmpGeI32 (f : T3)
  | vcmpLtN32 (f : T3)
  | vcmpGeN32 (f : T3)
  | vcmpTst (f : T3)
  | vfcmpEq (f : T3)
  | vfcmpNe (f : T3)
  | vfcmpLt (f : T3)
  | vfcmpLe (f : T3)
  | vfcmpGt (f : T3)
  | vfcmpGe (f : T3)
  | vfcmpUn (f : T3)
  | vfcmpOr (f : T3)
  | vcvtF32I32 (f : T3)
  | vcvtI32F32 (f : T3)
  | vcvp2 (f : T3)
  | vcvp4 (f : T3)
  | vunpk (f : T3)
  | vcvtF32N32 (f : T3)
  | vcvtN32F32 (f : T3)
  | vcvq (f : T3)
  | vrcp (f : T3)
  | vrsqrt (f : T3)
  | vsqrt (f : T3)
  | vexp2 (f : T3)
  | vlog2 (f : T3)
  | vtanh (f : T3)
  | vsinpi (f : T3)
  | vtake (f : T3)
  | vshfl (f : T3)
  | vshflXor (f : T3)
  | vshflUp (f : T3)
  | vshflDn (f : T3)
  | vred (f : T3)
  | vscan (f : T3)
  | vvoteAny (f : T3)
  | vvoteAll (f : T3)
  | vballot (f : T3)
  | vselgt (f : T3)
  | vtopk (f : T3)
  | vsort (f : T3)
  | vsel (f : T3)
  | vbcast (f : T3)
  | vrfa (f : T3)
  | vlaneid (f : T3)
  | vcomp (f : T3)
  | vdp4s (f : T3)
  | vdp4n (f : T3)
  | vdp4sn (f : T3)
  | vdp8s (f : T3)
  | vdp4sW (f : T3)
  | vldB8 (f : MR)
  | vldI8 (f : MR)
  | vldH16 (f : MR)
  | vldI16 (f : MR)
  | vldW32 (f : MR)
  | vldX2 (f : MR)
  | vldX4 (f : MR)
  | vldF16 (f : MR)
  | vstB8 (f : MR)
  | vstH16 (f : MR)
  | vstW32 (f : MR)
  | vstX2 (f : MR)
  | vstX4 (f : MR)
  | vstF16 (f : MR)
  | vatomAdd (f : MR)
  | vatomFadd (f : MR)
  | vatomMinI32 (f : MR)
  | vatomMaxI32 (f : MR)
  | vatomAnd (f : MR)
  | vatomOr (f : MR)
  | vatomXchg (f : MR)
  | vatomCas (f : MR)
  | sldW (f : MR)
  | sldH (f : MR)
  | sldB (f : MR)
  | sstW (f : MR)
  | sstH (f : MR)
  | sstB (f : MR)
  | satomAdd (f : MR)
  | satomCas (f : MR)
  | sadd (f : SR)
  | saddImm (f : SRI)
  | ssub (f : SR)
  | ssubImm (f : SRI)
  | smul (f : SR)
  | smulImm (f : SRI)
  | smulh (f : SR)
  | smulhImm (f : SRI)
  | sand (f : SR)
  | sandImm (f : SRI)
  | sor (f : SR)
  | sorImm (f : SRI)
  | sxor (f : SR)
  | sxorImm (f : SRI)
  | sshl (f : SR)
  | sshlImm (f : SRI)
  | sshr (f : SR)
  | sshrImm (f : SRI)
  | ssra (f : SR)
  | ssraImm (f : SRI)
  | sminI32 (f : SR)
  | sminI32Imm (f : SRI)
  | smaxI32 (f : SR)
  | smaxI32Imm (f : SRI)
  | sminN32 (f : SR)
  | sminN32Imm (f : SRI)
  | smaxN32 (f : SR)
  | smaxN32Imm (f : SRI)
  | sdivN32 (f : SR)
  | sdivN32Imm (f : SRI)
  | sremN32 (f : SR)
  | sremN32Imm (f : SRI)
  | sli (f : UI)
  | slui (f : UI)
  | amk (f : T3)
  | aadd (f : T3)
  | asub (f : T3)
  | amul (f : T3)
  | ashl (f : T3)
  | ashr (f : T3)
  | aget (f : T3)
  | a2v (f : T3)
  | kand (f : T3)
  | kor (f : T3)
  | kxor (f : T3)
  | kandn (f : T3)
  | knot (f : T3)
  | kmov (f : T3)
  | kpop (f : T3)
  | kfirst (f : T3)
  | beq (f : BR)
  | bne (f : BR)
  | blt (f : BR)
  | bge (f : BR)
  | bltN (f : BR)
  | bgeN (f : BR)
  | bkany (f : BR)
  | bkall (f : BR)
  | jmp (f : J)
  | call (f : J)
  | nop (f : EX)
  | endrun (f : EndrunF)
  | regang (f : EX)
  | exit (f : EX)
  | ret (f : EX)
  | jr (f : EX)
  | trap (f : TrapF)
  | brk (f : EX)
  | yield (f : EX)
  | kuse (f : EX)
  | setpt (f : SetptF)
  | isync (f : EX)
  | rdctl (f : EX)
  | wrctl (f : EX)
  | elect (f : ElectF)
  | wfetch (f : EX)
  | wphase (f : EX)
  | prm (f : EX)
  | brld (f : EX)
  | brset (f : EX)
  | grow (f : EX)
  | shrink (f : EX)
  | rshare (f : RshareF)
  | runshare (f : EX)
  | feClr (f : FeF)
  | feSet (f : FeF)
  | fence (f : FenceF)
  | fenceX (f : FenceXF)
  | barInit (f : EX)
  | barJoin (f : EX)
  | barArr (f : EX)
  | barWait (f : EX)
  | barSync (f : EX)
  | barLeave (f : EX)
  | barFree (f : EX)
  | mxLb (f : MxLbF)
  | mxMma (f : MxMmaF)
  | mxZero (f : EX)
  | mxSt (f : MxStF)
  | mxRmax (f : EX)
  | mxRd (f : MxRdF)
  | mxWr (f : EX)
  | cbld (f : EX)
  | accGet (f : EX)
  | accRel (f : EX)
  | mxLic (f : EX)
  | mxWait (f : EX)
  | mxUnlic (f : EX)
  | gnCp (f : EX)
  | gnMx (f : EX)
  | gnWk (f : EX)
  | gnEdge (f : EX)
  | gnArm (f : EX)
  | gnWait (f : EX)
  | gnKill (f : EX)
  | gnFree (f : EX)
  | msend (f : EX)
  | mrecv (f : EX)
  | mcancel (f : EX)
  | mprobe (f : EX)
  | objCall (f : EX)
  | objCallv (f : CallvF)
  | objReply (f : EX)
  | objDone (f : EX)
  | objFail (f : EX)
  | slotOpen (f : EX)
  | slotRule (f : EX)
  | slotPass (f : EX)
  | slotSt (f : EX)
  | slotKerb (f : EX)
  | slotReopen (f : EX)
  | slotClose (f : EX)
  | kvMap (f : EX)
  | kvUnpin (f : EX)
  | kvSt (f : EX)
  | kvFork (f : EX)
  | kvDrop (f : EX)
  | kvLd (f : EX)
  | kvVqlut (f : EX)
  | kvVqsc (f : EX)
  | kvHad (f : EX)
  deriving DecidableEq, Repr

end Sys2Proof
end

