-- ==== Sys2Proof/Machine/Shape.lean ====
section
/-! DEFINITION. Sys2Proof/Machine/Shape.lean: which fields an instruction uses, from R34 to R38; the encodings that
raise E_ILL (R39) and the modifier fallbacks (R40), as far as the instruction's own fields decide them. -/

namespace Sys2Proof.Machine

/-- What a source field of a T3 or MR word accepts (R34, R35). `mode2`, `mode4` and `modeq`
are the mode bytes of `vcvp2`, `vcvp4` and `vcvq` (R154, R155), `unpk` the select byte of `vunpk` (R158), and `raw` a
code with no illegal value. -/
inductive SrcCls where
  | any
  | u
  | at
  | atu
  | vt
  | kidx
  | zero
  | code (n : Nat)
  | raw
  | mode2
  | mode4
  | modeq
  | unpk
  deriving DecidableEq, Repr

/-- The file a T3 destination names (R34). -/
inductive DstCls where
  | v
  | k
  | s
  | a
  deriving DecidableEq, Repr

/-- What a field of an EX word holds (R31, R37): nothing (must be 0); a uniform source; a varying source; a uniform
or varying destination; an index below `n`; an index in the low `n` bits, the others 0; a count from 1 to 7. -/
inductive ExCls where
  | zero
  | read
  | vread
  | dest
  | vdest
  | idx (n : Nat)
  | low (n : Nat)
  | count
  deriving DecidableEq, Repr

/-- Code of a t operand (R27). -/
def isT (c : BitVec 7) : Bool := 112 ≤ c.toNat && c.toNat < 120

/-- R39: the source code is one that the field accepts. A t of a class the instruction does not accept is left to
E_TMP (R29). -/
def srcLegal (cls : SrcCls) (c : BitVec 7) : Bool :=
  match cls with
  | .any => c.toNat < 120
  | .u => (64 ≤ c.toNat && c.toNat < 96) || isT c
  | .at => 96 ≤ c.toNat && c.toNat < 120
  | .atu => 64 ≤ c.toNat && c.toNat < 120
  | .vt => c.toNat < 64 || isT c
  | .kidx => c.toNat < 8
  | .zero => true
  | .code n => c.toNat < n
  | .raw | .mode2 | .modeq => true
  | .mode4 => (c.toNat / 8) % 4 != 3
  | .unpk => !([1, 14, 15].contains (c.toNat / 8))

/-- Row 13 of R40: a rounding field of 5 to 7. -/
def roundFallback (c : BitVec 7) : Bool := 5 ≤ c.toNat % 8

/-- Rows 11 to 13 of R40 for the mode byte of `vcvp2`, whose targets 0 and 1 are BF16 and FP16 (R155). -/
def mode2Fallback (c : BitVec 7) : Bool :=
  let target := (c.toNat / 8) % 4
  (bit c 5 && target < 2) || (bit c 6 && target == 0) || roundFallback c

/-- Rows 3 to 5 of R40 for one source field. HALF set in the mode byte of `vcvp4` with a whole-lane 8-bit target is
ignored and is no fallback: row 11 names a 16-bit target only, and R155 says nothing of it (DESIGN CHOICE, log 51). -/
def srcFallback (cls : SrcCls) (c : BitVec 7) (blk : BitVec 1) : Bool :=
  match cls with
  | .any | .u | .at | .atu | .vt => isT c && blk == 1
  | .kidx => blk == 1
  | .zero => c != 0 || blk == 1
  | .code _ => blk == 1
  | .raw | .unpk => blk == 1
  | .mode2 => mode2Fallback c || blk == 1
  | .mode4 | .modeq => roundFallback c || blk == 1

/-- R39 for a T3 destination. -/
def dstLegal (cls : DstCls) (d : BitVec 6) : Bool :=
  match cls with
  | .v => true
  | .k => d.toNat < 8
  | .s => d.toNat < 32
  | .a => d.toNat < 16

/-- Rows 1, 2 and 10 of R40. -/
def dstFallback (cls : DstCls) (d : BitVec 6) (w : BitVec 1) : Bool :=
  match cls with
  | .v => w == 1 && d != 0
  | .k => w == 1 || d == 0
  | .s | .a => w == 1

def t3Legal (d : DstCls) (a b : SrcCls) (f : T3) : Bool :=
  dstLegal d f.d && srcLegal a f.a && srcLegal b f.b

def t3Fallback (d : DstCls) (a b : SrcCls) (f : T3) : Bool :=
  dstFallback d f.d f.w || srcFallback a f.a f.ba || srcFallback b f.b f.bb

/-- R39 for an MR word; `uniform` is MAJ 0F, whose D names s0 to s31. -/
def mrLegal (x : SrcCls) (uniform : Bool) (f : MR) : Bool :=
  srcLegal x f.x && (!uniform || f.d.toNat < 32)

/-- Rows 3, 4, 6 and 7 of R40 for an MR word. -/
def mrFallback (load atomic : Bool) (f : MR) : Bool :=
  (load && f.bd == 1) || (isT f.x && f.bx == 1) || (f.ord == 0 && f.scope != 0) || (atomic && f.ord == 3)

/-- R39 for a field of an EX word. -/
def exFieldLegal (c : ExCls) (x : BitVec 5) : Bool :=
  match c with
  | .zero | .read | .vread | .dest | .vdest | .low _ => true
  | .idx n => x.toNat < n
  | .count => 1 ≤ x.toNat && x.toNat ≤ 7

/-- Rows 4 and 5 of R40 for a field of an EX word. -/
def exFieldFallback (c : ExCls) (x : BitVec 5) (blk : BitVec 1) : Bool :=
  match c with
  | .zero => x != 0 || blk == 1
  | .read | .vread => false
  | .dest | .vdest => blk == 1
  | .idx _ => blk == 1
  | .low n => 2 ^ n ≤ x.toNat || blk == 1
  | .count => blk == 1

def exLegal (d a b : ExCls) (f : EX) : Bool :=
  exFieldLegal d f.d && exFieldLegal a f.a && exFieldLegal b f.b

def exFallback (d a b : ExCls) (f : EX) : Bool :=
  exFieldFallback d f.d f.bd || exFieldFallback a f.a f.ba || exFieldFallback b f.b f.bb

/-- Row 9 of R40. -/
def brFallback (f : BR) : Bool := f.a != 0 || 8 ≤ f.b.toNat

/-- R84: 127 is none, 120 to 126 raise E_ILL. -/
def endrunLegal (f : EndrunF) : Bool :=
  (f.x.toNat < 120 || f.x == 127) && (f.y.toNat < 120 || f.y == 127)

/-- Rows 17 and 18 of R40. -/
def endrunFallback (f : EndrunF) : Bool :=
  f.n != 0 && (64 ≤ f.y.toNat || 63 < f.y.toNat + f.n.toNat)

/-- Row 15 of R40, and stray bits (row 5). -/
def setptFallback (f : SetptF) : Bool := f.rest != 0 || f.c == 0 || 6 ≤ f.c.toNat

/-- R105: the range lies in one file. -/
def feLegal (f : FeF) : Bool :=
  let last := f.x.toNat + f.n.toNat
  f.x.toNat < 64 || (f.x.toNat < 96 && last < 96) || (96 ≤ f.x.toNat && f.x.toNat < 112 && last < 112)

/-- R311: the format codes of `mx.lb`. -/
def mxLbLegal (f : MxLbF) : Bool := [2, 4, 5, 6, 7, 8, 10, 11].contains f.fmt.toNat

/-- R306, R307: the output codes of `mx.st`, and the record limit of the exponential path. -/
def mxStLegal (f : MxStF) : Bool :=
  [0, 1, 2, 3, 4, 5, 8].contains f.fmt.toNat && (f.exp == 0 || f.rc.toNat ≤ 13)

/-- The instruction meets no condition of R39 that its own fields decide. -/
def legal : Instr → Bool
  | .zwait _ => true
  | .vmov16 f => f.vd != 0 || f.vs != 0
  | .vaddI3216 _ => true
  | .vsubI3216 _ => true
  | .vand16 _ => true
  | .vor16 _ => true
  | .vxor16 _ => true
  | .vshl16 _ => true
  | .vshr16 _ => true
  | .vmaxI3216 _ => true
  | .vminI3216 _ => true
  | .vfadd16 _ => true
  | .vfsub16 _ => true
  | .vfmul16 _ => true
  | .vfmax16 _ => true
  | .vfmin16 _ => true
  | .vcvtF32I3216 _ => true
  | .vaddI32 f => t3Legal .v .any .any f
  | .vsubI32 f => t3Legal .v .any .any f
  | .vmulLo f => t3Legal .v .any .any f
  | .vmulhI32 f => t3Legal .v .any .any f
  | .vmulhN32 f => t3Legal .v .any .any f
  | .vminI32 f => t3Legal .v .any .any f
  | .vmaxI32 f => t3Legal .v .any .any f
  | .vminN32 f => t3Legal .v .any .any f
  | .vmaxN32 f => t3Legal .v .any .any f
  | .vabsI32 f => t3Legal .v .any .zero f
  | .vclz f => t3Legal .v .any .zero f
  | .vpopc f => t3Legal .v .any .zero f
  | .vmadLo f => t3Legal .v .any .any f
  | .vaddsI32 f => t3Legal .v .any .any f
  | .vsubsI32 f => t3Legal .v .any .any f
  | .vmov f => t3Legal .v .any .zero f
  | .vand f => t3Legal .v .any .any f
  | .vor f => t3Legal .v .any .any f
  | .vxor f => t3Legal .v .any .any f
  | .vandn f => t3Legal .v .any .any f
  | .vshl f => t3Legal .v .any .any f
  | .vshr f => t3Legal .v .any .any f
  | .vsra f => t3Legal .v .any .any f
  | .vrol f => t3Legal .v .any .any f
  | .vfadd f => t3Legal .v .any .any f
  | .vfsub f => t3Legal .v .any .any f
  | .vfmul f => t3Legal .v .any .any f
  | .vfmin f => t3Legal .v .any .any f
  | .vfmax f => t3Legal .v .any .any f
  | .vfabs f => t3Legal .v .any .zero f
  | .vfneg f => t3Legal .v .any .zero f
  | .vfcpys f => t3Legal .v .any .any f
  | .vfma f => t3Legal .v .any .any f
  | .vfms f => t3Legal .v .any .any f
  | .vfnma f => t3Legal .v .any .any f
  | .vfnms f => t3Legal .v .any .any f
  | .vhfmaBf16 f => t3Legal .v .any .any f
  | .vhfmaF16 f => t3Legal .v .any .any f
  | .vdot2Bf16 f => t3Legal .v .any .any f
  | .vdot2F16 f => t3Legal .v .any .any f
  | .vcmpEq f => t3Legal .k .any .any f
  | .vcmpNe f => t3Legal .k .any .any f
  | .vcmpLtI32 f => t3Legal .k .any .any f
  | .vcmpGeI32 f => t3Legal .k .any .any f
  | .vcmpLtN32 f => t3Legal .k .any .any f
  | .vcmpGeN32 f => t3Legal .k .any .any f
  | .vcmpTst f => t3Legal .k .any .any f
  | .vfcmpEq f => t3Legal .k .any .any f
  | .vfcmpNe f => t3Legal .k .any .any f
  | .vfcmpLt f => t3Legal .k .any .any f
  | .vfcmpLe f => t3Legal .k .any .any f
  | .vfcmpGt f => t3Legal .k .any .any f
  | .vfcmpGe f => t3Legal .k .any .any f
  | .vfcmpUn f => t3Legal .k .any .any f
  | .vfcmpOr f => t3Legal .k .any .any f
  | .vcvtF32I32 f => t3Legal .v .any .zero f
  | .vcvtI32F32 f => t3Legal .v .any .zero f
  | .vcvp2 f => t3Legal .v .vt .mode2 f
  | .vcvp4 f => t3Legal .v .vt .mode4 f
  | .vunpk f => t3Legal .v .any .unpk f
  | .vcvtF32N32 f => t3Legal .v .any .zero f
  | .vcvtN32F32 f => t3Legal .v .any .zero f
  | .vcvq f => t3Legal .v .vt .modeq f
  | .vrcp f => t3Legal .v .any .zero f
  | .vrsqrt f => t3Legal .v .any .zero f
  | .vsqrt f => t3Legal .v .any .zero f
  | .vexp2 f => t3Legal .v .any .zero f
  | .vlog2 f => t3Legal .v .any .zero f
  | .vtanh f => t3Legal .v .any .zero f
  | .vsinpi f => t3Legal .v .any .zero f
  | .vtake f => t3Legal .v .vt .zero f && (f.w == 1 || f.d != f.a.setWidth 6 || 64 ≤ f.a.toNat)
  | .vshfl f => t3Legal .v .any .any f
  | .vshflXor f => t3Legal .v .any .any f
  | .vshflUp f => t3Legal .v .any .any f
  | .vshflDn f => t3Legal .v .any .any f
  | .vred f => t3Legal .v .any (.code 8) f
  | .vscan f => t3Legal .v .any (.code 16) f
  | .vvoteAny f => t3Legal .k .any .raw f
  | .vvoteAll f => t3Legal .k .any .raw f
  | .vballot f => t3Legal .v .any .any f
  | .vselgt f => t3Legal .v .any .any f
  | .vtopk f => t3Legal .v .any .any f
  | .vsort f => t3Legal .v .any .any f
  | .vsel f => t3Legal .v .any .any f
  | .vbcast f => t3Legal .v .any .any f
  | .vrfa f => t3Legal .s .vt .zero f
  | .vlaneid f => t3Legal .v .zero .zero f
  | .vcomp f => t3Legal .v .any .any f
  | .vdp4s f => t3Legal .v .any .any f
  | .vdp4n f => t3Legal .v .any .any f
  | .vdp4sn f => t3Legal .v .any .any f
  | .vdp8s f => t3Legal .v .any .any f
  | .vdp4sW f => t3Legal .v .any .any f
  | .vldB8 f => mrLegal .any false f
  | .vldI8 f => mrLegal .any false f
  | .vldH16 f => mrLegal .any false f
  | .vldI16 f => mrLegal .any false f
  | .vldW32 f => mrLegal .any false f
  | .vldX2 f => mrLegal .any false f
  | .vldX4 f => mrLegal .any false f
  | .vldF16 f => mrLegal .any false f
  | .vstB8 f => mrLegal .any false f
  | .vstH16 f => mrLegal .any false f
  | .vstW32 f => mrLegal .any false f
  | .vstX2 f => mrLegal .any false f
  | .vstX4 f => mrLegal .any false f
  | .vstF16 f => mrLegal .any false f
  | .vatomAdd f => mrLegal .any false f
  | .vatomFadd f => mrLegal .any false f
  | .vatomMinI32 f => mrLegal .any false f
  | .vatomMaxI32 f => mrLegal .any false f
  | .vatomAnd f => mrLegal .any false f
  | .vatomOr f => mrLegal .any false f
  | .vatomXchg f => mrLegal .any false f
  | .vatomCas f => mrLegal .any false f
  | .sldW f => mrLegal .u true f
  | .sldH f => mrLegal .u true f
  | .sldB f => mrLegal .u true f
  | .sstW f => mrLegal .u true f
  | .sstH f => mrLegal .u true f
  | .sstB f => mrLegal .u true f
  | .satomAdd f => mrLegal .u true f
  | .satomCas f => mrLegal .u true f && f.d.toNat < 31
  | .sadd _ => true
  | .saddImm _ => true
  | .ssub _ => true
  | .ssubImm _ => true
  | .smul _ => true
  | .smulImm _ => true
  | .smulh _ => true
  | .smulhImm _ => true
  | .sand _ => true
  | .sandImm _ => true
  | .sor _ => true
  | .sorImm _ => true
  | .sxor _ => true
  | .sxorImm _ => true
  | .sshl _ => true
  | .sshlImm _ => true
  | .sshr _ => true
  | .sshrImm _ => true
  | .ssra _ => true
  | .ssraImm _ => true
  | .sminI32 _ => true
  | .sminI32Imm _ => true
  | .smaxI32 _ => true
  | .smaxI32Imm _ => true
  | .sminN32 _ => true
  | .sminN32Imm _ => true
  | .smaxN32 _ => true
  | .smaxN32Imm _ => true
  | .sdivN32 _ => true
  | .sdivN32Imm _ => true
  | .sremN32 _ => true
  | .sremN32Imm _ => true
  | .sli _ => true
  | .slui _ => true
  | .amk f => t3Legal .a .u .u f
  | .aadd f => t3Legal .a .at .atu f
  | .asub f => t3Legal .a .at .atu f
  | .amul f => t3Legal .a .at .u f
  | .ashl f => t3Legal .a .at .u f
  | .ashr f => t3Legal .a .at .u f
  | .aget f => t3Legal .s .at (.code 2) f
  | .a2v f => t3Legal .v .at .zero f
  | .kand f => t3Legal .k .kidx .kidx f
  | .kor f => t3Legal .k .kidx .kidx f
  | .kxor f => t3Legal .k .kidx .kidx f
  | .kandn f => t3Legal .k .kidx .kidx f
  | .knot f => t3Legal .k .kidx .zero f
  | .kmov f => t3Legal .k .u .zero f
  | .kpop f => t3Legal .s .kidx .zero f
  | .kfirst f => t3Legal .s .kidx .zero f
  | .beq _ => true
  | .bne _ => true
  | .blt _ => true
  | .bge _ => true
  | .bltN _ => true
  | .bgeN _ => true
  | .bkany _ => true
  | .bkall _ => true
  | .jmp _ => true
  | .call _ => true
  | .nop f => exLegal .zero .zero .zero f
  | .endrun f => endrunLegal f
  | .regang f => exLegal .zero .zero .zero f
  | .exit f => exLegal .zero .zero .zero f
  | .ret f => exLegal .zero .zero .zero f
  | .jr f => exLegal .zero .read .zero f
  | .trap _ => true
  | .brk f => exLegal .zero .zero .zero f
  | .yield f => exLegal .zero .zero .zero f
  | .kuse f => exLegal .zero (.idx 8) .zero f
  | .setpt _ => true
  | .isync f => exLegal .zero .zero .zero f
  | .rdctl f => exLegal .dest .zero (.idx 32) f
  | .wrctl f => exLegal .zero .read (.idx 32) f
  | .elect f => f.role.toNat < 32
  | .wfetch f => exLegal .dest .read .zero f
  | .wphase f => exLegal .dest .read .zero f
  | .prm f => exLegal .dest (.idx 4) .read f
  | .brld f => exLegal (.low 4) .read .zero f
  | .brset f => exLegal (.low 4) .read (.idx 8) f
  | .grow f => exLegal .dest .zero .count f
  | .shrink f => exLegal .zero .zero .count f
  | .rshare _ => true
  | .runshare f => exLegal .zero .read .zero f
  | .feClr f => feLegal f
  | .feSet f => feLegal f
  | .fence _ => true
  | .fenceX _ => true
  | .barInit f => exLegal .dest .read .read f
  | .barJoin f => exLegal .zero .read .zero f
  | .barArr f => exLegal .dest .read .zero f
  | .barWait f => exLegal .zero .read .read f
  | .barSync f => exLegal .zero .read .zero f
  | .barLeave f => exLegal .zero .read .zero f
  | .barFree f => exLegal .zero .read .zero f
  | .mxLb f => mxLbLegal f
  | .mxMma _ => true
  | .mxZero f => exLegal .zero .read .zero f
  | .mxSt f => mxStLegal f
  | .mxRmax f => exLegal (.idx 16) (.idx 8) .zero f
  | .mxRd _ => true
  | .mxWr f => exLegal .vread .read .zero f
  | .cbld f => exLegal (.low 3) .read .zero f
  | .accGet f => exLegal .dest .read .zero f
  | .accRel f => exLegal .zero .read .zero f
  | .mxLic f => exLegal .dest .read .zero f
  | .mxWait f => exLegal .zero .zero .zero f
  | .mxUnlic f => exLegal .zero .zero .zero f
  | .gnCp f => exLegal .dest .read .read f
  | .gnMx f => exLegal .dest .read .zero f
  | .gnWk f => exLegal .dest (.idx 32) .zero f && f.a != 0 && f.a != f.d
  | .gnEdge f => exLegal .zero .read .read f
  | .gnArm f => exLegal .zero .read .read f
  | .gnWait f => exLegal .dest .read .zero f
  | .gnKill f => exLegal .zero .read .zero f
  | .gnFree f => exLegal .zero .read .zero f
  | .msend f => exLegal .dest .read .read f
  | .mrecv f => exLegal .dest .read .read f
  | .mcancel f => exLegal .dest .zero .zero f
  | .mprobe f => exLegal .dest .zero .read f
  | .objCall f => exLegal .dest .read .read f
  | .objCallv _ => true
  | .objReply f => exLegal .zero .vread .zero f
  | .objDone f => exLegal .zero .zero .zero f
  | .objFail f => exLegal .zero .zero .zero f
  | .slotOpen f => exLegal .dest .read .zero f
  | .slotRule f => exLegal .zero .read .read f
  | .slotPass f => exLegal .dest .read .read f && f.d.toNat < 31
  | .slotSt f => exLegal .dest .read .read f && f.d.toNat < 31
  | .slotKerb f => exLegal .dest .read .zero f
  | .slotReopen f => exLegal .zero .read .read f
  | .slotClose f => exLegal .zero .read .zero f
  | .kvMap f => exLegal .dest .read .read f
  | .kvUnpin f => exLegal .zero .read .zero f
  | .kvSt f => exLegal .dest .read .read f
  | .kvFork f => exLegal .dest .read .zero f
  | .kvDrop f => exLegal .dest .read .zero f
  | .kvLd f => exLegal .dest .read .read f
  | .kvVqlut f => exLegal .zero .read .read f
  | .kvVqsc f => exLegal .zero .read .read f
  | .kvHad f => exLegal .vdest .vread .zero f
  | .powerGood => true
  | .bootRomImageCheck _ _ => true
  | .reducedServiceReached => true
  | .fullFunctionReached _ => true
  | .bootload _ => true
  | .featcommit _ => true
  | .attgo _ => true
  | .attestationReportReady => true
  | .timeSourceLock _ _ => true
  | .timeSourceLoss _ => true
  | .registerWrite _ _ _ => true
  | .hostApertureAccess _ _ _ => true
  | .regionTableWrite _ _ _ => true
  | .objectTableWrite _ _ _ _ => true
  | .rbtokWrite _ _ => true
  | .faultRingBaseWrite _ _ => true
  | .fqrWrite _ _ => true
  | .thermalBurstHalt _ => true
  | .thermalHaltLift _ => true
  | .patrolScrub _ _ => true
  | .telemetryRecord _ _ _ _ => true
  | .linkRecalibration _ => true
  | .contextAged _ _ => true
  | .implicitTrailer _ _ => true
  | .loadCompletion _ _ => true
  | .sfuCompletion _ _ => true
  | .accessPerformedAtHome _ _ _ => true
  | .accessAck _ _ _ => true
  | .bridgeCountReport _ _ _ => true
  | .paramLineFill _ _ => true
  | .translationLookupEnd _ _ => true
  | .replay _ _ => true
  | .cancel _ _ => true
  | .tsync _ _ => true
  | .tsyncComplete _ _ => true
  | .messageArrival _ => true
  | .msendStatus _ => true
  | .routerPowerDown _ => true
  | .routerWakeSignal _ => true
  | .routerWakeDone _ => true
  | .objTableRequest _ => true
  | .plazaPacketArrival _ => true
  | .plazaPacketRetry _ => true
  | .waveTimeoutClose _ _ => true
  | .waveStart _ => true
  | .waveBudgetExceeded _ => true
  | .objReplyArrival _ => true
  | .mxCommandRetire _ => true
  | .mxArbiterGrant _ => true
  | .roundaboutTokenArrival _ _ => true
  | .burstEnd _ _ => true
  | .vregPoolGrant _ => true
  | .copyNodeDone _ => true
  | .barrierPhaseNotify _ _ => true
  | .finaliserOpen _ => true
  | .finaliserRule _ => true
  | .finaliserPass _ => true
  | .finaliserSlotRead _ => true
  | .finaliserKerbRead _ => true
  | .finaliserReopen _ => true
  | .finaliserClose _ => true
  | .finaliserKvSlotRead _ => true
  | .kerbRetry _ _ => true
  | .finaliserCommandRetry _ => true
  | .slotReplyArrival _ => true
  | .kvStExec _ => true
  | .kvLdExec _ => true
  | .kvVqlutExec _ => true
  | .kvVqscExec _ => true
  | .widxWrite _ _ => true
  | .queueStateWrite _ _ => true
  | .ticketsWrite _ _ => true
  | .packetNop _ => true
  | .packetLaunch _ => true
  | .launchAdmission _ => true
  | .launchSenior _ => true
  | .launchComplete _ => true
  | .packetCopy _ => true
  | .copyPacketDone _ => true
  | .packetSignal _ => true
  | .packetWait _ => true
  | .waitReread _ => true
  | .packetIndirect _ => true
  | .packetTimer _ => true
  | .timerPacketDue _ => true
  | .packetFence _ => true
  | .streamOpen _ => true
  | .streamTouch _ => true
  | .streamRetime _ => true
  | .streamClose _ => true
  | .touchRegisterWrite _ => true
  | .streamDue _ => true
  | .streamEvictDone _ => true
  | .streamRestoreStart _ => true
  | .streamRestoreDone _ => true
  | .failover => true
  | .standbyAck => true
  | .save _ _ => true
  | .saveComplete _ => true
  | .restore _ _ => true
  | .kill _ _ => true
  | .resume _ _ => true
  | .handler _ _ => true
  | .zwaitResume _ => true
  | .illegalEncoding _ _ => true
  | .barrierArrivalAtTable _ => true
  | .finaliserCommandArrival _ => true

/-- The instruction takes a modifier fallback of R40 that its own fields decide. -/
def fallback : Instr → Bool
  | .zwait _ => false
  | .vmov16 _ => false
  | .vaddI3216 _ => false
  | .vsubI3216 _ => false
  | .vand16 _ => false
  | .vor16 _ => false
  | .vxor16 _ => false
  | .vshl16 _ => false
  | .vshr16 _ => false
  | .vmaxI3216 _ => false
  | .vminI3216 _ => false
  | .vfadd16 _ => false
  | .vfsub16 _ => false
  | .vfmul16 _ => false
  | .vfmax16 _ => false
  | .vfmin16 _ => false
  | .vcvtF32I3216 _ => false
  | .vaddI32 f => t3Fallback .v .any .any f
  | .vsubI32 f => t3Fallback .v .any .any f
  | .vmulLo f => t3Fallback .v .any .any f
  | .vmulhI32 f => t3Fallback .v .any .any f
  | .vmulhN32 f => t3Fallback .v .any .any f
  | .vminI32 f => t3Fallback .v .any .any f
  | .vmaxI32 f => t3Fallback .v .any .any f
  | .vminN32 f => t3Fallback .v .any .any f
  | .vmaxN32 f => t3Fallback .v .any .any f
  | .vabsI32 f => t3Fallback .v .any .zero f
  | .vclz f => t3Fallback .v .any .zero f
  | .vpopc f => t3Fallback .v .any .zero f
  | .vmadLo f => t3Fallback .v .any .any f
  | .vaddsI32 f => t3Fallback .v .any .any f
  | .vsubsI32 f => t3Fallback .v .any .any f
  | .vmov f => t3Fallback .v .any .zero f
  | .vand f => t3Fallback .v .any .any f
  | .vor f => t3Fallback .v .any .any f
  | .vxor f => t3Fallback .v .any .any f
  | .vandn f => t3Fallback .v .any .any f
  | .vshl f => t3Fallback .v .any .any f
  | .vshr f => t3Fallback .v .any .any f
  | .vsra f => t3Fallback .v .any .any f
  | .vrol f => t3Fallback .v .any .any f
  | .vfadd f => t3Fallback .v .any .any f
  | .vfsub f => t3Fallback .v .any .any f
  | .vfmul f => t3Fallback .v .any .any f
  | .vfmin f => t3Fallback .v .any .any f
  | .vfmax f => t3Fallback .v .any .any f
  | .vfabs f => t3Fallback .v .any .zero f
  | .vfneg f => t3Fallback .v .any .zero f
  | .vfcpys f => t3Fallback .v .any .any f
  | .vfma f => t3Fallback .v .any .any f
  | .vfms f => t3Fallback .v .any .any f
  | .vfnma f => t3Fallback .v .any .any f
  | .vfnms f => t3Fallback .v .any .any f
  | .vhfmaBf16 f => t3Fallback .v .any .any f
  | .vhfmaF16 f => t3Fallback .v .any .any f
  | .vdot2Bf16 f => t3Fallback .v .any .any f
  | .vdot2F16 f => t3Fallback .v .any .any f
  | .vcmpEq f => t3Fallback .k .any .any f
  | .vcmpNe f => t3Fallback .k .any .any f
  | .vcmpLtI32 f => t3Fallback .k .any .any f
  | .vcmpGeI32 f => t3Fallback .k .any .any f
  | .vcmpLtN32 f => t3Fallback .k .any .any f
  | .vcmpGeN32 f => t3Fallback .k .any .any f
  | .vcmpTst f => t3Fallback .k .any .any f
  | .vfcmpEq f => t3Fallback .k .any .any f
  | .vfcmpNe f => t3Fallback .k .any .any f
  | .vfcmpLt f => t3Fallback .k .any .any f
  | .vfcmpLe f => t3Fallback .k .any .any f
  | .vfcmpGt f => t3Fallback .k .any .any f
  | .vfcmpGe f => t3Fallback .k .any .any f
  | .vfcmpUn f => t3Fallback .k .any .any f
  | .vfcmpOr f => t3Fallback .k .any .any f
  | .vcvtF32I32 f => t3Fallback .v .any .zero f
  | .vcvtI32F32 f => t3Fallback .v .any .zero f
  | .vcvp2 f => t3Fallback .v .vt .mode2 f
  | .vcvp4 f => t3Fallback .v .vt .mode4 f
  | .vunpk f => t3Fallback .v .any .unpk f
  | .vcvtF32N32 f => t3Fallback .v .any .zero f
  | .vcvtN32F32 f => t3Fallback .v .any .zero f
  | .vcvq f => t3Fallback .v .vt .modeq f
  | .vrcp f => t3Fallback .v .any .zero f
  | .vrsqrt f => t3Fallback .v .any .zero f
  | .vsqrt f => t3Fallback .v .any .zero f
  | .vexp2 f => t3Fallback .v .any .zero f
  | .vlog2 f => t3Fallback .v .any .zero f
  | .vtanh f => t3Fallback .v .any .zero f
  | .vsinpi f => t3Fallback .v .any .zero f
  | .vtake f => t3Fallback .v .vt .zero f
  | .vshfl f => t3Fallback .v .any .any f
  | .vshflXor f => t3Fallback .v .any .any f
  | .vshflUp f => t3Fallback .v .any .any f
  | .vshflDn f => t3Fallback .v .any .any f
  | .vred f => t3Fallback .v .any (.code 8) f
  | .vscan f => t3Fallback .v .any (.code 16) f
  | .vvoteAny f => t3Fallback .k .any .raw f
  | .vvoteAll f => t3Fallback .k .any .raw f
  | .vballot f => t3Fallback .v .any .any f
  | .vselgt f => t3Fallback .v .any .any f
  | .vtopk f => t3Fallback .v .any .any f
  | .vsort f => t3Fallback .v .any .any f
  | .vsel f => t3Fallback .v .any .any f
  | .vbcast f => t3Fallback .v .any .any f
  | .vrfa f => t3Fallback .s .vt .zero f
  | .vlaneid f => t3Fallback .v .zero .zero f
  | .vcomp f => t3Fallback .v .any .any f
  | .vdp4s f => t3Fallback .v .any .any f
  | .vdp4n f => t3Fallback .v .any .any f
  | .vdp4sn f => t3Fallback .v .any .any f
  | .vdp8s f => t3Fallback .v .any .any f
  | .vdp4sW f => t3Fallback .v .any .any f
  | .vldB8 f => mrFallback true false f
  | .vldI8 f => mrFallback true false f
  | .vldH16 f => mrFallback true false f
  | .vldI16 f => mrFallback true false f
  | .vldW32 f => mrFallback true false f
  | .vldX2 f => mrFallback true false f
  | .vldX4 f => mrFallback true false f
  | .vldF16 f => mrFallback true false f
  | .vstB8 f => mrFallback false false f
  | .vstH16 f => mrFallback false false f
  | .vstW32 f => mrFallback false false f
  | .vstX2 f => mrFallback false false f
  | .vstX4 f => mrFallback false false f
  | .vstF16 f => mrFallback false false f
  | .vatomAdd f => mrFallback false true f
  | .vatomFadd f => mrFallback false true f
  | .vatomMinI32 f => mrFallback false true f
  | .vatomMaxI32 f => mrFallback false true f
  | .vatomAnd f => mrFallback false true f
  | .vatomOr f => mrFallback false true f
  | .vatomXchg f => mrFallback false true f
  | .vatomCas f => mrFallback false true f
  | .sldW f => mrFallback true false f
  | .sldH f => mrFallback true false f
  | .sldB f => mrFallback true false f
  | .sstW f => mrFallback false false f
  | .sstH f => mrFallback false false f
  | .sstB f => mrFallback false false f
  | .satomAdd f => mrFallback false true f
  | .satomCas f => mrFallback false true f
  | .sadd f => f.hi != 0
  | .saddImm _ => false
  | .ssub f => f.hi != 0
  | .ssubImm _ => false
  | .smul f => f.hi != 0
  | .smulImm _ => false
  | .smulh f => f.hi != 0
  | .smulhImm _ => false
  | .sand f => f.hi != 0
  | .sandImm _ => false
  | .sor f => f.hi != 0
  | .sorImm _ => false
  | .sxor f => f.hi != 0
  | .sxorImm _ => false
  | .sshl f => f.hi != 0
  | .sshlImm _ => false
  | .sshr f => f.hi != 0
  | .sshrImm _ => false
  | .ssra f => f.hi != 0
  | .ssraImm _ => false
  | .sminI32 f => f.hi != 0
  | .sminI32Imm _ => false
  | .smaxI32 f => f.hi != 0
  | .smaxI32Imm _ => false
  | .sminN32 f => f.hi != 0
  | .sminN32Imm _ => false
  | .smaxN32 f => f.hi != 0
  | .smaxN32Imm _ => false
  | .sdivN32 f => f.hi != 0
  | .sdivN32Imm _ => false
  | .sremN32 f => f.hi != 0
  | .sremN32Imm _ => false
  | .sli _ => false
  | .slui _ => false
  | .amk f => t3Fallback .a .u .u f
  | .aadd f => t3Fallback .a .at .atu f
  | .asub f => t3Fallback .a .at .atu f
  | .amul f => t3Fallback .a .at .u f
  | .ashl f => t3Fallback .a .at .u f
  | .ashr f => t3Fallback .a .at .u f
  | .aget f => t3Fallback .s .at (.code 2) f
  | .a2v f => t3Fallback .v .at .zero f
  | .kand f => t3Fallback .k .kidx .kidx f
  | .kor f => t3Fallback .k .kidx .kidx f
  | .kxor f => t3Fallback .k .kidx .kidx f
  | .kandn f => t3Fallback .k .kidx .kidx f
  | .knot f => t3Fallback .k .kidx .zero f
  | .kmov f => t3Fallback .k .u .zero f
  | .kpop f => t3Fallback .s .kidx .zero f
  | .kfirst f => t3Fallback .s .kidx .zero f
  | .beq _ => false
  | .bne _ => false
  | .blt _ => false
  | .bge _ => false
  | .bltN _ => false
  | .bgeN _ => false
  | .bkany f => brFallback f
  | .bkall f => brFallback f
  | .jmp _ => false
  | .call _ => false
  | .nop f => exFallback .zero .zero .zero f
  | .endrun f => endrunFallback f
  | .regang f => exFallback .zero .zero .zero f
  | .exit f => exFallback .zero .zero .zero f
  | .ret f => exFallback .zero .zero .zero f
  | .jr f => exFallback .zero .read .zero f
  | .trap _ => false
  | .brk f => exFallback .zero .zero .zero f
  | .yield f => exFallback .zero .zero .zero f
  | .kuse f => exFallback .zero (.idx 8) .zero f
  | .setpt f => setptFallback f
  | .isync f => exFallback .zero .zero .zero f
  | .rdctl f => exFallback .dest .zero (.idx 32) f
  | .wrctl f => exFallback .zero .read (.idx 32) f
  | .elect _ => false
  | .wfetch f => exFallback .dest .read .zero f
  | .wphase f => exFallback .dest .read .zero f
  | .prm f => exFallback .dest (.idx 4) .read f
  | .brld f => exFallback (.low 4) .read .zero f
  | .brset f => exFallback (.low 4) .read (.idx 8) f
  | .grow f => exFallback .dest .zero .count f
  | .shrink f => exFallback .zero .zero .count f
  | .rshare _ => false
  | .runshare f => exFallback .zero .read .zero f
  | .feClr f => f.rest != 0
  | .feSet f => f.rest != 0
  | .fence f => f.rest != 0 || f.scope.toNat > 4
  | .fenceX f => f.rest != 0 || f.scope.toNat > 4
  | .barInit f => exFallback .dest .read .read f
  | .barJoin f => exFallback .zero .read .zero f
  | .barArr f => exFallback .dest .read .zero f
  | .barWait f => exFallback .zero .read .read f
  | .barSync f => exFallback .zero .read .zero f
  | .barLeave f => exFallback .zero .read .zero f
  | .barFree f => exFallback .zero .read .zero f
  | .mxLb f => f.rest != 0
  | .mxMma f => f.rest != 0
  | .mxZero f => exFallback .zero .read .zero f
  | .mxSt f => f.rest != 0
  | .mxRmax f => exFallback (.idx 16) (.idx 8) .zero f
  | .mxRd _ => false
  | .mxWr f => exFallback .vread .read .zero f
  | .cbld f => exFallback (.low 3) .read .zero f
  | .accGet f => exFallback .dest .read .zero f
  | .accRel f => exFallback .zero .read .zero f
  | .mxLic f => exFallback .dest .read .zero f
  | .mxWait f => exFallback .zero .zero .zero f
  | .mxUnlic f => exFallback .zero .zero .zero f
  | .gnCp f => exFallback .dest .read .read f
  | .gnMx f => exFallback .dest .read .zero f
  | .gnWk f => exFallback .dest (.idx 32) .zero f
  | .gnEdge f => exFallback .zero .read .read f
  | .gnArm f => exFallback .zero .read .read f
  | .gnWait f => exFallback .dest .read .zero f
  | .gnKill f => exFallback .zero .read .zero f
  | .gnFree f => exFallback .zero .read .zero f
  | .msend f => exFallback .dest .read .read f
  | .mrecv f => exFallback .dest .read .read f
  | .mcancel f => exFallback .dest .zero .zero f
  | .mprobe f => exFallback .dest .zero .read f
  | .objCall f => exFallback .dest .read .read f
  | .objCallv f => f.rest != 0
  | .objReply f => exFallback .zero .vread .zero f
  | .objDone f => exFallback .zero .zero .zero f
  | .objFail f => exFallback .zero .zero .zero f
  | .slotOpen f => exFallback .dest .read .zero f
  | .slotRule f => exFallback .zero .read .read f
  | .slotPass f => exFallback .dest .read .read f
  | .slotSt f => exFallback .dest .read .read f
  | .slotKerb f => exFallback .dest .read .zero f
  | .slotReopen f => exFallback .zero .read .read f
  | .slotClose f => exFallback .zero .read .zero f
  | .kvMap f => exFallback .dest .read .read f
  | .kvUnpin f => exFallback .zero .read .zero f
  | .kvSt f => exFallback .dest .read .read f
  | .kvFork f => exFallback .dest .read .zero f
  | .kvDrop f => exFallback .dest .read .zero f
  | .kvLd f => exFallback .dest .read .read f
  | .kvVqlut f => exFallback .zero .read .read f
  | .kvVqsc f => exFallback .zero .read .read f
  | .kvHad f => exFallback .vdest .vread .zero f
  | .powerGood => false
  | .bootRomImageCheck _ _ => false
  | .reducedServiceReached => false
  | .fullFunctionReached _ => false
  | .bootload _ => false
  | .featcommit _ => false
  | .attgo _ => false
  | .attestationReportReady => false
  | .timeSourceLock _ _ => false
  | .timeSourceLoss _ => false
  | .registerWrite _ _ _ => false
  | .hostApertureAccess _ _ _ => false
  | .regionTableWrite _ _ _ => false
  | .objectTableWrite _ _ _ _ => false
  | .rbtokWrite _ _ => false
  | .faultRingBaseWrite _ _ => false
  | .fqrWrite _ _ => false
  | .thermalBurstHalt _ => false
  | .thermalHaltLift _ => false
  | .patrolScrub _ _ => false
  | .telemetryRecord _ _ _ _ => false
  | .linkRecalibration _ => false
  | .contextAged _ _ => false
  | .implicitTrailer _ _ => false
  | .loadCompletion _ _ => false
  | .sfuCompletion _ _ => false
  | .accessPerformedAtHome _ _ _ => false
  | .accessAck _ _ _ => false
  | .bridgeCountReport _ _ _ => false
  | .paramLineFill _ _ => false
  | .translationLookupEnd _ _ => false
  | .replay _ _ => false
  | .cancel _ _ => false
  | .tsync _ _ => false
  | .tsyncComplete _ _ => false
  | .messageArrival _ => false
  | .msendStatus _ => false
  | .routerPowerDown _ => false
  | .routerWakeSignal _ => false
  | .routerWakeDone _ => false
  | .objTableRequest _ => false
  | .plazaPacketArrival _ => false
  | .plazaPacketRetry _ => false
  | .waveTimeoutClose _ _ => false
  | .waveStart _ => false
  | .waveBudgetExceeded _ => false
  | .objReplyArrival _ => false
  | .mxCommandRetire _ => false
  | .mxArbiterGrant _ => false
  | .roundaboutTokenArrival _ _ => false
  | .burstEnd _ _ => false
  | .vregPoolGrant _ => false
  | .copyNodeDone _ => false
  | .barrierPhaseNotify _ _ => false
  | .finaliserOpen _ => false
  | .finaliserRule _ => false
  | .finaliserPass _ => false
  | .finaliserSlotRead _ => false
  | .finaliserKerbRead _ => false
  | .finaliserReopen _ => false
  | .finaliserClose _ => false
  | .finaliserKvSlotRead _ => false
  | .kerbRetry _ _ => false
  | .finaliserCommandRetry _ => false
  | .slotReplyArrival _ => false
  | .kvStExec _ => false
  | .kvLdExec _ => false
  | .kvVqlutExec _ => false
  | .kvVqscExec _ => false
  | .widxWrite _ _ => false
  | .queueStateWrite _ _ => false
  | .ticketsWrite _ _ => false
  | .packetNop _ => false
  | .packetLaunch _ => false
  | .launchAdmission _ => false
  | .launchSenior _ => false
  | .launchComplete _ => false
  | .packetCopy _ => false
  | .copyPacketDone _ => false
  | .packetSignal _ => false
  | .packetWait _ => false
  | .waitReread _ => false
  | .packetIndirect _ => false
  | .packetTimer _ => false
  | .timerPacketDue _ => false
  | .packetFence _ => false
  | .streamOpen _ => false
  | .streamTouch _ => false
  | .streamRetime _ => false
  | .streamClose _ => false
  | .touchRegisterWrite _ => false
  | .streamDue _ => false
  | .streamEvictDone _ => false
  | .streamRestoreStart _ => false
  | .streamRestoreDone _ => false
  | .failover => false
  | .standbyAck => false
  | .save _ _ => false
  | .saveComplete _ => false
  | .restore _ _ => false
  | .kill _ _ => false
  | .resume _ _ => false
  | .handler _ _ => false
  | .zwaitResume _ => false
  | .illegalEncoding _ _ => false
  | .barrierArrivalAtTable _ => false
  | .finaliserCommandArrival _ => false

end Sys2Proof.Machine
end

