-- ==== Sys2Proof/WellFormed.lean ====
section
/-! DEFINITION. Sys2Proof/WellFormed.lean: well-formed instructions. An encoded instruction is well formed when it
raises no E_ILL by its own fields (R39) and its word encodes it; a step is well formed when it names a unit that
exists (R6, R7, R377). -/

namespace Sys2Proof

/-- A core of the module (R6). -/
def coreOk (c : Nat) : Bool := c < 1536
/-- A context of a core: 0 to 63, or 64 for the plaza context. -/
def ctxOk (c : Nat) : Bool := c < 65
/-- A die of the module. -/
def dieOk (d : Nat) : Bool := d < 24
/-- A quad of a die. -/
def quadOk (q : Nat) : Bool := q < 16
/-- A command queue (R378). -/
def queueOk (q : Nat) : Bool := q < 256
/-- A stream id (R390). -/
def streamOk (i : Nat) : Bool := i < 16384
/-- A launch slot (R19). -/
def slotOk (s : Nat) : Bool := s < 256
/-- A hart of the 24 control cores (R12). -/
def hartOk (h : Nat) : Bool := h < 96
/-- A fault ring (R401). -/
def ringOk : RingId → Bool
  | .place c s => coreOk c && s < 4
  | .plaza d => dieOk d
/-- A register that REGISTER_WRITE reaches. -/
def regOk : Reg → Bool
  | .queue q _ => queueOk q
  | .featAcc i => i < 4
  | .attNonce i => i < 8
  | .apasid | .apbase _ | .pinBudget _ | .evictBase _ | .journalBase _ | .reserved => true
  | .plzlim d | .modid d | .tqErr d | .cqErr d | .telemetryBase d _ => dieOk d
  | .podRoute d m => dieOk d && m < 256
  | .kvPool d c w => dieOk d && c < 2 && w < 9
  | .withheld c => coreOk c
  | .root a _ => a < 256
  | .ringMsiAddr r _ | .ringMsiData r => ringOk r

/-- A well-formed instruction or step. -/
def Instr.wellFormed : Instr → Bool
  | .powerGood => true
  | .bootRomImageCheck _ _ => true
  | .reducedServiceReached => true
  | .fullFunctionReached _ => true
  | .bootload _ => true
  | .featcommit _ => true
  | .attgo _ => true
  | .attestationReportReady => true
  | .timeSourceLock _ _ => true
  | .timeSourceLoss _ => true
  | .registerWrite _ r _ => regOk r
  | .hostApertureAccess _ _ _ => true
  | .regionTableWrite core idx _ => coreOk core && idx < 32
  | .objectTableWrite die idx _ _ => dieOk die && idx < 4096
  | .rbtokWrite die _ => dieOk die
  | .faultRingBaseWrite r _ => ringOk r
  | .fqrWrite r _ => ringOk r
  | .thermalBurstHalt die => dieOk die
  | .thermalHaltLift die => dieOk die
  | .patrolScrub _ _ => true
  | .telemetryRecord die _ _ _ => dieOk die
  | .linkRecalibration _ => true
  | .contextAged core ctx => coreOk core && ctxOk ctx
  | .implicitTrailer core ctx => coreOk core && ctxOk ctx
  | .loadCompletion core _ => coreOk core
  | .sfuCompletion core _ => coreOk core
  | .accessPerformedAtHome core _ _ => coreOk core
  | .accessAck core _ _ => coreOk core
  | .bridgeCountReport core _ _ => coreOk core
  | .paramLineFill core ctx => coreOk core && ctxOk ctx
  | .translationLookupEnd core ctx => coreOk core && ctxOk ctx
  | .replay die _ => dieOk die
  | .cancel die _ => dieOk die
  | .tsync die _ => dieOk die
  | .tsyncComplete die _ => dieOk die
  | .messageArrival _ => true
  | .msendStatus _ => true
  | .routerPowerDown _ => true
  | .routerWakeSignal _ => true
  | .routerWakeDone _ => true
  | .objTableRequest _ => true
  | .plazaPacketArrival _ => true
  | .plazaPacketRetry _ => true
  | .waveTimeoutClose core _ => coreOk core
  | .waveStart core => coreOk core
  | .waveBudgetExceeded core => coreOk core
  | .objReplyArrival _ => true
  | .mxCommandRetire core => coreOk core
  | .mxArbiterGrant core => coreOk core
  | .roundaboutTokenArrival die quad => dieOk die && quadOk quad
  | .burstEnd die quad => dieOk die && quadOk quad
  | .vregPoolGrant core => coreOk core
  | .copyNodeDone core => coreOk core
  | .barrierPhaseNotify core ctx => coreOk core && ctxOk ctx
  | .finaliserOpen die => dieOk die
  | .finaliserRule die => dieOk die
  | .finaliserPass die => dieOk die
  | .finaliserSlotRead die => dieOk die
  | .finaliserKerbRead die => dieOk die
  | .finaliserReopen die => dieOk die
  | .finaliserClose die => dieOk die
  | .finaliserKvSlotRead die => dieOk die
  | .kerbRetry die blk => dieOk die && blk < 1024
  | .finaliserCommandRetry _ => true
  | .slotReplyArrival _ => true
  | .kvStExec core => coreOk core
  | .kvLdExec core => coreOk core
  | .kvVqlutExec core => coreOk core
  | .kvVqscExec core => coreOk core
  | .widxWrite q _ => queueOk q
  | .queueStateWrite q _ => queueOk q
  | .ticketsWrite q _ => queueOk q
  | .packetNop q => queueOk q
  | .packetLaunch q => queueOk q
  | .launchAdmission q => queueOk q
  | .launchSenior q => queueOk q
  | .launchComplete slot => slotOk slot
  | .packetCopy q => queueOk q
  | .copyPacketDone _ => true
  | .packetSignal q => queueOk q
  | .packetWait q => queueOk q
  | .waitReread q => queueOk q
  | .packetIndirect q => queueOk q
  | .packetTimer q => queueOk q
  | .timerPacketDue q => queueOk q
  | .packetFence q => queueOk q
  | .streamOpen q => queueOk q
  | .streamTouch q => queueOk q
  | .streamRetime q => queueOk q
  | .streamClose q => queueOk q
  | .touchRegisterWrite _ => true
  | .streamDue id => streamOk id
  | .streamEvictDone id => streamOk id
  | .streamRestoreStart id => streamOk id
  | .streamRestoreDone id => streamOk id
  | .failover => true
  | .standbyAck => true
  | .save die _ => dieOk die
  | .saveComplete core => coreOk core
  | .restore die _ => dieOk die
  | .kill die _ => dieOk die
  | .resume die _ => dieOk die
  | .handler die _ => dieOk die
  | .zwaitResume hart => hartOk hart
  | .illegalEncoding _ _ => true
  | .barrierArrivalAtTable _ => true
  | .finaliserCommandArrival _ => true
  | .zwait f => Machine.legal (.zwait f)
  | .vmov16 f => Machine.legal (.vmov16 f)
  | .vaddI3216 f => Machine.legal (.vaddI3216 f)
  | .vsubI3216 f => Machine.legal (.vsubI3216 f)
  | .vand16 f => Machine.legal (.vand16 f)
  | .vor16 f => Machine.legal (.vor16 f)
  | .vxor16 f => Machine.legal (.vxor16 f)
  | .vshl16 f => Machine.legal (.vshl16 f)
  | .vshr16 f => Machine.legal (.vshr16 f)
  | .vmaxI3216 f => Machine.legal (.vmaxI3216 f)
  | .vminI3216 f => Machine.legal (.vminI3216 f)
  | .vfadd16 f => Machine.legal (.vfadd16 f)
  | .vfsub16 f => Machine.legal (.vfsub16 f)
  | .vfmul16 f => Machine.legal (.vfmul16 f)
  | .vfmax16 f => Machine.legal (.vfmax16 f)
  | .vfmin16 f => Machine.legal (.vfmin16 f)
  | .vcvtF32I3216 f => Machine.legal (.vcvtF32I3216 f)
  | .vaddI32 f => Machine.legal (.vaddI32 f)
  | .vsubI32 f => Machine.legal (.vsubI32 f)
  | .vmulLo f => Machine.legal (.vmulLo f)
  | .vmulhI32 f => Machine.legal (.vmulhI32 f)
  | .vmulhN32 f => Machine.legal (.vmulhN32 f)
  | .vminI32 f => Machine.legal (.vminI32 f)
  | .vmaxI32 f => Machine.legal (.vmaxI32 f)
  | .vminN32 f => Machine.legal (.vminN32 f)
  | .vmaxN32 f => Machine.legal (.vmaxN32 f)
  | .vabsI32 f => Machine.legal (.vabsI32 f)
  | .vclz f => Machine.legal (.vclz f)
  | .vpopc f => Machine.legal (.vpopc f)
  | .vmadLo f => Machine.legal (.vmadLo f)
  | .vaddsI32 f => Machine.legal (.vaddsI32 f)
  | .vsubsI32 f => Machine.legal (.vsubsI32 f)
  | .vmov f => Machine.legal (.vmov f)
  | .vand f => Machine.legal (.vand f)
  | .vor f => Machine.legal (.vor f)
  | .vxor f => Machine.legal (.vxor f)
  | .vandn f => Machine.legal (.vandn f)
  | .vshl f => Machine.legal (.vshl f)
  | .vshr f => Machine.legal (.vshr f)
  | .vsra f => Machine.legal (.vsra f)
  | .vrol f => Machine.legal (.vrol f)
  | .vfadd f => Machine.legal (.vfadd f)
  | .vfsub f => Machine.legal (.vfsub f)
  | .vfmul f => Machine.legal (.vfmul f)
  | .vfmin f => Machine.legal (.vfmin f)
  | .vfmax f => Machine.legal (.vfmax f)
  | .vfabs f => Machine.legal (.vfabs f)
  | .vfneg f => Machine.legal (.vfneg f)
  | .vfcpys f => Machine.legal (.vfcpys f)
  | .vfma f => Machine.legal (.vfma f)
  | .vfms f => Machine.legal (.vfms f)
  | .vfnma f => Machine.legal (.vfnma f)
  | .vfnms f => Machine.legal (.vfnms f)
  | .vhfmaBf16 f => Machine.legal (.vhfmaBf16 f)
  | .vhfmaF16 f => Machine.legal (.vhfmaF16 f)
  | .vdot2Bf16 f => Machine.legal (.vdot2Bf16 f)
  | .vdot2F16 f => Machine.legal (.vdot2F16 f)
  | .vcmpEq f => Machine.legal (.vcmpEq f)
  | .vcmpNe f => Machine.legal (.vcmpNe f)
  | .vcmpLtI32 f => Machine.legal (.vcmpLtI32 f)
  | .vcmpGeI32 f => Machine.legal (.vcmpGeI32 f)
  | .vcmpLtN32 f => Machine.legal (.vcmpLtN32 f)
  | .vcmpGeN32 f => Machine.legal (.vcmpGeN32 f)
  | .vcmpTst f => Machine.legal (.vcmpTst f)
  | .vfcmpEq f => Machine.legal (.vfcmpEq f)
  | .vfcmpNe f => Machine.legal (.vfcmpNe f)
  | .vfcmpLt f => Machine.legal (.vfcmpLt f)
  | .vfcmpLe f => Machine.legal (.vfcmpLe f)
  | .vfcmpGt f => Machine.legal (.vfcmpGt f)
  | .vfcmpGe f => Machine.legal (.vfcmpGe f)
  | .vfcmpUn f => Machine.legal (.vfcmpUn f)
  | .vfcmpOr f => Machine.legal (.vfcmpOr f)
  | .vcvtF32I32 f => Machine.legal (.vcvtF32I32 f)
  | .vcvtI32F32 f => Machine.legal (.vcvtI32F32 f)
  | .vcvp2 f => Machine.legal (.vcvp2 f)
  | .vcvp4 f => Machine.legal (.vcvp4 f)
  | .vunpk f => Machine.legal (.vunpk f)
  | .vcvtF32N32 f => Machine.legal (.vcvtF32N32 f)
  | .vcvtN32F32 f => Machine.legal (.vcvtN32F32 f)
  | .vcvq f => Machine.legal (.vcvq f)
  | .vrcp f => Machine.legal (.vrcp f)
  | .vrsqrt f => Machine.legal (.vrsqrt f)
  | .vsqrt f => Machine.legal (.vsqrt f)
  | .vexp2 f => Machine.legal (.vexp2 f)
  | .vlog2 f => Machine.legal (.vlog2 f)
  | .vtanh f => Machine.legal (.vtanh f)
  | .vsinpi f => Machine.legal (.vsinpi f)
  | .vtake f => Machine.legal (.vtake f)
  | .vshfl f => Machine.legal (.vshfl f)
  | .vshflXor f => Machine.legal (.vshflXor f)
  | .vshflUp f => Machine.legal (.vshflUp f)
  | .vshflDn f => Machine.legal (.vshflDn f)
  | .vred f => Machine.legal (.vred f)
  | .vscan f => Machine.legal (.vscan f)
  | .vvoteAny f => Machine.legal (.vvoteAny f) && f.b == 0
  | .vvoteAll f => Machine.legal (.vvoteAll f) && f.b == 1
  | .vballot f => Machine.legal (.vballot f)
  | .vselgt f => Machine.legal (.vselgt f)
  | .vtopk f => Machine.legal (.vtopk f)
  | .vsort f => Machine.legal (.vsort f)
  | .vsel f => Machine.legal (.vsel f)
  | .vbcast f => Machine.legal (.vbcast f)
  | .vrfa f => Machine.legal (.vrfa f)
  | .vlaneid f => Machine.legal (.vlaneid f)
  | .vcomp f => Machine.legal (.vcomp f)
  | .vdp4s f => Machine.legal (.vdp4s f)
  | .vdp4n f => Machine.legal (.vdp4n f)
  | .vdp4sn f => Machine.legal (.vdp4sn f)
  | .vdp8s f => Machine.legal (.vdp8s f)
  | .vdp4sW f => Machine.legal (.vdp4sW f)
  | .vldB8 f => Machine.legal (.vldB8 f)
  | .vldI8 f => Machine.legal (.vldI8 f)
  | .vldH16 f => Machine.legal (.vldH16 f)
  | .vldI16 f => Machine.legal (.vldI16 f)
  | .vldW32 f => Machine.legal (.vldW32 f)
  | .vldX2 f => Machine.legal (.vldX2 f)
  | .vldX4 f => Machine.legal (.vldX4 f)
  | .vldF16 f => Machine.legal (.vldF16 f)
  | .vstB8 f => Machine.legal (.vstB8 f)
  | .vstH16 f => Machine.legal (.vstH16 f)
  | .vstW32 f => Machine.legal (.vstW32 f)
  | .vstX2 f => Machine.legal (.vstX2 f)
  | .vstX4 f => Machine.legal (.vstX4 f)
  | .vstF16 f => Machine.legal (.vstF16 f)
  | .vatomAdd f => Machine.legal (.vatomAdd f)
  | .vatomFadd f => Machine.legal (.vatomFadd f)
  | .vatomMinI32 f => Machine.legal (.vatomMinI32 f)
  | .vatomMaxI32 f => Machine.legal (.vatomMaxI32 f)
  | .vatomAnd f => Machine.legal (.vatomAnd f)
  | .vatomOr f => Machine.legal (.vatomOr f)
  | .vatomXchg f => Machine.legal (.vatomXchg f)
  | .vatomCas f => Machine.legal (.vatomCas f)
  | .sldW f => Machine.legal (.sldW f)
  | .sldH f => Machine.legal (.sldH f)
  | .sldB f => Machine.legal (.sldB f)
  | .sstW f => Machine.legal (.sstW f)
  | .sstH f => Machine.legal (.sstH f)
  | .sstB f => Machine.legal (.sstB f)
  | .satomAdd f => Machine.legal (.satomAdd f)
  | .satomCas f => Machine.legal (.satomCas f)
  | .sadd f => Machine.legal (.sadd f)
  | .saddImm f => Machine.legal (.saddImm f)
  | .ssub f => Machine.legal (.ssub f)
  | .ssubImm f => Machine.legal (.ssubImm f)
  | .smul f => Machine.legal (.smul f)
  | .smulImm f => Machine.legal (.smulImm f)
  | .smulh f => Machine.legal (.smulh f)
  | .smulhImm f => Machine.legal (.smulhImm f)
  | .sand f => Machine.legal (.sand f)
  | .sandImm f => Machine.legal (.sandImm f)
  | .sor f => Machine.legal (.sor f)
  | .sorImm f => Machine.legal (.sorImm f)
  | .sxor f => Machine.legal (.sxor f)
  | .sxorImm f => Machine.legal (.sxorImm f)
  | .sshl f => Machine.legal (.sshl f)
  | .sshlImm f => Machine.legal (.sshlImm f)
  | .sshr f => Machine.legal (.sshr f)
  | .sshrImm f => Machine.legal (.sshrImm f)
  | .ssra f => Machine.legal (.ssra f)
  | .ssraImm f => Machine.legal (.ssraImm f)
  | .sminI32 f => Machine.legal (.sminI32 f)
  | .sminI32Imm f => Machine.legal (.sminI32Imm f)
  | .smaxI32 f => Machine.legal (.smaxI32 f)
  | .smaxI32Imm f => Machine.legal (.smaxI32Imm f)
  | .sminN32 f => Machine.legal (.sminN32 f)
  | .sminN32Imm f => Machine.legal (.sminN32Imm f)
  | .smaxN32 f => Machine.legal (.smaxN32 f)
  | .smaxN32Imm f => Machine.legal (.smaxN32Imm f)
  | .sdivN32 f => Machine.legal (.sdivN32 f)
  | .sdivN32Imm f => Machine.legal (.sdivN32Imm f)
  | .sremN32 f => Machine.legal (.sremN32 f)
  | .sremN32Imm f => Machine.legal (.sremN32Imm f)
  | .sli f => Machine.legal (.sli f)
  | .slui f => Machine.legal (.slui f)
  | .amk f => Machine.legal (.amk f)
  | .aadd f => Machine.legal (.aadd f)
  | .asub f => Machine.legal (.asub f)
  | .amul f => Machine.legal (.amul f)
  | .ashl f => Machine.legal (.ashl f)
  | .ashr f => Machine.legal (.ashr f)
  | .aget f => Machine.legal (.aget f)
  | .a2v f => Machine.legal (.a2v f)
  | .kand f => Machine.legal (.kand f)
  | .kor f => Machine.legal (.kor f)
  | .kxor f => Machine.legal (.kxor f)
  | .kandn f => Machine.legal (.kandn f)
  | .knot f => Machine.legal (.knot f)
  | .kmov f => Machine.legal (.kmov f)
  | .kpop f => Machine.legal (.kpop f)
  | .kfirst f => Machine.legal (.kfirst f)
  | .beq f => Machine.legal (.beq f)
  | .bne f => Machine.legal (.bne f)
  | .blt f => Machine.legal (.blt f)
  | .bge f => Machine.legal (.bge f)
  | .bltN f => Machine.legal (.bltN f)
  | .bgeN f => Machine.legal (.bgeN f)
  | .bkany f => Machine.legal (.bkany f)
  | .bkall f => Machine.legal (.bkall f)
  | .jmp f => Machine.legal (.jmp f)
  | .call f => Machine.legal (.call f)
  | .nop f => Machine.legal (.nop f)
  | .endrun f => Machine.legal (.endrun f)
  | .regang f => Machine.legal (.regang f)
  | .exit f => Machine.legal (.exit f)
  | .ret f => Machine.legal (.ret f)
  | .jr f => Machine.legal (.jr f)
  | .trap f => Machine.legal (.trap f)
  | .brk f => Machine.legal (.brk f)
  | .yield f => Machine.legal (.yield f)
  | .kuse f => Machine.legal (.kuse f)
  | .setpt f => Machine.legal (.setpt f)
  | .isync f => Machine.legal (.isync f)
  | .rdctl f => Machine.legal (.rdctl f)
  | .wrctl f => Machine.legal (.wrctl f)
  | .elect f => Machine.legal (.elect f)
  | .wfetch f => Machine.legal (.wfetch f)
  | .wphase f => Machine.legal (.wphase f)
  | .prm f => Machine.legal (.prm f)
  | .brld f => Machine.legal (.brld f)
  | .brset f => Machine.legal (.brset f)
  | .grow f => Machine.legal (.grow f)
  | .shrink f => Machine.legal (.shrink f)
  | .rshare f => Machine.legal (.rshare f)
  | .runshare f => Machine.legal (.runshare f)
  | .feClr f => Machine.legal (.feClr f)
  | .feSet f => Machine.legal (.feSet f)
  | .fence f => Machine.legal (.fence f)
  | .fenceX f => Machine.legal (.fenceX f)
  | .barInit f => Machine.legal (.barInit f)
  | .barJoin f => Machine.legal (.barJoin f)
  | .barArr f => Machine.legal (.barArr f)
  | .barWait f => Machine.legal (.barWait f)
  | .barSync f => Machine.legal (.barSync f)
  | .barLeave f => Machine.legal (.barLeave f)
  | .barFree f => Machine.legal (.barFree f)
  | .mxLb f => Machine.legal (.mxLb f)
  | .mxMma f => Machine.legal (.mxMma f)
  | .mxZero f => Machine.legal (.mxZero f)
  | .mxSt f => Machine.legal (.mxSt f)
  | .mxRmax f => Machine.legal (.mxRmax f)
  | .mxRd f => Machine.legal (.mxRd f)
  | .mxWr f => Machine.legal (.mxWr f)
  | .cbld f => Machine.legal (.cbld f)
  | .accGet f => Machine.legal (.accGet f)
  | .accRel f => Machine.legal (.accRel f)
  | .mxLic f => Machine.legal (.mxLic f)
  | .mxWait f => Machine.legal (.mxWait f)
  | .mxUnlic f => Machine.legal (.mxUnlic f)
  | .gnCp f => Machine.legal (.gnCp f)
  | .gnMx f => Machine.legal (.gnMx f)
  | .gnWk f => Machine.legal (.gnWk f)
  | .gnEdge f => Machine.legal (.gnEdge f)
  | .gnArm f => Machine.legal (.gnArm f)
  | .gnWait f => Machine.legal (.gnWait f)
  | .gnKill f => Machine.legal (.gnKill f)
  | .gnFree f => Machine.legal (.gnFree f)
  | .msend f => Machine.legal (.msend f)
  | .mrecv f => Machine.legal (.mrecv f)
  | .mcancel f => Machine.legal (.mcancel f)
  | .mprobe f => Machine.legal (.mprobe f)
  | .objCall f => Machine.legal (.objCall f)
  | .objCallv f => Machine.legal (.objCallv f)
  | .objReply f => Machine.legal (.objReply f)
  | .objDone f => Machine.legal (.objDone f)
  | .objFail f => Machine.legal (.objFail f)
  | .slotOpen f => Machine.legal (.slotOpen f)
  | .slotRule f => Machine.legal (.slotRule f)
  | .slotPass f => Machine.legal (.slotPass f)
  | .slotSt f => Machine.legal (.slotSt f)
  | .slotKerb f => Machine.legal (.slotKerb f)
  | .slotReopen f => Machine.legal (.slotReopen f)
  | .slotClose f => Machine.legal (.slotClose f)
  | .kvMap f => Machine.legal (.kvMap f)
  | .kvUnpin f => Machine.legal (.kvUnpin f)
  | .kvSt f => Machine.legal (.kvSt f)
  | .kvFork f => Machine.legal (.kvFork f)
  | .kvDrop f => Machine.legal (.kvDrop f)
  | .kvLd f => Machine.legal (.kvLd f)
  | .kvVqlut f => Machine.legal (.kvVqlut f)
  | .kvVqsc f => Machine.legal (.kvVqsc f)
  | .kvHad f => Machine.legal (.kvHad f)

end Sys2Proof
end

