-- ==== Sys2Proof/Decode.lean ====
section
/-! DEFINITION. Sys2Proof/Decode.lean: framing (R23), the 16-bit form (R24, R25), the 32-bit formats (R31) and the
opcode map (R33 to R38), and the encoder that inverts them. A word that is no instruction (R39) is rejected by name. -/

namespace Sys2Proof

/-- Why bytes are no instruction (R39, R26). -/
inductive Reject where
  /-- Fewer bytes than the instruction has. -/
  | short
  /-- The halfword 0x0000. -/
  | zeroHalfword
  /-- MAJ 1F. -/
  | major (maj : Nat)
  /-- A minor field that R34 to R37 leave out. -/
  | minor (maj fn sub : Nat)
  deriving DecidableEq, Repr

/-! ### Fields of the formats -/

/-- MAJ (R31). -/
def wMaj (w : BitVec 32) : Nat := (w.extractLsb' 1 5).toNat
/-- FN of T3, SR, MR, BR and EX words. -/
def wFn (w : BitVec 32) : Nat := (w.extractLsb' 6 3).toNat
/-- SUB of an EX word. -/
def wSub (w : BitVec 32) : Nat := (w.extractLsb' 9 5).toNat

/-- The fields of a word of this format. -/
def readT3 (w : BitVec 32) : T3 :=
  { d := w.extractLsb' 9 6, w := w.extractLsb' 15 1, a := w.extractLsb' 16 7, ba := w.extractLsb' 23 1, b := w.extractLsb' 24 7, bb := w.extractLsb' 31 1 }

/-- The word of this format. -/
def wordT3 (maj fn : Nat) (f : T3) : BitVec 32 :=
  (f.bb ++ f.b ++ f.ba ++ f.a ++ f.w ++ f.d ++ BitVec.ofNat 3 fn ++ BitVec.ofNat 5 maj ++ (1 : BitVec 1)).setWidth 32

/-- The fields of a word of this format. -/
def readMR (w : BitVec 32) : MR :=
  { d := w.extractLsb' 9 6, bd := w.extractLsb' 15 1, x := w.extractLsb' 16 7, bx := w.extractLsb' 23 1, rc := w.extractLsb' 24 4, ord := w.extractLsb' 28 2, scope := w.extractLsb' 30 2 }

/-- The word of this format. -/
def wordMR (maj fn : Nat) (f : MR) : BitVec 32 :=
  (f.scope ++ f.ord ++ f.rc ++ f.bx ++ f.x ++ f.bd ++ f.d ++ BitVec.ofNat 3 fn ++ BitVec.ofNat 5 maj ++ (1 : BitVec 1)).setWidth 32

/-- The fields of a word of this format. -/
def readSR (w : BitVec 32) : SR :=
  { d := w.extractLsb' 9 5, a := w.extractLsb' 15 5, ba := w.extractLsb' 20 1, b := w.extractLsb' 21 5, bb := w.extractLsb' 26 1, hi := w.extractLsb' 27 5 }

/-- The word of this format. -/
def wordSR (maj fn : Nat) (f : SR) : BitVec 32 :=
  (f.hi ++ f.bb ++ f.b ++ f.ba ++ f.a ++ (0 : BitVec 1) ++ f.d ++ BitVec.ofNat 3 fn ++ BitVec.ofNat 5 maj ++ (1 : BitVec 1)).setWidth 32

/-- The fields of a word of this format. -/
def readSRI (w : BitVec 32) : SRI :=
  { d := w.extractLsb' 9 5, a := w.extractLsb' 15 5, ba := w.extractLsb' 20 1, imm := w.extractLsb' 21 11 }

/-- The word of this format. -/
def wordSRI (maj fn : Nat) (f : SRI) : BitVec 32 :=
  (f.imm ++ f.ba ++ f.a ++ (1 : BitVec 1) ++ f.d ++ BitVec.ofNat 3 fn ++ BitVec.ofNat 5 maj ++ (1 : BitVec 1)).setWidth 32

/-- The fields of a word of this format. -/
def readUI (w : BitVec 32) : UI :=
  { d := w.extractLsb' 6 5, imm := w.extractLsb' 11 21 }

/-- The word of this format. -/
def wordUI (maj : Nat) (f : UI) : BitVec 32 :=
  (f.imm ++ f.d ++ BitVec.ofNat 5 maj ++ (1 : BitVec 1)).setWidth 32

/-- The fields of a word of this format. -/
def readBR (w : BitVec 32) : BR :=
  { a := w.extractLsb' 9 5, b := w.extractLsb' 14 5, disp := w.extractLsb' 19 13 }

/-- The word of this format. -/
def wordBR (maj fn : Nat) (f : BR) : BitVec 32 :=
  (f.disp ++ f.b ++ f.a ++ BitVec.ofNat 3 fn ++ BitVec.ofNat 5 maj ++ (1 : BitVec 1)).setWidth 32

/-- The fields of a word of this format. -/
def readJ (w : BitVec 32) : J :=
  { disp := w.extractLsb' 7 25 }

/-- The word of this format. -/
def wordJ (maj l : Nat) (f : J) : BitVec 32 :=
  (f.disp ++ BitVec.ofNat 1 l ++ BitVec.ofNat 5 maj ++ (1 : BitVec 1)).setWidth 32

/-- The fields of a word of this format. -/
def readEX (w : BitVec 32) : EX :=
  { d := w.extractLsb' 14 5, bd := w.extractLsb' 19 1, a := w.extractLsb' 20 5, ba := w.extractLsb' 25 1, b := w.extractLsb' 26 5, bb := w.extractLsb' 31 1 }

/-- The word of this format. -/
def wordEX (maj fn sub : Nat) (f : EX) : BitVec 32 :=
  (f.bb ++ f.b ++ f.ba ++ f.a ++ f.bd ++ f.d ++ BitVec.ofNat 5 sub ++ BitVec.ofNat 3 fn ++ BitVec.ofNat 5 maj ++ (1 : BitVec 1)).setWidth 32

/-- The fields of a word of this format. -/
def readEndrunF (w : BitVec 32) : EndrunF :=
  { x := w.extractLsb' 14 7, y := w.extractLsb' 21 7, n := w.extractLsb' 28 4 }

/-- The word of this format. -/
def wordEndrunF (maj fn sub : Nat) (f : EndrunF) : BitVec 32 :=
  (f.n ++ f.y ++ f.x ++ BitVec.ofNat 5 sub ++ BitVec.ofNat 3 fn ++ BitVec.ofNat 5 maj ++ (1 : BitVec 1)).setWidth 32

/-- The fields of a word of this format. -/
def readTrapF (w : BitVec 32) : TrapF :=
  { code := w.extractLsb' 14 18 }

/-- The word of this format. -/
def wordTrapF (maj fn sub : Nat) (f : TrapF) : BitVec 32 :=
  (f.code ++ BitVec.ofNat 5 sub ++ BitVec.ofNat 3 fn ++ BitVec.ofNat 5 maj ++ (1 : BitVec 1)).setWidth 32

/-- The fields of a word of this format. -/
def readElectF (w : BitVec 32) : ElectF :=
  { role := w.extractLsb' 14 18 }

/-- The word of this format. -/
def wordElectF (maj fn sub : Nat) (f : ElectF) : BitVec 32 :=
  (f.role ++ BitVec.ofNat 5 sub ++ BitVec.ofNat 3 fn ++ BitVec.ofNat 5 maj ++ (1 : BitVec 1)).setWidth 32

/-- The fields of a word of this format. -/
def readSetptF (w : BitVec 32) : SetptF :=
  { c := w.extractLsb' 14 3, rest := w.extractLsb' 17 15 }

/-- The word of this format. -/
def wordSetptF (maj fn sub : Nat) (f : SetptF) : BitVec 32 :=
  (f.rest ++ f.c ++ BitVec.ofNat 5 sub ++ BitVec.ofNat 3 fn ++ BitVec.ofNat 5 maj ++ (1 : BitVec 1)).setWidth 32

/-- The fields of a word of this format. -/
def readRshareF (w : BitVec 32) : RshareF :=
  { first := w.extractLsb' 14 6, count := w.extractLsb' 20 6, id := w.extractLsb' 26 6 }

/-- The word of this format. -/
def wordRshareF (maj fn sub : Nat) (f : RshareF) : BitVec 32 :=
  (f.id ++ f.count ++ f.first ++ BitVec.ofNat 5 sub ++ BitVec.ofNat 3 fn ++ BitVec.ofNat 5 maj ++ (1 : BitVec 1)).setWidth 32

/-- The fields of a word of this format. -/
def readFeF (w : BitVec 32) : FeF :=
  { x := w.extractLsb' 14 7, n := w.extractLsb' 21 4, rest := w.extractLsb' 25 7 }

/-- The word of this format. -/
def wordFeF (maj fn sub : Nat) (f : FeF) : BitVec 32 :=
  (f.rest ++ f.n ++ f.x ++ BitVec.ofNat 5 sub ++ BitVec.ofNat 3 fn ++ BitVec.ofNat 5 maj ++ (1 : BitVec 1)).setWidth 32

/-- The fields of a word of this format. -/
def readFenceF (w : BitVec 32) : FenceF :=
  { scope := w.extractLsb' 14 3, rest := w.extractLsb' 17 15 }

/-- The word of this format. -/
def wordFenceF (maj fn sub : Nat) (f : FenceF) : BitVec 32 :=
  (f.rest ++ f.scope ++ BitVec.ofNat 5 sub ++ BitVec.ofNat 3 fn ++ BitVec.ofNat 5 maj ++ (1 : BitVec 1)).setWidth 32

/-- The fields of a word of this format. -/
def readFenceXF (w : BitVec 32) : FenceXF :=
  { setA := w.extractLsb' 14 6, setB := w.extractLsb' 20 6, scope := w.extractLsb' 26 3, rest := w.extractLsb' 29 3 }

/-- The word of this format. -/
def wordFenceXF (maj fn sub : Nat) (f : FenceXF) : BitVec 32 :=
  (f.rest ++ f.scope ++ f.setB ++ f.setA ++ BitVec.ofNat 5 sub ++ BitVec.ofNat 3 fn ++ BitVec.ofNat 5 maj ++ (1 : BitVec 1)).setWidth 32

/-- The fields of a word of this format. -/
def readMxLbF (w : BitVec 32) : MxLbF :=
  { rc := w.extractLsb' 14 4, slot := w.extractLsb' 18 6, fmt := w.extractLsb' 24 4, pair := w.extractLsb' 28 1, rest := w.extractLsb' 29 3 }

/-- The word of this format. -/
def wordMxLbF (maj fn sub : Nat) (f : MxLbF) : BitVec 32 :=
  (f.rest ++ f.pair ++ f.fmt ++ f.slot ++ f.rc ++ BitVec.ofNat 5 sub ++ BitVec.ofNat 3 fn ++ BitVec.ofNat 5 maj ++ (1 : BitVec 1)).setWidth 32

/-- The fields of a word of this format. -/
def readMxMmaF (w : BitVec 32) : MxMmaF :=
  { rc := w.extractLsb' 14 4, slot := w.extractLsb' 18 6, tile := w.extractLsb' 24 3, ov := w.extractLsb' 27 1, rest := w.extractLsb' 28 4 }

/-- The word of this format. -/
def wordMxMmaF (maj fn sub : Nat) (f : MxMmaF) : BitVec 32 :=
  (f.rest ++ f.ov ++ f.tile ++ f.slot ++ f.rc ++ BitVec.ofNat 5 sub ++ BitVec.ofNat 3 fn ++ BitVec.ofNat 5 maj ++ (1 : BitVec 1)).setWidth 32

/-- The fields of a word of this format. -/
def readMxStF (w : BitVec 32) : MxStF :=
  { rc := w.extractLsb' 14 4, rest := w.extractLsb' 18 6, tile := w.extractLsb' 24 3, exp := w.extractLsb' 27 1, fmt := w.extractLsb' 28 4 }

/-- The word of this format. -/
def wordMxStF (maj fn sub : Nat) (f : MxStF) : BitVec 32 :=
  (f.fmt ++ f.exp ++ f.tile ++ f.rest ++ f.rc ++ BitVec.ofNat 5 sub ++ BitVec.ofNat 3 fn ++ BitVec.ofNat 5 maj ++ (1 : BitVec 1)).setWidth 32

/-- The fields of a word of this format. -/
def readMxRdF (w : BitVec 32) : MxRdF :=
  { v := w.extractLsb' 14 6, tile := w.extractLsb' 20 3, row := w.extractLsb' 23 7, block := w.extractLsb' 30 2 }

/-- The word of this format. -/
def wordMxRdF (maj fn sub : Nat) (f : MxRdF) : BitVec 32 :=
  (f.block ++ f.row ++ f.tile ++ f.v ++ BitVec.ofNat 5 sub ++ BitVec.ofNat 3 fn ++ BitVec.ofNat 5 maj ++ (1 : BitVec 1)).setWidth 32

/-- The fields of a word of this format. -/
def readCallvF (w : BitVec 32) : CallvF :=
  { d := w.extractLsb' 14 6, a := w.extractLsb' 20 6, s := w.extractLsb' 26 5, rest := w.extractLsb' 31 1 }

/-- The word of this format. -/
def wordCallvF (maj fn sub : Nat) (f : CallvF) : BitVec 32 :=
  (f.rest ++ f.s ++ f.a ++ f.d ++ BitVec.ofNat 5 sub ++ BitVec.ofNat 3 fn ++ BitVec.ofNat 5 maj ++ (1 : BitVec 1)).setWidth 32

/-- The fields of a halfword (R24). -/
def readH (h : BitVec 16) : H := { vd := h.extractLsb' 5 6, vs := h.extractLsb' 11 5 }

/-- The halfword of operation `op`. -/
def wordH (op : Nat) (f : H) : BitVec 16 := f.vs ++ f.vd ++ BitVec.ofNat 4 op ++ (0 : BitVec 1)

/-! ### The opcode map -/

/-- The 16-bit form (R25, R26). -/
noncomputable def decode16 (h : BitVec 16) : Except Reject Instr :=
  if h == 0 then .error .zeroHalfword else
  let f := readH h
  match (h.extractLsb' 1 4).toNat with
  | 0 => .ok (.vmov16 f)
  | 1 => .ok (.vaddI3216 f)
  | 2 => .ok (.vsubI3216 f)
  | 3 => .ok (.vand16 f)
  | 4 => .ok (.vor16 f)
  | 5 => .ok (.vxor16 f)
  | 6 => .ok (.vshl16 f)
  | 7 => .ok (.vshr16 f)
  | 8 => .ok (.vmaxI3216 f)
  | 9 => .ok (.vminI3216 f)
  | 10 => .ok (.vfadd16 f)
  | 11 => .ok (.vfsub16 f)
  | 12 => .ok (.vfmul16 f)
  | 13 => .ok (.vfmax16 f)
  | 14 => .ok (.vfmin16 f)
  | _ => .ok (.vcvtF32I3216 f)

/-- MAJ 00. -/
noncomputable def decodeMaj00 (w : BitVec 32) : Except Reject Instr :=
  match wFn w with
  | 0 => .ok (.vaddI32 (readT3 w))
  | 1 => .ok (.vsubI32 (readT3 w))
  | 2 => .ok (.vmulLo (readT3 w))
  | 3 => .ok (.vmulhI32 (readT3 w))
  | 4 => .ok (.vmulhN32 (readT3 w))
  | 5 => .ok (.vminI32 (readT3 w))
  | 6 => .ok (.vmaxI32 (readT3 w))
  | _ => .ok (.vminN32 (readT3 w))

/-- MAJ 01. -/
noncomputable def decodeMaj01 (w : BitVec 32) : Except Reject Instr :=
  match wFn w with
  | 0 => .ok (.vmaxN32 (readT3 w))
  | 1 => .ok (.vabsI32 (readT3 w))
  | 2 => .ok (.vclz (readT3 w))
  | 3 => .ok (.vpopc (readT3 w))
  | 4 => .ok (.vmadLo (readT3 w))
  | 5 => .ok (.vaddsI32 (readT3 w))
  | 6 => .ok (.vsubsI32 (readT3 w))
  | _ => .ok (.vmov (readT3 w))

/-- MAJ 02. -/
noncomputable def decodeMaj02 (w : BitVec 32) : Except Reject Instr :=
  match wFn w with
  | 0 => .ok (.vand (readT3 w))
  | 1 => .ok (.vor (readT3 w))
  | 2 => .ok (.vxor (readT3 w))
  | 3 => .ok (.vandn (readT3 w))
  | 4 => .ok (.vshl (readT3 w))
  | 5 => .ok (.vshr (readT3 w))
  | 6 => .ok (.vsra (readT3 w))
  | _ => .ok (.vrol (readT3 w))

/-- MAJ 03. -/
noncomputable def decodeMaj03 (w : BitVec 32) : Except Reject Instr :=
  match wFn w with
  | 0 => .ok (.vfadd (readT3 w))
  | 1 => .ok (.vfsub (readT3 w))
  | 2 => .ok (.vfmul (readT3 w))
  | 3 => .ok (.vfmin (readT3 w))
  | 4 => .ok (.vfmax (readT3 w))
  | 5 => .ok (.vfabs (readT3 w))
  | 6 => .ok (.vfneg (readT3 w))
  | _ => .ok (.vfcpys (readT3 w))

/-- MAJ 04. -/
noncomputable def decodeMaj04 (w : BitVec 32) : Except Reject Instr :=
  match wFn w with
  | 0 => .ok (.vfma (readT3 w))
  | 1 => .ok (.vfms (readT3 w))
  | 2 => .ok (.vfnma (readT3 w))
  | 3 => .ok (.vfnms (readT3 w))
  | 4 => .ok (.vhfmaBf16 (readT3 w))
  | 5 => .ok (.vhfmaF16 (readT3 w))
  | 6 => .ok (.vdot2Bf16 (readT3 w))
  | _ => .ok (.vdot2F16 (readT3 w))

/-- MAJ 05. -/
noncomputable def decodeMaj05 (w : BitVec 32) : Except Reject Instr :=
  match wFn w with
  | 0 => .ok (.vcmpEq (readT3 w))
  | 1 => .ok (.vcmpNe (readT3 w))
  | 2 => .ok (.vcmpLtI32 (readT3 w))
  | 3 => .ok (.vcmpGeI32 (readT3 w))
  | 4 => .ok (.vcmpLtN32 (readT3 w))
  | 5 => .ok (.vcmpGeN32 (readT3 w))
  | 6 => .ok (.vcmpTst (readT3 w))
  | n => .error (.minor 5 n 0)

/-- MAJ 06. -/
noncomputable def decodeMaj06 (w : BitVec 32) : Except Reject Instr :=
  match wFn w with
  | 0 => .ok (.vfcmpEq (readT3 w))
  | 1 => .ok (.vfcmpNe (readT3 w))
  | 2 => .ok (.vfcmpLt (readT3 w))
  | 3 => .ok (.vfcmpLe (readT3 w))
  | 4 => .ok (.vfcmpGt (readT3 w))
  | 5 => .ok (.vfcmpGe (readT3 w))
  | 6 => .ok (.vfcmpUn (readT3 w))
  | _ => .ok (.vfcmpOr (readT3 w))

/-- MAJ 07. -/
noncomputable def decodeMaj07 (w : BitVec 32) : Except Reject Instr :=
  match wFn w with
  | 0 => .ok (.vcvtF32I32 (readT3 w))
  | 1 => .ok (.vcvtI32F32 (readT3 w))
  | 2 => .ok (.vcvp2 (readT3 w))
  | 3 => .ok (.vcvp4 (readT3 w))
  | 4 => .ok (.vunpk (readT3 w))
  | 5 => .ok (.vcvtF32N32 (readT3 w))
  | 6 => .ok (.vcvtN32F32 (readT3 w))
  | _ => .ok (.vcvq (readT3 w))

/-- MAJ 08. -/
noncomputable def decodeMaj08 (w : BitVec 32) : Except Reject Instr :=
  match wFn w with
  | 0 => .ok (.vrcp (readT3 w))
  | 1 => .ok (.vrsqrt (readT3 w))
  | 2 => .ok (.vsqrt (readT3 w))
  | 3 => .ok (.vexp2 (readT3 w))
  | 4 => .ok (.vlog2 (readT3 w))
  | 5 => .ok (.vtanh (readT3 w))
  | 6 => .ok (.vsinpi (readT3 w))
  | _ => .ok (.vtake (readT3 w))

/-- MAJ 09. -/
noncomputable def decodeMaj09 (w : BitVec 32) : Except Reject Instr :=
  match wFn w with
  | 0 => .ok (.vshfl (readT3 w))
  | 1 => .ok (.vshflXor (readT3 w))
  | 2 => .ok (.vshflUp (readT3 w))
  | 3 => .ok (.vshflDn (readT3 w))
  | 4 => .ok (.vred (readT3 w))
  | 5 => .ok (.vscan (readT3 w))
  | 6 => if (readT3 w).b == 0 then .ok (.vvoteAny (readT3 w)) else
    if (readT3 w).b == 1 then .ok (.vvoteAll (readT3 w)) else .error (.minor 9 6 (readT3 w).b.toNat)
  | _ => .ok (.vballot (readT3 w))

/-- MAJ 0A. -/
noncomputable def decodeMaj0A (w : BitVec 32) : Except Reject Instr :=
  match wFn w with
  | 0 => .ok (.vselgt (readT3 w))
  | 1 => .ok (.vtopk (readT3 w))
  | 2 => .ok (.vsort (readT3 w))
  | 3 => .ok (.vsel (readT3 w))
  | 4 => .ok (.vbcast (readT3 w))
  | 5 => .ok (.vrfa (readT3 w))
  | 6 => .ok (.vlaneid (readT3 w))
  | _ => .ok (.vcomp (readT3 w))

/-- MAJ 0B. -/
noncomputable def decodeMaj0B (w : BitVec 32) : Except Reject Instr :=
  match wFn w with
  | 0 => .ok (.vdp4s (readT3 w))
  | 1 => .ok (.vdp4n (readT3 w))
  | 2 => .ok (.vdp4sn (readT3 w))
  | 3 => .ok (.vdp8s (readT3 w))
  | 4 => .ok (.vdp4sW (readT3 w))
  | n => .error (.minor 11 n 0)

/-- MAJ 0C. -/
noncomputable def decodeMaj0C (w : BitVec 32) : Except Reject Instr :=
  match wFn w with
  | 0 => .ok (.vldB8 (readMR w))
  | 1 => .ok (.vldI8 (readMR w))
  | 2 => .ok (.vldH16 (readMR w))
  | 3 => .ok (.vldI16 (readMR w))
  | 4 => .ok (.vldW32 (readMR w))
  | 5 => .ok (.vldX2 (readMR w))
  | 6 => .ok (.vldX4 (readMR w))
  | _ => .ok (.vldF16 (readMR w))

/-- MAJ 0D. -/
noncomputable def decodeMaj0D (w : BitVec 32) : Except Reject Instr :=
  match wFn w with
  | 0 => .ok (.vstB8 (readMR w))
  | 1 => .ok (.vstH16 (readMR w))
  | 2 => .ok (.vstW32 (readMR w))
  | 3 => .ok (.vstX2 (readMR w))
  | 4 => .ok (.vstX4 (readMR w))
  | 5 => .ok (.vstF16 (readMR w))
  | n => .error (.minor 13 n 0)

/-- MAJ 0E. -/
noncomputable def decodeMaj0E (w : BitVec 32) : Except Reject Instr :=
  match wFn w with
  | 0 => .ok (.vatomAdd (readMR w))
  | 1 => .ok (.vatomFadd (readMR w))
  | 2 => .ok (.vatomMinI32 (readMR w))
  | 3 => .ok (.vatomMaxI32 (readMR w))
  | 4 => .ok (.vatomAnd (readMR w))
  | 5 => .ok (.vatomOr (readMR w))
  | 6 => .ok (.vatomXchg (readMR w))
  | _ => .ok (.vatomCas (readMR w))

/-- MAJ 0F. -/
noncomputable def decodeMaj0F (w : BitVec 32) : Except Reject Instr :=
  match wFn w with
  | 0 => .ok (.sldW (readMR w))
  | 1 => .ok (.sldH (readMR w))
  | 2 => .ok (.sldB (readMR w))
  | 3 => .ok (.sstW (readMR w))
  | 4 => .ok (.sstH (readMR w))
  | 5 => .ok (.sstB (readMR w))
  | 6 => .ok (.satomAdd (readMR w))
  | _ => .ok (.satomCas (readMR w))

/-- MAJ 10. -/
noncomputable def decodeMaj10 (w : BitVec 32) : Except Reject Instr :=
  match wFn w with
  | 0 => if bit w 14 then .ok (.saddImm (readSRI w)) else .ok (.sadd (readSR w))
  | 1 => if bit w 14 then .ok (.ssubImm (readSRI w)) else .ok (.ssub (readSR w))
  | 2 => if bit w 14 then .ok (.smulImm (readSRI w)) else .ok (.smul (readSR w))
  | 3 => if bit w 14 then .ok (.smulhImm (readSRI w)) else .ok (.smulh (readSR w))
  | 4 => if bit w 14 then .ok (.sandImm (readSRI w)) else .ok (.sand (readSR w))
  | 5 => if bit w 14 then .ok (.sorImm (readSRI w)) else .ok (.sor (readSR w))
  | 6 => if bit w 14 then .ok (.sxorImm (readSRI w)) else .ok (.sxor (readSR w))
  | _ => if bit w 14 then .ok (.sshlImm (readSRI w)) else .ok (.sshl (readSR w))

/-- MAJ 11. -/
noncomputable def decodeMaj11 (w : BitVec 32) : Except Reject Instr :=
  match wFn w with
  | 0 => if bit w 14 then .ok (.sshrImm (readSRI w)) else .ok (.sshr (readSR w))
  | 1 => if bit w 14 then .ok (.ssraImm (readSRI w)) else .ok (.ssra (readSR w))
  | 2 => if bit w 14 then .ok (.sminI32Imm (readSRI w)) else .ok (.sminI32 (readSR w))
  | 3 => if bit w 14 then .ok (.smaxI32Imm (readSRI w)) else .ok (.smaxI32 (readSR w))
  | 4 => if bit w 14 then .ok (.sminN32Imm (readSRI w)) else .ok (.sminN32 (readSR w))
  | 5 => if bit w 14 then .ok (.smaxN32Imm (readSRI w)) else .ok (.smaxN32 (readSR w))
  | 6 => if bit w 14 then .ok (.sdivN32Imm (readSRI w)) else .ok (.sdivN32 (readSR w))
  | _ => if bit w 14 then .ok (.sremN32Imm (readSRI w)) else .ok (.sremN32 (readSR w))

/-- MAJ 12. -/
noncomputable def decodeMaj12 (w : BitVec 32) : Except Reject Instr := .ok (.sli (readUI w))

/-- MAJ 13. -/
noncomputable def decodeMaj13 (w : BitVec 32) : Except Reject Instr := .ok (.slui (readUI w))

/-- MAJ 14. -/
noncomputable def decodeMaj14 (w : BitVec 32) : Except Reject Instr :=
  match wFn w with
  | 0 => .ok (.amk (readT3 w))
  | 1 => .ok (.aadd (readT3 w))
  | 2 => .ok (.asub (readT3 w))
  | 3 => .ok (.amul (readT3 w))
  | 4 => .ok (.ashl (readT3 w))
  | 5 => .ok (.ashr (readT3 w))
  | 6 => .ok (.aget (readT3 w))
  | _ => .ok (.a2v (readT3 w))

/-- MAJ 15. -/
noncomputable def decodeMaj15 (w : BitVec 32) : Except Reject Instr :=
  match wFn w with
  | 0 => .ok (.kand (readT3 w))
  | 1 => .ok (.kor (readT3 w))
  | 2 => .ok (.kxor (readT3 w))
  | 3 => .ok (.kandn (readT3 w))
  | 4 => .ok (.knot (readT3 w))
  | 5 => .ok (.kmov (readT3 w))
  | 6 => .ok (.kpop (readT3 w))
  | _ => .ok (.kfirst (readT3 w))

/-- MAJ 16. -/
noncomputable def decodeMaj16 (w : BitVec 32) : Except Reject Instr :=
  match wFn w with
  | 0 => .ok (.beq (readBR w))
  | 1 => .ok (.bne (readBR w))
  | 2 => .ok (.blt (readBR w))
  | 3 => .ok (.bge (readBR w))
  | 4 => .ok (.bltN (readBR w))
  | 5 => .ok (.bgeN (readBR w))
  | 6 => .ok (.bkany (readBR w))
  | _ => .ok (.bkall (readBR w))

/-- MAJ 17. -/
noncomputable def decodeMaj17 (w : BitVec 32) : Except Reject Instr :=
  if bit w 6 then .ok (.call (readJ w)) else .ok (.jmp (readJ w))

/-- MAJ 18. -/
noncomputable def decodeMaj18 (w : BitVec 32) : Except Reject Instr :=
  match wFn w, wSub w with
  | 0, 0 => .ok (.nop (readEX w))
  | 0, 1 => .ok (.endrun (readEndrunF w))
  | 0, 2 => .ok (.regang (readEX w))
  | 0, 3 => .ok (.exit (readEX w))
  | 0, 4 => .ok (.ret (readEX w))
  | 0, 5 => .ok (.jr (readEX w))
  | 0, 6 => .ok (.trap (readTrapF w))
  | 0, 7 => .ok (.brk (readEX w))
  | 0, 8 => .ok (.yield (readEX w))
  | 0, 9 => .ok (.kuse (readEX w))
  | 0, 10 => .ok (.setpt (readSetptF w))
  | 0, 11 => .ok (.isync (readEX w))
  | 1, 0 => .ok (.rdctl (readEX w))
  | 1, 1 => .ok (.wrctl (readEX w))
  | 1, 2 => .ok (.elect (readElectF w))
  | 1, 3 => .ok (.wfetch (readEX w))
  | 1, 4 => .ok (.wphase (readEX w))
  | 1, 5 => .ok (.prm (readEX w))
  | 1, 6 => .ok (.brld (readEX w))
  | 1, 7 => .ok (.brset (readEX w))
  | 2, 0 => .ok (.grow (readEX w))
  | 2, 1 => .ok (.shrink (readEX w))
  | 2, 2 => .ok (.rshare (readRshareF w))
  | 2, 3 => .ok (.runshare (readEX w))
  | 2, 4 => .ok (.feClr (readFeF w))
  | 2, 5 => .ok (.feSet (readFeF w))
  | n, s => .error (.minor 24 n s)

/-- MAJ 19. -/
noncomputable def decodeMaj19 (w : BitVec 32) : Except Reject Instr :=
  match wFn w, wSub w with
  | 0, 0 => .ok (.fence (readFenceF w))
  | 0, 1 => .ok (.fenceX (readFenceXF w))
  | 1, 0 => .ok (.barInit (readEX w))
  | 1, 1 => .ok (.barJoin (readEX w))
  | 1, 2 => .ok (.barArr (readEX w))
  | 1, 3 => .ok (.barWait (readEX w))
  | 1, 4 => .ok (.barSync (readEX w))
  | 1, 5 => .ok (.barLeave (readEX w))
  | 1, 6 => .ok (.barFree (readEX w))
  | n, s => .error (.minor 25 n s)

/-- MAJ 1A. -/
noncomputable def decodeMaj1A (w : BitVec 32) : Except Reject Instr :=
  match wFn w, wSub w with
  | 0, 0 => .ok (.mxLb (readMxLbF w))
  | 0, 1 => .ok (.mxMma (readMxMmaF w))
  | 0, 2 => .ok (.mxZero (readEX w))
  | 0, 3 => .ok (.mxSt (readMxStF w))
  | 0, 4 => .ok (.mxRmax (readEX w))
  | 0, 5 => .ok (.mxRd (readMxRdF w))
  | 0, 6 => .ok (.mxWr (readEX w))
  | 0, 7 => .ok (.cbld (readEX w))
  | 1, 0 => .ok (.accGet (readEX w))
  | 1, 1 => .ok (.accRel (readEX w))
  | 1, 2 => .ok (.mxLic (readEX w))
  | 1, 3 => .ok (.mxWait (readEX w))
  | 1, 4 => .ok (.mxUnlic (readEX w))
  | n, s => .error (.minor 26 n s)

/-- MAJ 1B. -/
noncomputable def decodeMaj1B (w : BitVec 32) : Except Reject Instr :=
  match wFn w, wSub w with
  | 0, 0 => .ok (.gnCp (readEX w))
  | 0, 1 => .ok (.gnMx (readEX w))
  | 0, 2 => .ok (.gnWk (readEX w))
  | 0, 3 => .ok (.gnEdge (readEX w))
  | 0, 4 => .ok (.gnArm (readEX w))
  | 0, 5 => .ok (.gnWait (readEX w))
  | 0, 6 => .ok (.gnKill (readEX w))
  | 0, 7 => .ok (.gnFree (readEX w))
  | n, s => .error (.minor 27 n s)

/-- MAJ 1C. -/
noncomputable def decodeMaj1C (w : BitVec 32) : Except Reject Instr :=
  match wFn w, wSub w with
  | 0, 0 => .ok (.msend (readEX w))
  | 0, 1 => .ok (.mrecv (readEX w))
  | 0, 2 => .ok (.mcancel (readEX w))
  | 0, 3 => .ok (.mprobe (readEX w))
  | 1, 0 => .ok (.objCall (readEX w))
  | 1, 1 => .ok (.objCallv (readCallvF w))
  | 1, 2 => .ok (.objReply (readEX w))
  | 1, 3 => .ok (.objDone (readEX w))
  | 1, 4 => .ok (.objFail (readEX w))
  | n, s => .error (.minor 28 n s)

/-- MAJ 1D. -/
noncomputable def decodeMaj1D (w : BitVec 32) : Except Reject Instr :=
  match wFn w, wSub w with
  | 0, 0 => .ok (.slotOpen (readEX w))
  | 0, 1 => .ok (.slotRule (readEX w))
  | 0, 2 => .ok (.slotPass (readEX w))
  | 0, 3 => .ok (.slotSt (readEX w))
  | 0, 4 => .ok (.slotKerb (readEX w))
  | 0, 5 => .ok (.slotReopen (readEX w))
  | 0, 6 => .ok (.slotClose (readEX w))
  | n, s => .error (.minor 29 n s)

/-- MAJ 1E. -/
noncomputable def decodeMaj1E (w : BitVec 32) : Except Reject Instr :=
  match wFn w, wSub w with
  | 0, 0 => .ok (.kvMap (readEX w))
  | 0, 1 => .ok (.kvUnpin (readEX w))
  | 0, 2 => .ok (.kvSt (readEX w))
  | 0, 3 => .ok (.kvFork (readEX w))
  | 0, 4 => .ok (.kvDrop (readEX w))
  | 0, 5 => .ok (.kvLd (readEX w))
  | 0, 6 => .ok (.kvVqlut (readEX w))
  | 0, 7 => .ok (.kvVqsc (readEX w))
  | 1, 0 => .ok (.kvHad (readEX w))
  | n, s => .error (.minor 30 n s)

/-- The 32-bit forms (R33). -/
noncomputable def decode32 (w : BitVec 32) : Except Reject Instr :=
  match wMaj w with
  | 0 => decodeMaj00 w
  | 1 => decodeMaj01 w
  | 2 => decodeMaj02 w
  | 3 => decodeMaj03 w
  | 4 => decodeMaj04 w
  | 5 => decodeMaj05 w
  | 6 => decodeMaj06 w
  | 7 => decodeMaj07 w
  | 8 => decodeMaj08 w
  | 9 => decodeMaj09 w
  | 10 => decodeMaj0A w
  | 11 => decodeMaj0B w
  | 12 => decodeMaj0C w
  | 13 => decodeMaj0D w
  | 14 => decodeMaj0E w
  | 15 => decodeMaj0F w
  | 16 => decodeMaj10 w
  | 17 => decodeMaj11 w
  | 18 => decodeMaj12 w
  | 19 => decodeMaj13 w
  | 20 => decodeMaj14 w
  | 21 => decodeMaj15 w
  | 22 => decodeMaj16 w
  | 23 => decodeMaj17 w
  | 24 => decodeMaj18 w
  | 25 => decodeMaj19 w
  | 26 => decodeMaj1A w
  | 27 => decodeMaj1B w
  | 28 => decodeMaj1C w
  | 29 => decodeMaj1D w
  | 30 => decodeMaj1E w
  | m => .error (.major m)

/-- R23, R1: bit 0 of the first halfword gives the length; the lower halfword stands at the lower address. -/
noncomputable def decode : List Byte → Except Reject (Instr × List Byte)
  | b0 :: b1 :: rest =>
    if bit b0 0 then
      match rest with
      | b2 :: b3 :: rest' => (decode32 (b3 ++ b2 ++ b1 ++ b0)).map (·, rest')
      | _ => .error .short
    else (decode16 (b1 ++ b0)).map (·, rest)
  | _ => .error .short

/-- The control cores' wait-on-address (R398): RISC-V R-type, custom-0, funct3 0 and funct7 0. -/
def decodeHart (w : BitVec 32) : Option Zw :=
  if w.extractLsb' 0 7 == 0x0b && w.extractLsb' 12 3 == 0 && w.extractLsb' 25 7 == 0 then
    some { rd := w.extractLsb' 7 5, rs1 := w.extractLsb' 15 5, rs2 := w.extractLsb' 20 5 }
  else none

/-! ### The encoder -/

/-- A 32-bit word as it lies in memory (R1, R23). -/
def wordBytes (w : BitVec 32) : List Byte :=
  [w.extractLsb' 0 8, w.extractLsb' 8 8, w.extractLsb' 16 8, w.extractLsb' 24 8]

/-- A halfword as it lies in memory. -/
def halfBytes (h : BitVec 16) : List Byte := [h.extractLsb' 0 8, h.extractLsb' 8 8]

/-- The bytes of an instruction; none for a step that has no encoding. -/
def encode : Instr → List Byte
  | .powerGood => []
  | .bootRomImageCheck _ _ => []
  | .reducedServiceReached => []
  | .fullFunctionReached _ => []
  | .bootload _ => []
  | .featcommit _ => []
  | .attgo _ => []
  | .attestationReportReady => []
  | .timeSourceLock _ _ => []
  | .timeSourceLoss _ => []
  | .registerWrite _ _ _ => []
  | .hostApertureAccess _ _ _ => []
  | .regionTableWrite _ _ _ => []
  | .objectTableWrite _ _ _ _ => []
  | .rbtokWrite _ _ => []
  | .faultRingBaseWrite _ _ => []
  | .fqrWrite _ _ => []
  | .thermalBurstHalt _ => []
  | .thermalHaltLift _ => []
  | .patrolScrub _ _ => []
  | .telemetryRecord _ _ _ _ => []
  | .linkRecalibration _ => []
  | .contextAged _ _ => []
  | .implicitTrailer _ _ => []
  | .loadCompletion _ _ => []
  | .sfuCompletion _ _ => []
  | .accessPerformedAtHome _ _ _ => []
  | .accessAck _ _ _ => []
  | .bridgeCountReport _ _ _ => []
  | .paramLineFill _ _ => []
  | .translationLookupEnd _ _ => []
  | .replay _ _ => []
  | .cancel _ _ => []
  | .tsync _ _ => []
  | .tsyncComplete _ _ => []
  | .messageArrival _ => []
  | .msendStatus _ => []
  | .routerPowerDown _ => []
  | .routerWakeSignal _ => []
  | .routerWakeDone _ => []
  | .objTableRequest _ => []
  | .plazaPacketArrival _ => []
  | .plazaPacketRetry _ => []
  | .waveTimeoutClose _ _ => []
  | .waveStart _ => []
  | .waveBudgetExceeded _ => []
  | .objReplyArrival _ => []
  | .mxCommandRetire _ => []
  | .mxArbiterGrant _ => []
  | .roundaboutTokenArrival _ _ => []
  | .burstEnd _ _ => []
  | .vregPoolGrant _ => []
  | .copyNodeDone _ => []
  | .barrierPhaseNotify _ _ => []
  | .finaliserOpen _ => []
  | .finaliserRule _ => []
  | .finaliserPass _ => []
  | .finaliserSlotRead _ => []
  | .finaliserKerbRead _ => []
  | .finaliserReopen _ => []
  | .finaliserClose _ => []
  | .finaliserKvSlotRead _ => []
  | .kerbRetry _ _ => []
  | .finaliserCommandRetry _ => []
  | .slotReplyArrival _ => []
  | .kvStExec _ => []
  | .kvLdExec _ => []
  | .kvVqlutExec _ => []
  | .kvVqscExec _ => []
  | .widxWrite _ _ => []
  | .queueStateWrite _ _ => []
  | .ticketsWrite _ _ => []
  | .packetNop _ => []
  | .packetLaunch _ => []
  | .launchAdmission _ => []
  | .launchSenior _ => []
  | .launchComplete _ => []
  | .packetCopy _ => []
  | .copyPacketDone _ => []
  | .packetSignal _ => []
  | .packetWait _ => []
  | .waitReread _ => []
  | .packetIndirect _ => []
  | .packetTimer _ => []
  | .timerPacketDue _ => []
  | .packetFence _ => []
  | .streamOpen _ => []
  | .streamTouch _ => []
  | .streamRetime _ => []
  | .streamClose _ => []
  | .touchRegisterWrite _ => []
  | .streamDue _ => []
  | .streamEvictDone _ => []
  | .streamRestoreStart _ => []
  | .streamRestoreDone _ => []
  | .failover => []
  | .standbyAck => []
  | .save _ _ => []
  | .saveComplete _ => []
  | .restore _ _ => []
  | .kill _ _ => []
  | .resume _ _ => []
  | .handler _ _ => []
  | .zwaitResume _ => []
  | .illegalEncoding _ _ => []
  | .barrierArrivalAtTable _ => []
  | .finaliserCommandArrival _ => []
  | .zwait f => wordBytes ((0 : BitVec 7) ++ f.rs2 ++ f.rs1 ++ (0 : BitVec 3) ++ f.rd ++ (0x0b : BitVec 7))
  | .vmov16 f => halfBytes (wordH 0 f)
  | .vaddI3216 f => halfBytes (wordH 1 f)
  | .vsubI3216 f => halfBytes (wordH 2 f)
  | .vand16 f => halfBytes (wordH 3 f)
  | .vor16 f => halfBytes (wordH 4 f)
  | .vxor16 f => halfBytes (wordH 5 f)
  | .vshl16 f => halfBytes (wordH 6 f)
  | .vshr16 f => halfBytes (wordH 7 f)
  | .vmaxI3216 f => halfBytes (wordH 8 f)
  | .vminI3216 f => halfBytes (wordH 9 f)
  | .vfadd16 f => halfBytes (wordH 10 f)
  | .vfsub16 f => halfBytes (wordH 11 f)
  | .vfmul16 f => halfBytes (wordH 12 f)
  | .vfmax16 f => halfBytes (wordH 13 f)
  | .vfmin16 f => halfBytes (wordH 14 f)
  | .vcvtF32I3216 f => halfBytes (wordH 15 f)
  | .vaddI32 f => wordBytes (wordT3 0 0 f)
  | .vsubI32 f => wordBytes (wordT3 0 1 f)
  | .vmulLo f => wordBytes (wordT3 0 2 f)
  | .vmulhI32 f => wordBytes (wordT3 0 3 f)
  | .vmulhN32 f => wordBytes (wordT3 0 4 f)
  | .vminI32 f => wordBytes (wordT3 0 5 f)
  | .vmaxI32 f => wordBytes (wordT3 0 6 f)
  | .vminN32 f => wordBytes (wordT3 0 7 f)
  | .vmaxN32 f => wordBytes (wordT3 1 0 f)
  | .vabsI32 f => wordBytes (wordT3 1 1 f)
  | .vclz f => wordBytes (wordT3 1 2 f)
  | .vpopc f => wordBytes (wordT3 1 3 f)
  | .vmadLo f => wordBytes (wordT3 1 4 f)
  | .vaddsI32 f => wordBytes (wordT3 1 5 f)
  | .vsubsI32 f => wordBytes (wordT3 1 6 f)
  | .vmov f => wordBytes (wordT3 1 7 f)
  | .vand f => wordBytes (wordT3 2 0 f)
  | .vor f => wordBytes (wordT3 2 1 f)
  | .vxor f => wordBytes (wordT3 2 2 f)
  | .vandn f => wordBytes (wordT3 2 3 f)
  | .vshl f => wordBytes (wordT3 2 4 f)
  | .vshr f => wordBytes (wordT3 2 5 f)
  | .vsra f => wordBytes (wordT3 2 6 f)
  | .vrol f => wordBytes (wordT3 2 7 f)
  | .vfadd f => wordBytes (wordT3 3 0 f)
  | .vfsub f => wordBytes (wordT3 3 1 f)
  | .vfmul f => wordBytes (wordT3 3 2 f)
  | .vfmin f => wordBytes (wordT3 3 3 f)
  | .vfmax f => wordBytes (wordT3 3 4 f)
  | .vfabs f => wordBytes (wordT3 3 5 f)
  | .vfneg f => wordBytes (wordT3 3 6 f)
  | .vfcpys f => wordBytes (wordT3 3 7 f)
  | .vfma f => wordBytes (wordT3 4 0 f)
  | .vfms f => wordBytes (wordT3 4 1 f)
  | .vfnma f => wordBytes (wordT3 4 2 f)
  | .vfnms f => wordBytes (wordT3 4 3 f)
  | .vhfmaBf16 f => wordBytes (wordT3 4 4 f)
  | .vhfmaF16 f => wordBytes (wordT3 4 5 f)
  | .vdot2Bf16 f => wordBytes (wordT3 4 6 f)
  | .vdot2F16 f => wordBytes (wordT3 4 7 f)
  | .vcmpEq f => wordBytes (wordT3 5 0 f)
  | .vcmpNe f => wordBytes (wordT3 5 1 f)
  | .vcmpLtI32 f => wordBytes (wordT3 5 2 f)
  | .vcmpGeI32 f => wordBytes (wordT3 5 3 f)
  | .vcmpLtN32 f => wordBytes (wordT3 5 4 f)
  | .vcmpGeN32 f => wordBytes (wordT3 5 5 f)
  | .vcmpTst f => wordBytes (wordT3 5 6 f)
  | .vfcmpEq f => wordBytes (wordT3 6 0 f)
  | .vfcmpNe f => wordBytes (wordT3 6 1 f)
  | .vfcmpLt f => wordBytes (wordT3 6 2 f)
  | .vfcmpLe f => wordBytes (wordT3 6 3 f)
  | .vfcmpGt f => wordBytes (wordT3 6 4 f)
  | .vfcmpGe f => wordBytes (wordT3 6 5 f)
  | .vfcmpUn f => wordBytes (wordT3 6 6 f)
  | .vfcmpOr f => wordBytes (wordT3 6 7 f)
  | .vcvtF32I32 f => wordBytes (wordT3 7 0 f)
  | .vcvtI32F32 f => wordBytes (wordT3 7 1 f)
  | .vcvp2 f => wordBytes (wordT3 7 2 f)
  | .vcvp4 f => wordBytes (wordT3 7 3 f)
  | .vunpk f => wordBytes (wordT3 7 4 f)
  | .vcvtF32N32 f => wordBytes (wordT3 7 5 f)
  | .vcvtN32F32 f => wordBytes (wordT3 7 6 f)
  | .vcvq f => wordBytes (wordT3 7 7 f)
  | .vrcp f => wordBytes (wordT3 8 0 f)
  | .vrsqrt f => wordBytes (wordT3 8 1 f)
  | .vsqrt f => wordBytes (wordT3 8 2 f)
  | .vexp2 f => wordBytes (wordT3 8 3 f)
  | .vlog2 f => wordBytes (wordT3 8 4 f)
  | .vtanh f => wordBytes (wordT3 8 5 f)
  | .vsinpi f => wordBytes (wordT3 8 6 f)
  | .vtake f => wordBytes (wordT3 8 7 f)
  | .vshfl f => wordBytes (wordT3 9 0 f)
  | .vshflXor f => wordBytes (wordT3 9 1 f)
  | .vshflUp f => wordBytes (wordT3 9 2 f)
  | .vshflDn f => wordBytes (wordT3 9 3 f)
  | .vred f => wordBytes (wordT3 9 4 f)
  | .vscan f => wordBytes (wordT3 9 5 f)
  | .vvoteAny f => wordBytes (wordT3 9 6 f)
  | .vvoteAll f => wordBytes (wordT3 9 6 f)
  | .vballot f => wordBytes (wordT3 9 7 f)
  | .vselgt f => wordBytes (wordT3 10 0 f)
  | .vtopk f => wordBytes (wordT3 10 1 f)
  | .vsort f => wordBytes (wordT3 10 2 f)
  | .vsel f => wordBytes (wordT3 10 3 f)
  | .vbcast f => wordBytes (wordT3 10 4 f)
  | .vrfa f => wordBytes (wordT3 10 5 f)
  | .vlaneid f => wordBytes (wordT3 10 6 f)
  | .vcomp f => wordBytes (wordT3 10 7 f)
  | .vdp4s f => wordBytes (wordT3 11 0 f)
  | .vdp4n f => wordBytes (wordT3 11 1 f)
  | .vdp4sn f => wordBytes (wordT3 11 2 f)
  | .vdp8s f => wordBytes (wordT3 11 3 f)
  | .vdp4sW f => wordBytes (wordT3 11 4 f)
  | .vldB8 f => wordBytes (wordMR 12 0 f)
  | .vldI8 f => wordBytes (wordMR 12 1 f)
  | .vldH16 f => wordBytes (wordMR 12 2 f)
  | .vldI16 f => wordBytes (wordMR 12 3 f)
  | .vldW32 f => wordBytes (wordMR 12 4 f)
  | .vldX2 f => wordBytes (wordMR 12 5 f)
  | .vldX4 f => wordBytes (wordMR 12 6 f)
  | .vldF16 f => wordBytes (wordMR 12 7 f)
  | .vstB8 f => wordBytes (wordMR 13 0 f)
  | .vstH16 f => wordBytes (wordMR 13 1 f)
  | .vstW32 f => wordBytes (wordMR 13 2 f)
  | .vstX2 f => wordBytes (wordMR 13 3 f)
  | .vstX4 f => wordBytes (wordMR 13 4 f)
  | .vstF16 f => wordBytes (wordMR 13 5 f)
  | .vatomAdd f => wordBytes (wordMR 14 0 f)
  | .vatomFadd f => wordBytes (wordMR 14 1 f)
  | .vatomMinI32 f => wordBytes (wordMR 14 2 f)
  | .vatomMaxI32 f => wordBytes (wordMR 14 3 f)
  | .vatomAnd f => wordBytes (wordMR 14 4 f)
  | .vatomOr f => wordBytes (wordMR 14 5 f)
  | .vatomXchg f => wordBytes (wordMR 14 6 f)
  | .vatomCas f => wordBytes (wordMR 14 7 f)
  | .sldW f => wordBytes (wordMR 15 0 f)
  | .sldH f => wordBytes (wordMR 15 1 f)
  | .sldB f => wordBytes (wordMR 15 2 f)
  | .sstW f => wordBytes (wordMR 15 3 f)
  | .sstH f => wordBytes (wordMR 15 4 f)
  | .sstB f => wordBytes (wordMR 15 5 f)
  | .satomAdd f => wordBytes (wordMR 15 6 f)
  | .satomCas f => wordBytes (wordMR 15 7 f)
  | .sadd f => wordBytes (wordSR 16 0 f)
  | .saddImm f => wordBytes (wordSRI 16 0 f)
  | .ssub f => wordBytes (wordSR 16 1 f)
  | .ssubImm f => wordBytes (wordSRI 16 1 f)
  | .smul f => wordBytes (wordSR 16 2 f)
  | .smulImm f => wordBytes (wordSRI 16 2 f)
  | .smulh f => wordBytes (wordSR 16 3 f)
  | .smulhImm f => wordBytes (wordSRI 16 3 f)
  | .sand f => wordBytes (wordSR 16 4 f)
  | .sandImm f => wordBytes (wordSRI 16 4 f)
  | .sor f => wordBytes (wordSR 16 5 f)
  | .sorImm f => wordBytes (wordSRI 16 5 f)
  | .sxor f => wordBytes (wordSR 16 6 f)
  | .sxorImm f => wordBytes (wordSRI 16 6 f)
  | .sshl f => wordBytes (wordSR 16 7 f)
  | .sshlImm f => wordBytes (wordSRI 16 7 f)
  | .sshr f => wordBytes (wordSR 17 0 f)
  | .sshrImm f => wordBytes (wordSRI 17 0 f)
  | .ssra f => wordBytes (wordSR 17 1 f)
  | .ssraImm f => wordBytes (wordSRI 17 1 f)
  | .sminI32 f => wordBytes (wordSR 17 2 f)
  | .sminI32Imm f => wordBytes (wordSRI 17 2 f)
  | .smaxI32 f => wordBytes (wordSR 17 3 f)
  | .smaxI32Imm f => wordBytes (wordSRI 17 3 f)
  | .sminN32 f => wordBytes (wordSR 17 4 f)
  | .sminN32Imm f => wordBytes (wordSRI 17 4 f)
  | .smaxN32 f => wordBytes (wordSR 17 5 f)
  | .smaxN32Imm f => wordBytes (wordSRI 17 5 f)
  | .sdivN32 f => wordBytes (wordSR 17 6 f)
  | .sdivN32Imm f => wordBytes (wordSRI 17 6 f)
  | .sremN32 f => wordBytes (wordSR 17 7 f)
  | .sremN32Imm f => wordBytes (wordSRI 17 7 f)
  | .sli f => wordBytes (wordUI 18 f)
  | .slui f => wordBytes (wordUI 19 f)
  | .amk f => wordBytes (wordT3 20 0 f)
  | .aadd f => wordBytes (wordT3 20 1 f)
  | .asub f => wordBytes (wordT3 20 2 f)
  | .amul f => wordBytes (wordT3 20 3 f)
  | .ashl f => wordBytes (wordT3 20 4 f)
  | .ashr f => wordBytes (wordT3 20 5 f)
  | .aget f => wordBytes (wordT3 20 6 f)
  | .a2v f => wordBytes (wordT3 20 7 f)
  | .kand f => wordBytes (wordT3 21 0 f)
  | .kor f => wordBytes (wordT3 21 1 f)
  | .kxor f => wordBytes (wordT3 21 2 f)
  | .kandn f => wordBytes (wordT3 21 3 f)
  | .knot f => wordBytes (wordT3 21 4 f)
  | .kmov f => wordBytes (wordT3 21 5 f)
  | .kpop f => wordBytes (wordT3 21 6 f)
  | .kfirst f => wordBytes (wordT3 21 7 f)
  | .beq f => wordBytes (wordBR 22 0 f)
  | .bne f => wordBytes (wordBR 22 1 f)
  | .blt f => wordBytes (wordBR 22 2 f)
  | .bge f => wordBytes (wordBR 22 3 f)
  | .bltN f => wordBytes (wordBR 22 4 f)
  | .bgeN f => wordBytes (wordBR 22 5 f)
  | .bkany f => wordBytes (wordBR 22 6 f)
  | .bkall f => wordBytes (wordBR 22 7 f)
  | .jmp f => wordBytes (wordJ 23 0 f)
  | .call f => wordBytes (wordJ 23 1 f)
  | .nop f => wordBytes (wordEX 24 0 0 f)
  | .endrun f => wordBytes (wordEndrunF 24 0 1 f)
  | .regang f => wordBytes (wordEX 24 0 2 f)
  | .exit f => wordBytes (wordEX 24 0 3 f)
  | .ret f => wordBytes (wordEX 24 0 4 f)
  | .jr f => wordBytes (wordEX 24 0 5 f)
  | .trap f => wordBytes (wordTrapF 24 0 6 f)
  | .brk f => wordBytes (wordEX 24 0 7 f)
  | .yield f => wordBytes (wordEX 24 0 8 f)
  | .kuse f => wordBytes (wordEX 24 0 9 f)
  | .setpt f => wordBytes (wordSetptF 24 0 10 f)
  | .isync f => wordBytes (wordEX 24 0 11 f)
  | .rdctl f => wordBytes (wordEX 24 1 0 f)
  | .wrctl f => wordBytes (wordEX 24 1 1 f)
  | .elect f => wordBytes (wordElectF 24 1 2 f)
  | .wfetch f => wordBytes (wordEX 24 1 3 f)
  | .wphase f => wordBytes (wordEX 24 1 4 f)
  | .prm f => wordBytes (wordEX 24 1 5 f)
  | .brld f => wordBytes (wordEX 24 1 6 f)
  | .brset f => wordBytes (wordEX 24 1 7 f)
  | .grow f => wordBytes (wordEX 24 2 0 f)
  | .shrink f => wordBytes (wordEX 24 2 1 f)
  | .rshare f => wordBytes (wordRshareF 24 2 2 f)
  | .runshare f => wordBytes (wordEX 24 2 3 f)
  | .feClr f => wordBytes (wordFeF 24 2 4 f)
  | .feSet f => wordBytes (wordFeF 24 2 5 f)
  | .fence f => wordBytes (wordFenceF 25 0 0 f)
  | .fenceX f => wordBytes (wordFenceXF 25 0 1 f)
  | .barInit f => wordBytes (wordEX 25 1 0 f)
  | .barJoin f => wordBytes (wordEX 25 1 1 f)
  | .barArr f => wordBytes (wordEX 25 1 2 f)
  | .barWait f => wordBytes (wordEX 25 1 3 f)
  | .barSync f => wordBytes (wordEX 25 1 4 f)
  | .barLeave f => wordBytes (wordEX 25 1 5 f)
  | .barFree f => wordBytes (wordEX 25 1 6 f)
  | .mxLb f => wordBytes (wordMxLbF 26 0 0 f)
  | .mxMma f => wordBytes (wordMxMmaF 26 0 1 f)
  | .mxZero f => wordBytes (wordEX 26 0 2 f)
  | .mxSt f => wordBytes (wordMxStF 26 0 3 f)
  | .mxRmax f => wordBytes (wordEX 26 0 4 f)
  | .mxRd f => wordBytes (wordMxRdF 26 0 5 f)
  | .mxWr f => wordBytes (wordEX 26 0 6 f)
  | .cbld f => wordBytes (wordEX 26 0 7 f)
  | .accGet f => wordBytes (wordEX 26 1 0 f)
  | .accRel f => wordBytes (wordEX 26 1 1 f)
  | .mxLic f => wordBytes (wordEX 26 1 2 f)
  | .mxWait f => wordBytes (wordEX 26 1 3 f)
  | .mxUnlic f => wordBytes (wordEX 26 1 4 f)
  | .gnCp f => wordBytes (wordEX 27 0 0 f)
  | .gnMx f => wordBytes (wordEX 27 0 1 f)
  | .gnWk f => wordBytes (wordEX 27 0 2 f)
  | .gnEdge f => wordBytes (wordEX 27 0 3 f)
  | .gnArm f => wordBytes (wordEX 27 0 4 f)
  | .gnWait f => wordBytes (wordEX 27 0 5 f)
  | .gnKill f => wordBytes (wordEX 27 0 6 f)
  | .gnFree f => wordBytes (wordEX 27 0 7 f)
  | .msend f => wordBytes (wordEX 28 0 0 f)
  | .mrecv f => wordBytes (wordEX 28 0 1 f)
  | .mcancel f => wordBytes (wordEX 28 0 2 f)
  | .mprobe f => wordBytes (wordEX 28 0 3 f)
  | .objCall f => wordBytes (wordEX 28 1 0 f)
  | .objCallv f => wordBytes (wordCallvF 28 1 1 f)
  | .objReply f => wordBytes (wordEX 28 1 2 f)
  | .objDone f => wordBytes (wordEX 28 1 3 f)
  | .objFail f => wordBytes (wordEX 28 1 4 f)
  | .slotOpen f => wordBytes (wordEX 29 0 0 f)
  | .slotRule f => wordBytes (wordEX 29 0 1 f)
  | .slotPass f => wordBytes (wordEX 29 0 2 f)
  | .slotSt f => wordBytes (wordEX 29 0 3 f)
  | .slotKerb f => wordBytes (wordEX 29 0 4 f)
  | .slotReopen f => wordBytes (wordEX 29 0 5 f)
  | .slotClose f => wordBytes (wordEX 29 0 6 f)
  | .kvMap f => wordBytes (wordEX 30 0 0 f)
  | .kvUnpin f => wordBytes (wordEX 30 0 1 f)
  | .kvSt f => wordBytes (wordEX 30 0 2 f)
  | .kvFork f => wordBytes (wordEX 30 0 3 f)
  | .kvDrop f => wordBytes (wordEX 30 0 4 f)
  | .kvLd f => wordBytes (wordEX 30 0 5 f)
  | .kvVqlut f => wordBytes (wordEX 30 0 6 f)
  | .kvVqsc f => wordBytes (wordEX 30 0 7 f)
  | .kvHad f => wordBytes (wordEX 30 1 0 f)

/-- The bytes of an instruction whose bits are `w`, the first word's bits lowest (R1). -/
def tableBytes (nbits w : Nat) : List Byte := (List.range (nbits / 8)).map fun i => BitVec.ofNat 8 (w / 2 ^ (8 * i))

/-- The instruction that the decoder reads from a word of the opcode table: the bits above `nbits` are 0. -/
noncomputable def decodeTableWord (nbits w : Nat) : Option Instr :=
  match decode (tableBytes nbits w ++ [0, 0, 0, 0]) with
  | .ok (i, _) => some i
  | .error _ => none

end Sys2Proof
end

