-- ==== Sys2Proof/Machine/Float.lean ====
section
/-! DEFINITION. Sys2Proof/Machine/Float.lean: exact floating-point values, the formats of R145, rounding and the IEEE
754 conditions of R127. A value is kept exactly and is rounded once, at the end. -/

namespace Sys2Proof.Machine

/-! Flags of GSTAT (R120). -/
def fRunlen : BitVec 14 := 0x002
def fAov : BitVec 14 := 0x004
def fAfx : BitVec 14 := 0x008
def fNvc : BitVec 14 := 0x010
def fSat : BitVec 14 := 0x020
def fInv : BitVec 14 := 0x040
def fOvf : BitVec 14 := 0x080
def fUnf : BitVec 14 := 0x100
def fInx : BitVec 14 := 0x200
def fDz : BitVec 14 := 0x400
def fOob : BitVec 14 := 0x800
def fPwoob : BitVec 14 := 0x1000
def fPwunb : BitVec 14 := 0x2000

/-- A flag when a condition holds. -/
def flagIf (b : Bool) (f : BitVec 14) : BitVec 14 := if b then f else 0

/-- The rounding modes, as RMODE codes them (R119). -/
inductive Rnd where
  | ne
  | z
  | up
  | down
  deriving DecidableEq, Repr

def Rnd.ofBits (m : BitVec 2) : Rnd :=
  match m.toNat with
  | 0 => .ne
  | 1 => .z
  | 2 => .up
  | _ => .down

/-- An exact value: a NaN (signalling or quiet), an infinity, or (−1)^neg × m × 2^e. -/
inductive Fp where
  | nan (sig : Bool)
  | inf (neg : Bool)
  | fin (neg : Bool) (m : Nat) (e : Int)
  deriving DecidableEq, Repr

/-- The special codes of a format (R145): IEEE infinities and NaNs, the two NaN codes of E4M3, or none. -/
inductive FmtKind where
  | ieee
  | e4m3
  | plain
  deriving DecidableEq, Repr

/-- A floating-point format: exponent bits, mantissa bits, bias. -/
structure Fmt where
  eb : Nat
  mb : Nat
  bias : Nat
  kind : FmtKind
  deriving DecidableEq, Repr

def fp32 : Fmt := ⟨8, 23, 127, .ieee⟩
def bf16 : Fmt := ⟨8, 7, 127, .ieee⟩
def fp16 : Fmt := ⟨5, 10, 15, .ieee⟩
def e4m3 : Fmt := ⟨4, 3, 7, .e4m3⟩
def e5m2 : Fmt := ⟨5, 2, 15, .ieee⟩
def e2m1 : Fmt := ⟨2, 1, 1, .plain⟩
def e3m2 : Fmt := ⟨3, 2, 3, .plain⟩
def e2m3 : Fmt := ⟨2, 3, 1, .plain⟩

/-- The exponent of the smallest normal value. -/
def Fmt.emin (f : Fmt) : Int := 1 - (f.bias : Int)
/-- The exponent of the quantum of subnormals. -/
def Fmt.qmin (f : Fmt) : Int := f.emin - f.mb
/-- The code of the largest finite magnitude (R145). -/
def Fmt.maxCode (f : Fmt) : Nat :=
  match f.kind with
  | .ieee => (2 ^ f.eb - 1) * 2 ^ f.mb - 1
  | .e4m3 => 2 ^ (f.eb + f.mb) - 2
  | .plain => 2 ^ (f.eb + f.mb) - 1
/-- The sign bit's weight. -/
def Fmt.signW (f : Fmt) : Nat := 2 ^ (f.eb + f.mb)
/-- The code of an infinity's magnitude, in a format that has one. -/
def Fmt.infCode (f : Fmt) : Nat := (2 ^ f.eb - 1) * 2 ^ f.mb
/-- The canonical quiet NaN (R127). -/
def Fmt.qnan (f : Fmt) : Nat :=
  match f.kind with
  | .ieee => f.infCode + 2 ^ (f.mb - 1)
  | _ => 2 ^ (f.eb + f.mb) - 1

/-- The value of a code (R145). Only an FP32 NaN can be signalling. -/
def Fmt.dec (f : Fmt) (code : Nat) : Fp :=
  let neg := (code / f.signW) % 2 = 1
  let mag := code % f.signW
  let ex := mag / 2 ^ f.mb
  let mant := mag % 2 ^ f.mb
  let special : Option Fp :=
    match f.kind with
    | .ieee =>
      if ex = 2 ^ f.eb - 1 then
        some (if mant = 0 then .inf neg else .nan (f.mb = 23 && mant < 2 ^ 22))
      else none
    | .e4m3 => if mag = 2 ^ (f.eb + f.mb) - 1 then some (.nan false) else none
    | .plain => none
  match special with
  | some v => v
  | none =>
    if ex = 0 then .fin neg mant f.qmin else .fin neg (2 ^ f.mb + mant) (f.qmin + (ex - 1))

/-- The value of an FP32 word. -/
def f32Dec (w : W) : Fp := fp32.dec w.toNat

def Fp.isNan : Fp → Bool
  | .nan _ => true
  | _ => false
def Fp.isSig : Fp → Bool
  | .nan g => g
  | _ => false
def Fp.isInf : Fp → Bool
  | .inf _ => true
  | _ => false
def Fp.isZero : Fp → Bool
  | .fin _ m _ => m == 0
  | _ => false
def Fp.sign : Fp → Bool
  | .nan _ => false
  | .inf n => n
  | .fin n _ _ => n
def Fp.negate : Fp → Fp
  | .nan g => .nan g
  | .inf n => .inf (!n)
  | .fin n m e => .fin (!n) m e

/-! ### Rounding -/

/-- An exact positive rational num/den × 2^e rounded to an integer in a mode: the integer, and whether it is
inexact. -/
def roundRat (rm : Rnd) (neg : Bool) (num den : Nat) : Nat × Bool :=
  let q := num / den
  let r := num % den
  let up : Bool :=
    match rm with
    | .ne => 2 * r > den || (2 * r == den && q % 2 == 1)
    | .z => false
    | .up => !neg && r != 0
    | .down => neg && r != 0
  (if up then q + 1 else q, r != 0)

/-- num/den × 2^k as a fraction of naturals. -/
def scaleRat (num den : Nat) (k : Int) : Nat × Nat :=
  if 0 ≤ k then (num * 2 ^ k.toNat, den) else (num, den * 2 ^ (-k).toNat)

/-- The exponent of the leading bit of num/den, both positive. -/
def ratLog2 (num den : Nat) : Int :=
  let l : Int := (Nat.log2 num : Int) - (Nat.log2 den : Int)
  let (a, b) := scaleRat num den (-l)
  if b ≤ a then l else l - 1

/-- A rounded magnitude: its code, whether it passed the largest finite value, and the conditions of R127. -/
structure Rounded where
  code : Nat
  beyond : Bool
  inexact : Bool
  tiny : Bool

/-- Round the positive rational num/den × 2^e to a format's grid (R127). `over` holds when the value, rounded with an
unbounded exponent, exceeds the largest finite value. -/
def Fmt.round (f : Fmt) (rm : Rnd) (neg : Bool) (num den : Nat) (e : Int) : Rounded :=
  let top := ratLog2 num den + e
  let q := max (top - f.mb) f.qmin
  let (a, b) := scaleRat num den (e - q)
  let (n, inx) := roundRat rm neg a b
  let code := (q - f.qmin).toNat * 2 ^ f.mb + n
  let tiny : Bool :=
    if f.emin ≤ top then false
    else
      let (a', b') := scaleRat num den (e - (top - f.mb))
      let (n', _) := roundRat rm neg a' b'
      !(top = f.emin - 1 && n' = 2 ^ (f.mb + 1))
  { code := code, beyond := f.maxCode < code, inexact := inx, tiny := tiny }

/-- The code of a signed magnitude. -/
def Fmt.pack (f : Fmt) (neg : Bool) (mag : Nat) : Nat := if neg then f.signW + mag else mag

/-- Whether an overflow in this mode and sign gives an infinity (R127). -/
def Rnd.overInf (rm : Rnd) (neg : Bool) : Bool :=
  match rm with
  | .ne => true
  | .z => false
  | .up => !neg
  | .down => neg

/-- A non-zero exact value delivered in an IEEE format, with its flags (R127). -/
def Fmt.deliver (f : Fmt) (rm : Rnd) (neg : Bool) (num den : Nat) (e : Int) : Nat × BitVec 14 :=
  let r := f.round rm neg num den e
  if r.beyond then (f.pack neg (if rm.overInf neg then f.infCode else f.maxCode), fOvf ||| fInx)
  else (f.pack neg r.code, flagIf r.inexact fInx ||| flagIf (r.tiny && r.inexact) fUnf)

/-! ### Exact sums and products -/

/-- A finite value as a signed multiple of 2^k, k at most its exponent. -/
def Fp.at (v : Fp) (k : Int) : Int :=
  match v with
  | .fin neg m e => let x : Int := (m * 2 ^ (e - k).toNat : Nat); if neg then -x else x
  | _ => 0

/-- The exponent of a finite value; 0 otherwise. -/
def Fp.exp : Fp → Int
  | .fin _ _ e => e
  | _ => 0

/-- The least exponent of a list of finite values. -/
def minExp : List Fp → Int
  | [] => 0
  | [v] => v.exp
  | v :: r => min v.exp (minExp r)

/-- The exact product, and whether it is 0 × Inf (R127, R132). -/
def Fp.mul (a b : Fp) : Fp × Bool :=
  match a, b with
  | .nan g, .nan h => (.nan (g || h), false)
  | .nan g, _ => (.nan g, false)
  | _, .nan g => (.nan g, false)
  | .inf s, .inf t => (.inf (s != t), false)
  | .inf s, .fin t m _ => if m = 0 then (.nan false, true) else (.inf (s != t), false)
  | .fin t m _, .inf s => if m = 0 then (.nan false, true) else (.inf (s != t), false)
  | .fin s m e, .fin t n d => (.fin (s != t) (m * n) (e + d), false)

/-- A sum of terms, exact and rounded once into an IEEE format (R127, R168). A NaN term gives the canonical NaN;
infinities of both signs are invalid whether or not a term is a NaN. -/
def Fmt.sum (f : Fmt) (rm : Rnd) (ts : List Fp) : Nat × BitVec 14 :=
  let pinf := ts.any fun t => t == .inf false
  let ninf := ts.any fun t => t == .inf true
  let nan := ts.any Fp.isNan
  let fl := flagIf (pinf && ninf) fInv
  if nan || (pinf && ninf) then (f.qnan, fl)
  else if pinf then (f.pack false f.infCode, 0)
  else if ninf then (f.pack true f.infCode, 0)
  else
    let k := minExp ts
    let x : Int := (ts.map fun t => t.at k).foldl (· + ·) 0
    if x = 0 then
      let allNeg := ts.all fun t => t.isZero && t.sign
      let allPos := ts.all fun t => t.isZero && !t.sign
      (f.pack (if allNeg then true else if allPos then false else rm == .down) 0, 0)
    else f.deliver rm (x < 0) x.natAbs 1 k

/-- The signalling-NaN condition over a list of operands. -/
def sigFlag (vs : List Fp) : BitVec 14 := flagIf (vs.any Fp.isSig) fInv

/-- round(A + B) (R130). -/
def Fmt.add (f : Fmt) (rm : Rnd) (a b : Nat) : Nat × BitVec 14 :=
  let x := f.dec a; let y := f.dec b
  let (r, fl) := f.sum rm [x, y]
  (r, fl ||| sigFlag [x, y])

/-- round(A − B). -/
def Fmt.sub (f : Fmt) (rm : Rnd) (a b : Nat) : Nat × BitVec 14 :=
  let x := f.dec a; let y := f.dec b
  let (r, fl) := f.sum rm [x, y.negate]
  (r, fl ||| sigFlag [x, y])

/-- A value delivered in a format: NaN canonical, infinities and zeros kept. -/
def Fmt.give (f : Fmt) (rm : Rnd) (v : Fp) : Nat × BitVec 14 :=
  match v with
  | .nan _ => (f.qnan, 0)
  | .inf n => (f.pack n f.infCode, 0)
  | .fin n m e => if m = 0 then (f.pack n 0, 0) else f.deliver rm n m 1 e

/-- round(A × B). -/
def Fmt.mul (f : Fmt) (rm : Rnd) (a b : Nat) : Nat × BitVec 14 :=
  let x := f.dec a; let y := f.dec b
  let (p, bad) := x.mul y
  let (r, fl) := f.give rm p
  (r, fl ||| sigFlag [x, y] ||| flagIf bad fInv)

/-- round(±(A × B) ± D) with one rounding (R132). -/
def Fmt.fma (f : Fmt) (rm : Rnd) (negP negD : Bool) (a b d : Nat) : Nat × BitVec 14 :=
  let x := f.dec a; let y := f.dec b; let z := f.dec d
  let (p, bad) := x.mul y
  let p := if negP then p.negate else p
  let z' := if negD then z.negate else z
  let (r, fl) := f.sum rm [p, z']
  (r, fl ||| sigFlag [x, y, z] ||| flagIf bad fInv)

/-- FP32 with FP32 words. -/
def w32 (r : Nat × BitVec 14) : W × BitVec 14 := (BitVec.ofNat 32 r.1, r.2)

/-! ### Order (R131, R135, R176) -/

/-- Rank of a non-NaN FP32 word among numbers, −0 just below +0. -/
def f32Key (w : W) : Int :=
  let mag : Int := (w.toNat % 2 ^ 31 : Nat)
  if bit w 31 then -mag - 1 else mag

/-- Rank with −0 equal to +0. -/
def f32Val (w : W) : Int :=
  let mag : Int := (w.toNat % 2 ^ 31 : Nat)
  if bit w 31 then -mag else mag

/-- `vfmin` and `vfmax` (R131). -/
def f32Pick (maxi : Bool) (a b : W) : W × BitVec 14 :=
  let x := f32Dec a; let y := f32Dec b
  let fl := sigFlag [x, y]
  if x.isNan && y.isNan then (0x7fc00000, fl)
  else if x.isNan then (b, fl)
  else if y.isNan then (a, fl)
  else if (f32Key a < f32Key b) == maxi then (b, fl) else (a, fl)

end Sys2Proof.Machine
end

