-- ==== Sys2Proof/Machine/Flags.lean ====
section
/-! DEFINITION. Sys2Proof/Machine/Flags.lean: the saturating forms of R126 and the flag computations of integer, affine
and uniform arithmetic. -/

namespace Sys2Proof.Machine

/-- The signed value of a word. -/
def sgn (w : W) : Int := w.toInt
/-- The unsigned value of a word. -/
def uns (w : W) : Int := (w.toNat : Int)

/-- x mod 2^32. -/
def wrap32 (x : Int) : W := BitVec.ofInt 32 x

/-- sat32 of R126: saturation to the signed range, with SAT. -/
def sat32 (x : Int) : W × BitVec 14 :=
  if 2 ^ 31 - 1 < x then (0x7fffffff, fSat)
  else if x < -(2 ^ 31) then (0x80000000, fSat)
  else (wrap32 x, 0)

/-- satn32 of R126: saturation at the top of the unsigned range, with SAT. -/
def satn32 (x : Int) : W × BitVec 14 :=
  if 2 ^ 32 - 1 < x then (0xffffffff, fSat) else (wrap32 x, 0)

/-- A signed result that leaves 32 bits. -/
def leavesS32 (x : Int) : Bool := x < -(2 ^ 31) || 2 ^ 31 - 1 < x

/-- Byte `j` of a word, signed. -/
def sbyte (w : W) (j : Nat) : Int := (w.extractLsb' (8 * j) 8).toInt
/-- Byte `j` of a word, unsigned. -/
def ubyte (w : W) (j : Nat) : Int := ((w.extractLsb' (8 * j) 8).toNat : Int)
/-- Nibble `j` of a word, signed. -/
def snib (w : W) (j : Nat) : Int := (w.extractLsb' (4 * j) 4).toInt

/-- The sum of `n` terms. -/
def sumTo (n : Nat) (f : Nat → Int) : Int := ((List.range n).map f).foldl (· + ·) 0

/-- A result with no flag. -/
def plain (w : W) : W × BitVec 14 := (w, 0)

/-- Number of leading zero bits of a word, 0 to 32. -/
def clz (w : W) : W := BitVec.ofNat 32 (if w = 0 then 32 else 31 - Nat.log2 w.toNat)
/-- Number of set bits of a word. -/
def popc (w : W) : W := BitVec.ofNat 32 ((List.range 32).filter fun i => bit w i).length
/-- The shift count of R129, R117: bits [4:0]. -/
def shiftBy (w : W) : Nat := w.toNat % 32
/-- Rotation to the left by bits [4:0] of `k` (R129). -/
def rol (a k : W) : W :=
  let n := shiftBy k
  if n = 0 then a else (a <<< n) ||| (a >>> (32 - n))

/-! Comparisons on words. -/
def ltS (a b : W) : Bool := sgn a < sgn b
def ltU (a b : W) : Bool := a.toNat < b.toNat
def minS (a b : W) : W := if ltS b a then b else a
def maxS (a b : W) : W := if ltS a b then b else a
def minU (a b : W) : W := if ltU b a then b else a
def maxU (a b : W) : W := if ltU a b then b else a

end Sys2Proof.Machine
end

