-- ==== Sys2Proof/Machine/Store.lean ====
section
/-! DEFINITION. Sys2Proof/Machine/Store.lean: association lists kept in rising order of their keys, and indexed
access to vectors. -/

namespace Sys2Proof.Machine

/-- A table from a number to a value, kept in rising order of the keys. -/
abbrev Store (α : Type) := List (Nat × α)

/-- The value at key `k`. -/
def sget {α : Type} : Store α → Nat → Option α
  | [], _ => none
  | (j, x) :: r, k => if j = k then some x else sget r k

/-- The value at key `k`, or `d` where the table has none. -/
def sgetD {α : Type} (m : Store α) (k : Nat) (d : α) : α := (sget m k).getD d

/-- The table with `x` at key `k`. -/
def sput {α : Type} : Store α → Nat → α → Store α
  | [], k, x => [(k, x)]
  | (j, y) :: r, k, x =>
    if k < j then (k, x) :: (j, y) :: r else if j = k then (k, x) :: r else (j, y) :: sput r k x

/-- The table without key `k`. -/
def sdel {α : Type} (m : Store α) (k : Nat) : Store α := m.filter (fun p => p.1 != k)

/-- The table with the value at `k`, where there is one, changed by `f`. -/
def smod {α : Type} (m : Store α) (k : Nat) (f : α → α) : Store α :=
  match sget m k with
  | some x => sput m k (f x)
  | none => m

/-- The least number from `k` on, tried `n` times, that is no key of the table. -/
def sfree {α : Type} (m : Store α) : Nat → Nat → Option Nat
  | 0, _ => none
  | n + 1, k => if (sget m k).isNone then some k else sfree m n (k + 1)

/-- Entry `i` of a vector, or `d` beyond its end. -/
def vget {α : Type} {n : Nat} (v : Vector α n) (i : Nat) (d : α) : α := v[i]?.getD d

/-- The vector with entry `i` set to `x`; unchanged beyond its end. -/
def vput {α : Type} {n : Nat} (v : Vector α n) (i : Nat) (x : α) : Vector α n := v.setIfInBounds i x

end Sys2Proof.Machine
end

