-- ==== Sys2Proof/Machine/State.lean ====
section
/-! DEFINITION. Sys2Proof/Machine/State.lean: the state of the Zaloez. Every field names the rule that gives it;
fields marked 'model' are the model's own. INVENTORY.md lists them with their reset values. -/

namespace Sys2Proof.Machine

/-- Why the model stops. -/
inductive Fault where
  /-- Raised by the meaning of a core instruction when no context of a core is issuing (`cur` is none), or when
  `cur` names a context that holds no gang. No step of the machine does that: the scheduler always names the
  issuing context first. Safe: the model stops where the hardware has no such situation. -/
  | noIssuer
  deriving DecidableEq, Repr

/-- Why the model has no meaning. -/
inductive Refusal where
  /-- Raised by an arm of `exec` that has no meaning yet. Safe: no next state is claimed. -/
  | notModelled (mnemonic : String)
  deriving DecidableEq, Repr

/-! ### Registers of a gang -/

/-- The state of a register (R101). -/
inductive Fe where
  | full
  | empty
  | poisoned (cause : BitVec 2)
  deriving DecidableEq, Repr

/-- A uniform register (R96): value, state, and whether a long-latency producer is outstanding (R103). -/
structure SReg where
  val : W := 0
  fe : Fe := .full
  busy : Bool := false
  deriving DecidableEq, Repr

/-- An affine register (R96). -/
structure AReg where
  base : W := 0
  stride : W := 0
  fe : Fe := .full
  busy : Bool := false
  deriving DecidableEq, Repr

/-- A varying register (R96): 32 lanes and a format tag (R140). -/
structure VReg where
  val : Lanes := Lanes.splat 0
  tag : Byte := 0
  fe : Fe := .full
  busy : Bool := false
  deriving DecidableEq, Repr

/-- A value of one of the four result types of R70. -/
inductive Val where
  | v (x : Lanes) (tag : Byte)
  | s (x : W)
  | a (base stride : W)
  | k (x : W)
  deriving DecidableEq, Repr

/-- An entry of the forwarding window (R69, R80): its result, its destination code and W. While its bank write is
pending (R71), `old` is what the bank holds beneath it; the register itself shows the written value (R72). -/
structure WinEntry where
  val : Option Val
  dest : Byte
  w : Bool
  old : Option Val := none
  deriving DecidableEq, Repr

/-- The park kinds of R408, byte 1 of a GROUPS entry, but for 0 (ready) and 7 (trailer, which `Group.trailer`
shows). -/
inductive ParkKind where
  | read
  | write
  | engine
  | pageFault
  | barrier
  | node
  | regang
  | fence
  | verdict
  deriving DecidableEq, Repr

/-- A run's trailer (R68): two operand codes and N; 127 is none. -/
structure Trailer where
  x : BitVec 7 := 127
  y : BitVec 7 := 127
  n : BitVec 4 := 0
  deriving DecidableEq, Repr

/-- A group of slices (R74): its park condition with the code or index awaited, the cycle in which it began to wait for
that (R112), the word that it has decoded and is parked at (R42), the trailer its next run waits for (R68), and whether it
is still in the round (R75). -/
structure Group where
  slices : BitVec 8
  park : Option (ParkKind × Byte) := none
  since : Nat := 0
  held : Option W := none
  trailer : Trailer := {}
  inRound : Bool := true
  deriving DecidableEq, Repr

/-- A fault record (R402) or page-fault record (R219): the two layouts share their field places. `b1` and `b2`
are CAUSE and FLAGS, or CAUSE and ACCESS; `b15` is ACTIVE or PAGES; `aux` is AUX, or the PC of a PF record, whose
VA stands in `pc`. -/
structure Rec where
  code : Byte
  b1 : Byte := 0
  b2 : Byte := 0
  gang : Byte := 0
  info : W := 0
  pc : PC := 0
  asid : Byte := 0
  b15 : Byte := 0
  aux : PC := 0
  core : BitVec 16 := 0
  seq : W := 0
  deriving DecidableEq, Repr

/-- What a page lookup or page fault is for: a memory access or parameter-cache line fill, a fetch, or the reads of a kiosk
(R214, R218, R202, R388). -/
inductive LookFor where
  | access (acc : Nat)
  | fetch
  | kiosk
  deriving DecidableEq, Repr

/-- A pending page fault of a gang (R217, R219): its record number, the unfinished lanes, what it is for, the VA of
its record, and the mark a command left while the gang was saved (R226): 0 none, 1 replay, 2 cancel, with the command
that waits for it (the die of its queue, and its number there). -/
structure Pf where
  seq : W
  lanes : W
  what : LookFor
  va : PC
  cmd : BitVec 2 := 0
  waits : Option (Nat × Nat) := none
  deriving DecidableEq, Repr

/-- A share binding of a gang (R110); `sn` is the serial number of the storage. -/
structure Bind where
  id : Nat
  first : Nat
  count : Nat
  sn : Nat := 0
  deriving DecidableEq, Repr

/-- One request of a combiner wave (R276, R278): the packet it came in, the requester's core, context and lane,
VEC, and the argument. -/
structure Req where
  pkt : Nat
  core : Nat
  ctx : Nat
  lane : Nat
  vec : Bool
  arg : W
  deriving DecidableEq, Repr

/-- The combiner wave in the plaza context (R278, R281, R284): its object, requests, recorded replies, the count
of instructions issued, and the failure it is ending with, if any. `ending` is set once `obj.done`, `obj.fail` or
a failure has begun the wait of R282. `asid` is the address space that the object named when the wave started (R271). -/
structure Wave where
  obj : W
  reqs : List Req
  asid : Byte := 0
  replies : Store W := []
  issued : Nat := 0
  ending : Bool := false
  failed : Bool := false
  deriving DecidableEq, Repr

/-- A gang (R60, R61, R73, R96), or the plaza context while it runs a wave. Defaults are the start state of R61
and R96. -/
structure Gang where
  pcs : Vector PC 8 := Vector.replicate 8 0
  /-- Return stacks, newest entry first (R73). -/
  retStacks : Vector (List PC) 8 := Vector.replicate 8 []
  live : BitVec 8 := 0xff
  kuse : W := 0xffffffff
  groups : List Group := [{ slices := 0xff }]
  /-- The slices of the issuing group (R74), or of the group that issued last. -/
  active : BitVec 8 := 0xff
  /-- The slices of the group whose run is unfinished; 0 at a run boundary (R66, R75). -/
  run : BitVec 8 := 0
  runCnt : Nat := 0
  /-- The window, newest first (R69). -/
  window : List WinEntry := []
  /-- What the banks hold of registers that show a written value whose bank write has been omitted, since a long-latency
  producer named the register (R71): bank, operand code, contents. -/
  unbanked : List (Nat × Nat × Val) := []
  s : Vector SReg 32 := Vector.replicate 32 {}
  a : Vector AReg 16 := Vector.replicate 16 {}
  v : Vector VReg 64 := Vector.replicate 64 {}
  k : Vector W 8 := Vector.replicate 8 0
  /-- Buffer records b0 to b15 (R187). -/
  recs : Vector (BitVec 128) 16 := Vector.replicate 16 0
  valloc : Nat := 8
  binds : List Bind := []
  /-- GSTAT (R120), bits 13 to 0. -/
  gstat : BitVec 14 := 0
  /-- The flags that completions have set in this cycle (R126). -/
  raised : BitVec 14 := 0
  rmode : BitVec 2 := 0
  ptile : BitVec 3 := 5
  mxc : W := 0x3f800000
  role : W := 0
  wmodpc : PC := 0
  timeh : Option W := none
  /-- Outstanding accesses of path p and scope s at 5p + s (R237). -/
  counts : Vector Nat 30 := Vector.replicate 30 0
  /-- The fault that halts the gang (R79, R402). -/
  halt : Option Rec := none
  pf : Option Pf := none
  /-- Page lookups in progress (R214). -/
  look : Option LookFor := none
  /-- Cycles ready without issuing (R64), the aged flag, and whether it issued in this cycle. -/
  age : Nat := 0
  aged : Bool := false
  issued : Bool := false
  /-- LIVE is 0 and producers are outstanding (R77). -/
  ended : Bool := false
  wave : Option Wave := none
  /-- Share bindings (first, count, id) that take effect before the first instruction (R54). -/
  pre : List (Nat × Nat × Nat) := []
  deriving DecidableEq, Repr

/-! ### Memory accesses -/

/-- The atomics of R199 and R200. -/
inductive AtomOp where
  | add
  | fadd
  | min
  | max
  | and
  | or
  | xchg
  | cas
  deriving DecidableEq, Repr

/-- What an access does. -/
inductive AccOp where
  | load
  | store
  | atomic (op : AtomOp)
  deriving DecidableEq, Repr

/-- How a load turns its bytes into the lane value (R197, R200). -/
inductive LoadConv where
  | zext
  | sext
  | f16
  deriving DecidableEq, Repr

/-- Where an access returns its value: nowhere, `n` varying registers from `first`, a uniform register, buffer
record `i` (R194), codebook `i` (R150), or the parameter cache, as line (window × 1,024 + line) (R202). -/
inductive AccDst where
  | none
  | v (first n : Nat)
  | s (i : Nat)
  | buf (i : Nat)
  | cb (i : Nat)
  | prm (line : Nat)
  deriving DecidableEq, Repr

/-- One lane of an access: its address (a 48-bit device address, or a global SRAM address), the bytes it stores or
its atomic operand, and the new value of a compare-and-swap. -/
structure LaneAcc where
  lane : Nat
  addr : Nat
  data : Nat := 0
  data2 : Nat := 0
  deriving DecidableEq, Repr

/-- The progress of one line of an access (R192, R216, R217, R237): its lookup is not done; its lookup failed;
translated and on its way, or held back by R238; performed at its home; acknowledged. -/
inductive LineSt where
  | look
  | failed
  | sent
  | performed
  | done
  deriving DecidableEq, Repr

/-- One 128-byte line of an access. `base` is its address in the space of the access, `key` the memory key of its
first byte once translated, `kind` its ordering kind, `nc` the NC of its leaf, `home` the unit that performs it: a core,
4,096 + a die, 8,192 the host, or 8,448 + a module. `page` and `psize` are the first address and the size of the page by whose
entry it was translated (R224). `lanes` are the lanes whose bytes this entry performs. `bridge` is set once an exit bridge or
port has accepted it and taken over the count. -/
structure LineAcc where
  base : Nat
  key : Nat := 0
  kind : BitVec 2 := 1
  home : Nat := 0
  page : Nat := 0
  psize : Nat := 0
  lanes : W := 0xffffffff
  nc : Bool := false
  st : LineSt := .look
  bridge : Option Nat := none
  deriving DecidableEq, Repr

/-- A memory access in flight (R190 to R200). Its number in the core's table gives its place in the order of issue.
`binds` are the bindings of the gang when it issued, which say what registers its destination names (R102, R110). -/
structure Access where
  ctx : Nat
  pc : PC
  op : AccOp
  dev : Bool
  width : Nat
  conv : LoadConv := .zext
  dst : AccDst := .none
  tag : Byte := 0
  lanes : List LaneAcc
  /-- Lanes out of bounds, whose destination becomes 0 (R191). -/
  oob : W := 0
  mxf6 : Bool := false
  lines : List LineAcc
  binds : List Bind := []
  acq : Bool := false
  rel : Bool := false
  strong : Bool := false
  stream : Bool := false
  scope : Nat := 0
  poison : Bool := false
  /-- The data of a `cbld` have been written into the codebook (R150, R151). -/
  given : Bool := false
  /-- Cancelled (R223): its finished lanes are performed, and its destination has no producer. -/
  cancelled : Bool := false
  /-- The issue slot whose queue holds it, and its place there once it takes its frames: at its issue, or where R238 holds it
  back at the end of the cycle in which it may leave (R184). -/
  slot : Nat := 0
  place : Option Nat := none
  /-- Bridges and ports that a release has sent a marker to, and those that have reported a count of 0 (R238). -/
  marked : List Nat := []
  reported : List Nat := []
  deriving DecidableEq, Repr

/-- A special-function operation in flight (R137): the lanes and flags it will write, and its due cycle. `dst` is
none when W = 1 discards the completion (R102), and `binds` the bindings at issue. -/
structure SfuOp where
  ctx : Nat
  binds : List Bind := []
  dst : Option Nat
  val : Lanes
  mask : W
  flags : BitVec 14
  issued : Nat
  due : Nat
  deriving DecidableEq, Repr

/-! ### Messages -/

/-- A message in flight (R257, R264): its sender, completion register and source address, its destination and header.
`got` holds the 16-byte pieces of the payload that have been read; `bad` is set when its payload carries an uncorrectable
error on its way. `status` is set once the destination has acted: 0 to 2, or 3 for poison. -/
structure Msg where
  src : Nat
  ctx : Nat
  creg : Nat
  addr : Nat
  dst : Nat
  hdr : W
  bad : Bool := false
  got : Store (List Byte) := []
  launch : BitVec 32
  status : Option Nat := none
  deriving DecidableEq, Repr

/-- A posted receive (R264). -/
structure Receive where
  ctx : Nat
  sel : W
  addr : Nat
  creg : Nat
  launch : BitVec 32
  deriving DecidableEq, Repr

/-- A message in the lay-by (R259). -/
structure Layby where
  hdr : W
  payload : List Byte
  bad : Bool
  launch : BitVec 32
  deriving DecidableEq, Repr

/-! ### Objects -/

/-- A request packet (R273, R274, R362, R389). `dst` is the reply register: a uniform register, a varying
register, or none. `left` counts the replies still to come. `tried` is the cycle of the last refusal by a full
plaza, and `home` the core it was forwarded to. -/
structure Pkt where
  core : Nat
  ctx : Nat
  launch : BitVec 32
  obj : W
  vec : Bool
  reqs : List (Nat × W)
  dst : AccDst
  binds : List Bind := []
  left : Nat
  failed : Bool := false
  home : Option Nat := none
  tried : Option Nat := none
  /-- 0 an object call; 1 to 4 `kv.map`, `kv.fork`, `kv.drop`, `kv.unpin`; 5 `wfetch`, 6 `wphase`. -/
  svc : Nat := 0
  /-- The second word of a service request: the target of `kv.map`. -/
  arg2 : W := 0
  deriving DecidableEq, Repr

/-- A reply on its way to a requester (R285). -/
structure Reply where
  pkt : Nat
  lane : Nat
  ok : Bool
  val : W
  deriving DecidableEq, Repr

/-- A wave of a plaza queue, open or closed (R276), with the cycle in which it closed (R277). -/
structure QWave where
  obj : W
  opened : Nat
  maxw : Nat
  reqs : List Req
  closedAt : Nat := 0
  deriving DecidableEq, Repr

/-- The plaza queue of a core (R275, R276): open waves by object id, closed waves in the order in which they start, the
turned-back senders by core, and the entries held for the first of these. -/
structure Plaza where
  opens : Store QWave := []
  closed : List QWave := []
  turned : List Nat := []
  held : Nat := 0
  deriving DecidableEq, Repr

/-! ### Matrix -/

/-- A matrix command (R300 to R311). Records are copies (R196). -/
inductive MxOp where
  | lb (rc : BitVec 128) (slot : Nat) (fmt : BitVec 4) (cbn : Nat)
  | mma (rc : BitVec 128) (slot tile : Nat) (ov : Bool) (cb : List (BitVec 16))
  | zero (tiles : BitVec 8) (raw : Bool)
  | st (rc bias sum : BitVec 128) (tile : Nat) (exp : Bool) (fmt : BitVec 4) (mxc : W)
  | rmax (rc : BitVec 128) (tile : Nat)
  | rd (v : Nat) (binds : List Bind) (tile row block : Nat) (mask : W)
  | wr (x : Lanes) (mask : W) (tile row block : Nat)
  deriving DecidableEq, Repr

/-- A queued matrix command: the core and context that issued it, whether it is a pair operation, its PC, its
launch slot, the crew's pinned base and size, and the graph node it runs for. `num` is its number on the issuing
core. -/
structure MxCmd where
  op : MxOp
  core : Nat
  ctx : Nat
  pair : Bool
  pc : PC
  launch : Byte
  pin : Nat
  pinSize : Nat
  node : Option Nat := none
  num : Nat
  deriving DecidableEq, Repr

/-- An operand in the weight buffer (R302), kept at the first slot of its run of `n`: format, codebook number, pair bit
and bytes. A slot that starts no run is empty to `mx.mma`. -/
structure WSlot where
  fmt : BitVec 4
  cbn : Nat
  pair : Bool
  n : Nat
  bytes : List Byte
  deriving DecidableEq, Repr

/-- An accumulator tile (R298): 128 × 128 words by row × 128 + column, those not listed being 0. -/
structure Tile where
  cells : Store W := []
  tag : Byte := 0
  poison : Bool := false
  deriving DecidableEq, Repr

/-- What a gang waits for at the matrix engine (R294, R296, R298, R304): `kind` 0 is `acc.get`, 1 `mx.lic`, both with
the operand `word` and the arbiter's answer; 2 waits for the crew's commands numbered below `word`. -/
structure MxReq where
  ctx : Nat
  kind : Nat
  word : W
  ans : Option W := none
  deriving DecidableEq, Repr

/-- The matrix engine of a core. `nodeQ` holds the commands of started graph nodes that wait for room (R318). -/
structure Mx where
  q : List MxCmd := []
  nodeQ : List MxCmd := []
  num : Nat := 0
  slots : Store WSlot := []
  tiles : Vector Tile 8 := Vector.replicate 8 {}
  waits : List MxReq := []
  deriving DecidableEq, Repr

/-! ### Graphs, copies and barriers -/

/-- A pending page fault of an engine command (R218): its record number, the address that failed, and whether the
access was a write. -/
structure EPf where
  seq : W
  va : Nat
  store : Bool
  deriving DecidableEq, Repr

/-- A copy command (R320): source and destination records, the element count, how many elements are done, and whether it
goes from the last element to the first. `bad` is set once data with an uncorrectable error has been copied. -/
structure CopyCmd where
  src : BitVec 128
  dst : BitVec 128
  n : Nat
  done : Nat := 0
  /-- The bytes of the next element that are done. -/
  off : Nat := 0
  down : Bool := false
  pc : PC
  ctx : Nat
  asid : Byte
  bad : Bool := false
  /-- Bytes written so far in words marked uncorrectable (R193). -/
  cov : List Nat := []
  /-- The bytes that this copy has overwritten, as they stood (R320). -/
  old : List (Nat × Byte) := []
  pf : Option EPf := none
  deriving DecidableEq, Repr

/-- What a graph node does (R316). -/
inductive NodeKind where
  | copy (c : CopyCmd)
  | matrix (c : MxCmd)
  | wake (ctx reg : Nat)
  deriving DecidableEq, Repr

/-- Node states (R316); a FREE node is not in the table. -/
inductive NodeSt where
  | built
  | armed
  | running
  | done
  | killed
  deriving DecidableEq, Repr

/-- A graph node (R316, R318). `kill` is set when a running node has been killed (R319). -/
structure Node where
  kind : NodeKind
  st : NodeSt := .built
  count : Int := 0
  status : Nat := 0
  carried : Nat := 0
  succ : List Nat := []
  kill : Bool := false
  deriving DecidableEq, Repr

/-- A member of a barrier (R326). -/
structure Member where
  core : Nat
  ctx : Nat
  arrived : Bool
  deriving DecidableEq, Repr

/-- A barrier entry in use (R326); a FREE entry is not in the table. -/
structure Barrier where
  stranded : Bool := false
  owner : BitVec 32
  expected : Nat
  phase : BitVec 16 := 0
  arrivals : Nat := 0
  members : List Member := []
  deriving DecidableEq, Repr

/-- A barrier command (R327, R331). `op` is the SUB of R330, `there` holds once it has reached its table, and `ans` is
the table's answer: 0 ok, 1 in use, 2 E_PERM, 3 E_RES, 4 E_BSTR, with the phase arrived in. A `bar.sync` that has arrived
goes on as a `bar.wait`. -/
structure BarCmd where
  core : Nat
  ctx : Nat
  op : Nat
  key : Nat
  id : W
  arg : W
  there : Bool := false
  ans : Option (Nat × BitVec 16) := none
  deriving DecidableEq, Repr

/-! ### Slots and KV -/

/-- One slot of a block (R335): state, token, FPASS. -/
structure Slot where
  st : BitVec 2 := 0
  token : W := 0
  fpass : BitVec 16 := 0
  deriving DecidableEq, Repr

/-- The rule of a block (R337), with the default at open. -/
structure Rule where
  thf : W := 0x7f800000
  tht : W := 0x7f800000
  rho : W := 0xff800000
  kmin : Nat := 1
  kmax : Nat := 1
  deriving DecidableEq, Repr

/-- A slot-table entry (R334, R335). -/
structure Block where
  isOpen : Bool := false
  gen : BitVec 16 := 1
  asid : Byte := 0
  base : W := 0
  slots : List Slot := []
  rule : Rule := {}
  pass : BitVec 16 := 0
  rc : Nat := 0
  wc : W := 0
  r : W := 0
  kerr : Bool := false
  ring : Nat := 0
  cap : Nat := 2
  wcur : Nat := 0
  rcur : Nat := 0
  /-- A release waits on a full ring; its next periodic retry arrives in this cycle (R340). -/
  halted : Option Nat := none
  /-- The cycles in which further retries arrive, each one after a command on the block (R340). -/
  retries : List Nat := []
  deriving DecidableEq, Repr

/-- The commands of the finaliser (R342). -/
inductive FinOp where
  | open (addr : Nat)
  | rule (addr : Nat)
  | pass (conf tok : BitVec 128)
  | slotRead (idx : W)
  | kerb
  | reopen (idx : W)
  | close
  | kvRead (idx : Nat)
  deriving DecidableEq, Repr

/-- A finaliser command (R342, R333): its handle, its destination register pair, and its progress. `w0` and `w1` are
the words of the answer, poison when `poison` is set. `place` is 0 on the way, 1 queued, 2 turned back at cycle `tried`, 3
answered, 4 an answer that the parked group at `pc` has not yet taken up. `slot` is the issue slot that sent it, and `homes` are
the homes that it counts for (R237). -/
structure FinCmd where
  core : Nat
  ctx : Nat
  slot : Nat := 0
  homes : List Nat := []
  pc : PC
  op : FinOp
  handle : W
  die : Nat
  dst : Option Nat
  pin : Nat := 0
  pinSize : Nat := 0
  launch : Byte := 0
  asid : Byte := 0
  place : Nat := 0
  tried : Nat := 0
  w0 : W := 0
  w1 : W := 0
  poison : Bool := false
  deriving DecidableEq, Repr

/-- The commands of a KV engine (R374). -/
inductive KvOp where
  | st
  | ld
  | vqlut
  | vqsc
  deriving DecidableEq, Repr

/-- A queued KV command (R370 to R374): its number, the two operand words, the homes that it counts for (R237), the status
register, and for `kv.st` the finaliser command it has asked with, its answer (the position, or none), and the source address
and table entry as read. `ans` is the verdict of a command that its parked group has not yet taken up. -/
structure KvCmd where
  op : KvOp
  num : Nat := 0
  homes : List Nat := []
  ctx : Nat
  a : W
  b : W
  dst : Option Nat
  pc : PC
  launch : Byte
  asid : Byte
  asked : Option Nat := none
  slot : Option (Option W) := none
  src : Nat := 0
  ent : Nat := 0
  ans : Option Nat := none
  deriving DecidableEq, Repr

/-- A KV pool of a die (R354). NHOME = 0 is no pool. -/
structure Pool where
  nhome : Nat := 0
  novf : Nat := 0
  blkpa : Nat := 0
  tblpa : Nat := 0
  cbpa : Nat := 0
  svc : W := 0
  deriving DecidableEq, Repr

/-! ### Crews and cores -/

/-- A waiting `grow` or `rshare` (R107): blocks asked for, and the arbiter's answer. -/
structure PoolReq where
  ctx : Nat
  blocks : Nat
  share : Bool
  ans : Option Bool := none
  deriving DecidableEq, Repr

/-- Storage of a share id (R110): its registers, the number of gangs bound, its serial number, and the registers written
in this cycle as they stood before it, by place (R104). -/
structure Share where
  regs : List VReg
  bound : Nat
  sn : Nat := 0
  before : Store VReg := []
  deriving DecidableEq, Repr

/-- What a saved gang keeps that the save area of R408 does not hold: its fault record, its pending page fault, the
group that issued last, the group in an unfinished run, the window entries whose bank write is pending and what registers
show above an omitted one (R71), and the words of parked groups (R42). -/
structure SavedGang where
  halt : Option Rec := none
  pf : Option Pf := none
  active : BitVec 8 := 0xff
  run : BitVec 8 := 0
  pre : List (Nat × Nat × Nat) := []
  pend : List Bool := []
  held : List (BitVec 8 × W) := []
  /-- The values that registers showed and their banks do not hold (R71): bank, operand code, value. -/
  shown : List (Nat × Nat × Val) := []
  /-- Bindings of an id that the gang binds at a second range. -/
  more : List Bind := []
  deriving DecidableEq, Repr

/-- A SAVE in progress (R406): SAVEBASE, the die whose queue it came through, and for the last crew of the command its
DONE and TAG. -/
structure Saving where
  base : Nat
  die : Nat
  done : Option (Nat × W) := none
  deriving DecidableEq, Repr

/-- A crew (R6, R385). -/
structure Crew where
  launch : BitVec 32
  asid : Byte
  prio : Nat
  pin : Nat
  sram : Nat
  gangs : Nat
  /-- `.vregs`: the allotment of each gang at admission (R95, R109). -/
  vregs : Nat := 8
  /-- Parameter windows: base and size (R386, R202). -/
  wins : Vector (Nat × Nat) 4 := Vector.replicate 4 (0, 0)
  /-- The stream id that word 0 of pw0 returns (R392). -/
  stream : Option W := none
  /-- The kiosk object of the launch (R289). -/
  kiosk : W := 0
  cbs : Vector (Vector (BitVec 16) 16) 8 := Vector.replicate 8 (Vector.replicate 16 0)
  shares : Store Share := []
  nodes : Store Node := []
  /-- The licence (R293): pair, first slot, count. -/
  lic : Option (Bool × Nat × Nat) := none
  /-- Tiles held on this core in solo form, in pair form on both cores, and on the follower alone (R298). -/
  solo : BitVec 8 := 0
  pair : BitVec 8 := 0
  far : BitVec 8 := 0
  /-- The deferred matrix error (R310): code, cause, PC of the failed command. -/
  mxErr : Option (Byte × Byte × PC) := none
  /-- The message overflow flag (R260). -/
  ovf : Bool := false
  /-- SAVEBASE while the crew is saved, and a SAVE in progress (R406). -/
  saved : Option Nat := none
  saving : Option Saving := none
  kept : Store SavedGang := []
  /-- The serial numbers of the shares of a saved crew. -/
  sns : Store Nat := []
  /-- Gangs of the crew that have ended (R20). -/
  ended : BitVec 16 := 0
  deriving DecidableEq, Repr

/-- An entry of a translation cache (R213): its ASID, virtual page, page size in bytes, and leaf. -/
structure TlbEntry where
  asid : Byte
  vpage : Nat
  size : Nat
  leaf : BitVec 64
  deriving DecidableEq, Repr

/-- A line of a parameter cache (R202). -/
structure PLine where
  launch : Byte
  win : Nat
  off : Nat
  bytes : List Byte
  deriving DecidableEq, Repr

/-- A fault ring (R401). -/
structure Ring where
  base : Option Nat := none
  fqw : W := 0
  fqr : W := 0
  msiAddr : BitVec 64 := 0
  msiData : W := 0
  lost : W := 0
  waiting : List Rec := []
  deriving DecidableEq, Repr

/-- A core (R11). Defaults are its state at core reset. -/
structure Core where
  /-- The clock at core reset; CYCLE counts from it (R119). -/
  t0 : Nat := 0
  /-- The context that each issue slot holds for a run (R64). -/
  slots : Vector (Option Nat) 4 := Vector.replicate 4 none
  /-- The context last selected in each class: priorities 0 to 3 (R64). -/
  last : Vector Nat 4 := Vector.replicate 4 63
  /-- Model: the contexts that the slots have selected in this cycle and that have not issued yet. -/
  chosen : List Nat := []
  /-- The registers whose producers have completed in this cycle (R104), by `ownCode` and `shareCode`. -/
  fresh : List Nat := []
  gangs : Store Gang := []
  crews : Store Crew := []
  poolFree : Nat := 128
  poolQ : List PoolReq := []
  /-- KIND, OPEN and OWNER of each 64 KiB region (R185). -/
  regions : Vector (BitVec 2 × Bool × Byte) 32 := Vector.replicate 32 (1, true, 0)
  tlb : List TlbEntry := []
  pcache : List PLine := []
  accs : Store Access := []
  nextAcc : Nat := 0
  sfu : Store SfuOp := []
  /-- Contexts parked for the special-function unit, oldest first (R137). -/
  sfuQ : List Nat := []
  receives : List Receive := []
  layby : List Layby := []
  mx : Mx := {}
  /-- Started copy nodes in the order they started: the crew slot, or 4 for the plaza graph, and the node. The first 16
  are the engine's queue, and the others wait to enter it (R315, R320). -/
  copyQ : List (Nat × Nat) := []
  plazaNodes : Store Node := []
  kvQ : List KvCmd := []
  plaza : Plaza := {}
  seq : W := 0
  rings : Vector Ring 4 := Vector.replicate 4 {}
  deriving DecidableEq, Repr

/-! ### Dies -/

/-- A TSYNC of a die's queue (R224): the command, the stores of its hart that it still waits for, by number, whether it has
removed the entries, and then the accesses that it waits for, by core, access and line. -/
structure TsyncOp where
  done : Nat
  tag : W
  cmd : TCmd
  stores : List Nat := []
  begun : Bool := true
  waits : List (Nat × Nat × Nat)
  deriving DecidableEq, Repr

/-- A translation command of a die's queue whose records belong to saved gangs: DONE, TAG, and how many records have not
acted yet (R221, R226). -/
structure DoneWait where
  done : Nat
  tag : W
  left : Nat
  deriving DecidableEq, Repr

/-- A power token (R313): the quad it stands at, and the cycle its burst began. -/
structure Token where
  quad : Nat
  burst : Option Nat := none
  deriving DecidableEq, Repr

/-- What stands in a finaliser's queue: a command, or a retry of a block's release (R342). -/
inductive FinItem where
  | cmd (n : Nat)
  | retry (blk : Nat)
  deriving DecidableEq, Repr

/-- A die (R12). -/
structure Die where
  /-- DIEMAP (R413): the die is in service. -/
  ok : Bool := false
  objs : Store (BitVec 128) := []
  plzlim : W := 65536
  pring : Ring := {}
  tsyncs : Store TsyncOp := []
  tqWaits : Store DoneWait := []
  tqErr : Bool := false
  cqErr : Bool := false
  /-- Crew commands of this die's queue that have not ended (R404). -/
  cqUsed : Nat := 0
  dtlb : List TlbEntry := []
  /-- Walk cache: level (1 or 2), ASID, table index, pointer entry (R213). -/
  walk : List (Nat × Byte × Nat × BitVec 64) := []
  blocks : Store Block := []
  /-- The finaliser: its queue, the cores whose commands it has turned back, and the places held for the first (R333). -/
  finQ : List FinItem := []
  finTurned : List Nat := []
  finHeld : Nat := 0
  /-- The submission windows of the translation and crew command queues (R220, R404), 32 bytes each. -/
  tqWin : List Byte := List.replicate 32 0
  cqWin : List Byte := List.replicate 32 0
  pools : Vector Pool 2 := Vector.replicate 2 {}
  rbtok : BitVec 5 := 1
  tokens : List Token := [{ quad := 0 }]
  thermal : Bool := false
  modid : Byte := 0
  podRoute : Vector (BitVec 4) 256 := Vector.replicate 256 0
  corr : W := 0
  uncorr : W := 0
  telBase : Nat := 0
  telIdx : Nat := 0
  deriving DecidableEq, Repr

/-! ### The front end -/

/-- A place in a chain of INDIRECT buffers (R383): IBVA, packets left, next packet address, and the number of the
INDIRECT packet. -/
structure Indirect where
  ibva : Nat
  left : Nat
  next : Nat
  num : Nat
  deriving DecidableEq, Repr

/-- A signal update that is due or will be (R381): address, ASID, SIGOP, operand, and the queue with the address of its
packet. -/
structure Sig where
  va : Nat
  asid : Byte
  op : Nat
  val : BitVec 64
  queue : Nat
  pkt : Nat
  deriving DecidableEq, Repr

/-- A packet that has started and not completed (R381): its number in the queue, the INDIRECT packets it stands in, and,
for an INDIRECT itself, its signal. -/
structure Outst where
  num : Nat
  up : List Nat := []
  inner : Bool := false
  sig : Option Sig := none
  deriving DecidableEq, Repr

/-- A command queue (R378, R381, R383, R395). -/
structure Queue where
  ring : BitVec 64 := 0
  log2size : Nat := 1
  prio : Nat := 0
  asid : Byte := 0
  st : Nat := 0
  tickets : Nat := 0
  err : Nat := 0
  widx : W := 0
  ridx : W := 0
  pass : BitVec 64 := 0
  errpkt : BitVec 64 := 0
  /-- The head packet while it is a WAIT, a TIMER or a LAUNCH that waits, as read (R382). -/
  head : Option (List Byte) := none
  ready : Bool := false
  chain : List Indirect := []
  num : Nat := 0
  outst : List Outst := []
  deriving DecidableEq, Repr

/-- A launch in its slot (R19, R20, R385, R387). -/
structure Launch where
  stamp : BitVec 24
  asid : Byte
  queue : Nat
  num : Nat := 0
  sig : Option Sig
  cores : List Nat
  kiosk : W
  nphase : Nat
  phases : Nat
  /-- Per phase: the selected schedule, OVER, the size limit, and the next item (R388). -/
  picked : Store (Nat × Bool × Nat × Nat) := []
  stream : Option Nat := none
  deriving DecidableEq, Repr

/-- What a LAUNCH packet asks for, as read at its selection (R54, R382, R384): ASID, ENTRY, GANGS, VREGS, SRAM, the
image, the record entries (index, record), the share entries (first, count, id), the windows, the target cores, the
phases, the address of the packet, and its signal. -/
structure LaunchReq where
  asid : Byte
  entry : PC
  gangs : Nat
  vregs : Nat
  sram : Nat
  simg : Nat
  simglen : Nat
  recs : List (Nat × BitVec 128)
  shares : List (Nat × Nat × Nat)
  wins : List (Nat × Nat)
  targets : List Nat
  phases : Nat
  nphase : Nat
  pkt : Nat
  sig : Option Sig
  deriving DecidableEq, Repr

/-- A LAUNCH that waits for admission (R385): its queue or stream, the cycle of its first selection, and what it asks
for. -/
structure Waiting where
  queue : Nat
  stream : Option Nat := none
  since : Nat
  senior : Bool := false
  req : LaunchReq
  deriving DecidableEq, Repr

/-- A COPY packet in progress (R382). `stuck` is set when a page has failed, until its queue runs again. -/
structure CopyJob where
  queue : Nat
  num : Nat
  src : Nat
  dst : Nat
  len : Nat
  asid : Byte
  pkt : Nat
  sig : Option Sig
  stuck : Bool := false
  deriving DecidableEq, Repr

/-- A CLOSE that waits for the launch in flight of its stream (R391): the packet's queue, number, address and signal, and
its STATUS address with the ASID. -/
structure Closing where
  queue : Nat
  num : Nat
  pkt : Nat
  status : Nat
  asid : Byte
  sig : Option Sig
  deriving DecidableEq, Repr

/-- States of a stream context (R390). -/
inductive StreamSt where
  | free
  | active
  | silent
  | evicted
  | restoring
  deriving DecidableEq, Repr

/-- A stream context (R390). `evict` and `copying` mark an eviction or a restore copy in progress, `pend` a launch
that waits for the launch in flight or the copy, and `closing` a CLOSE that waits for the launch. `touched` notes a TOUCH
during an eviction, and `held` a due time during a take-over (R394). -/
structure Stream where
  st : StreamSt := .free
  act : Bool := false
  silent : Nat := 0
  tmpl : Nat := 0
  pinAddr : Nat := 0
  pinLen : Nat := 0
  silentMax : Nat := 0
  queue : Nat := 0
  slot : W := 0
  kvseq : W := 0
  period : Nat := 0
  next : Nat := 0
  asid : Byte := 0
  flight : Option Nat := none
  late : W := 0
  overrun : W := 0
  evict : Bool := false
  copying : Bool := false
  pend : Bool := false
  touched : Bool := false
  held : Bool := false
  closing : Option Closing := none
  deriving DecidableEq, Repr

/-- A policy core (R13): its TCM of 256 KiB, by rising address, no byte being 0, and the words of it that are
uncorrectable. -/
structure PolicyCore where
  tcm : Store Byte := []
  bad : List Nat := []
  deriving DecidableEq, Repr

/-- The front end (R13, R377). -/
structure FrontEnd where
  /-- The two policy cores, and which of them acts: the other is its hot standby (R399, R400). -/
  policy : Vector PolicyCore 2 := Vector.replicate 2 {}
  acting : Nat := 0
  queues : Store Queue := []
  launches : Store Launch := []
  stamp : BitVec 24 := 0
  waiting : List Waiting := []
  /-- Root entries (R206): as last written, and as in effect since the last TSYNC of the whole ASID. -/
  roots : Store (BitVec 64) := []
  rootsUsed : Store (BitVec 64) := []
  streams : Store Stream := []
  pinBudget : Nat := 0
  evictBase : Nat := 0
  /-- Withheld regions of each core (R391). -/
  withheld : Store W := []
  /-- Journal base and index (R399), FAILOVER, held completions, pending-kick bitmap. -/
  jbase : Nat := 0
  jidx : Nat := 0
  failover : Bool := false
  held : List (Option Sig) := []
  kicks : List Nat := []
  copies : Store CopyJob := []
  deriving DecidableEq, Repr

/-! ### System -/

/-- An attestation report (R416): the digest and SVN of the running image, FEATOFF, the committed FEATACC, DIEMAP, the
nonce, and the signature. -/
structure Report where
  digest : BitVec 512
  svn : BitVec 64
  off : BitVec 128
  acc : BitVec 128
  diemap : BitVec 24
  nonce : BitVec 256
  sig : List Byte
  deriving DecidableEq, Repr

/-- An entry of the MSI-X table (R410): address, data, and whether the vector is masked. -/
structure Vec where
  addr : BitVec 64 := 0
  data : W := 0
  masked : Bool := true
  deriving DecidableEq, Repr

/-- A register of BAR0 as a read names it (R410, R411): one that can be written too, or one that can only be read. -/
inductive RReg where
  | reg (r : Reg)
  | bootstat
  | featOff (i : Nat)
  | featStat
  | aperr
  | attStat
  | attRep (i : Nat)
  | attCert (i : Nat)
  | dieMap
  | tqFree (die : Nat)
  | cqFree (die : Nat)
  | queueDesc (q word : Nat)
  | objEntry (die idx word : Nat)
  | rbtok (die : Nat)
  | fqw (r : RingId)
  | fqr (r : RingId)
  | fqLost (r : RingId)
  | corr (die : Nat)
  | uncorr (die : Nat)
  deriving DecidableEq, Repr

/-- Management, feature, boot and attestation registers (R410 to R416). -/
structure Sys where
  bootstat : Nat := 0
  /-- The bits the device offers and has accepted (R412). -/
  featOff : BitVec 128 := 0
  featAcc : BitVec 128 := 0
  featStat : Nat := 0
  committed : BitVec 128 := 0
  apasid : Byte := 0
  apbase : BitVec 64 := 0
  aperr : W := 0
  /-- BAR4: the 2,048 vectors that have been written, and those whose bit is pending. -/
  msix : Store Vec := []
  msixPend : List Nat := []
  /-- What the last read of BAR0 gave; none where it was an unsupported request (R411). -/
  barRead : Option W := none
  attNonce : BitVec 256 := 0
  attStat : Nat := 0
  /-- The nonce of the report that is being made. -/
  attBusy : Option (BitVec 256) := none
  attRep : Option Report := none
  attCert : List Byte := []
  keyDigest : BitVec 512 := 0
  minSvn : BitVec 64 := 0
  /-- The running image: its SHAKE256 digest and SVN. -/
  image : Option (BitVec 512 × BitVec 64) := none
  deriving DecidableEq, Repr

/-- A hart of a control core (R398): registers, pc, the word it is parked on, and a pending interrupt. -/
structure Hart where
  x : Vector (BitVec 64) 32 := Vector.replicate 32 0
  pc : BitVec 64 := 0
  parked : Option (Nat × Zw) := none
  irq : Bool := false
  trap : Option (Nat × BitVec 64) := none
  deriving DecidableEq, Repr

/-- A router of one of the two meshes (R256): whether it is powered, the core cycle in which its idle count last began, and
the one in which it began to wake, while it does. -/
structure Router where
  up : Bool := true
  since : Nat := 0
  waking : Option Nat := none
  deriving DecidableEq, Repr

/-- An MSI or MSI-X write that has left (R397, R401, R412): address and data, with the mode. -/
structure Msi where
  addr : BitVec 64
  data : W
  mode : Nat
  deriving DecidableEq, Repr

/-- Device time (R15), in quarter nanoseconds, with the discipline sources: whether each has locked once, the
source in lock, and by how many quarter nanoseconds the source is ahead of device time. -/
structure Time where
  now : Nat := 0
  lockedOnce : List TimeSrc := []
  source : Option TimeSrc := none
  target : Option Int := none
  deriving DecidableEq, Repr

/-- What can happen: an instruction or step of the opcode table, or something that the spec describes and the table has no
row for. -/
inductive Event where
  | op (i : Instr)
  /-- The exit bridge or port on its way accepts a line of a store or atomic (R237). -/
  | bridgeAccept (core acc line : Nat)
  /-- A 16-byte piece of a message's payload is read (R264, R267). -/
  | payloadRead (msg piece : Nat)
  /-- A hart of a control core stores bytes at an HBM physical address (R224), and the store is performed. -/
  | hartStore (hart addr : Nat) (data : List Byte)
  | storeDone (n hart addr : Nat) (data : List Byte)
  /-- A hart executes a RISC-V FENCE (R249), and its earlier stores have been performed. -/
  | hartFence (hart : Nat)
  | hartFenceDone (hart : Nat)
  /-- A hart writes the submission window of its die's translation queue, or of the crew queue, and its doorbell (R220,
  R404). -/
  | window (hart : Nat) (crew : Bool) (off : Nat) (data : List Byte)
  | doorbell (hart : Nat) (crew : Bool) (v : W)
  /-- An access to BAR0 that an address and a width give, to a register (R411). -/
  | barAccess (addr width : Nat) (r : RReg) (wr : Option W)
  /-- The host writes entry `v` of the MSI-X table (R410). -/
  | msixWrite (v : Nat) (x : Vec)
  /-- The device kernel closes a block (R333). -/
  | closeForced (die blk : Nat)
  /-- A policy core writes its TCM, and an uncorrectable error arises in it or is read (R13, R399). -/
  | tcmWrite (core off : Nat) (data : List Byte)
  | tcmError (core off : Nat)
  | tcmRead (core off : Nat)
  /-- A retry of a block's release arrives at the finaliser (R340, R342). -/
  | retryArrives (die blk : Nat)
  /-- An INDIRECT whose packets have completed completes (R383, R399). -/
  | indirectEnd (q num : Nat)
  /-- A launch of a stream that waited for the one before leaves (R392). -/
  | streamGo (id : Nat)
  deriving DecidableEq, Repr

/-- The state of the module. -/
structure State where
  clock : Nat := 0
  time : Time := {}
  /-- Model: issue opportunities (core, slot) left in this cycle. -/
  todo : List (Nat × Nat) := []
  /-- Model: counts steps; the index of free values and choices. -/
  tick : Nat := 0
  /-- Model: external events that act before the next issue. -/
  inputs : List Event := []
  /-- Stores of harts that have not been performed (R224), and fences of harts that wait for such (R249). -/
  flight : List Event := []
  /-- Model: for a place where events of one cycle have an order, the rank of the last one that has acted in this cycle. -/
  turns : Store Nat := []
  /-- Model: the core and context that is issuing, and the word fetched for it. -/
  cur : Option (Nat × Nat) := none
  ir : W := 0
  /-- Memory: tile SRAM, HBM, host and pod memory, in rising order of keys, no entry being 0. -/
  mem : List Host.Cell := []
  /-- Protected words marked uncorrectable (R193), in rising order. -/
  bad : List Nat := []
  /-- The memory-side caches (R215): by die × 16,384 + set, the lines held, most recently used first: the physical line
  number, and whether it waits to be written back. Their data are those of `mem`: no other copy can be written. -/
  msc : Store (List (Nat × Bool)) := []
  cores : Store Core := []
  dies : Store Die := []
  barriers : Store Barrier := []
  barCmds : Store BarCmd := []
  /-- Counts held by die bridges and Ethernet ports, by unit, core, context, path and scope (R237). -/
  bridges : Store Nat := []
  msgs : Store Msg := []
  pkts : Store Pkt := []
  replies : Store Reply := []
  fins : Store FinCmd := []
  /-- Model: the next number for a message, packet, reply or command. -/
  nextId : Nat := 0
  fe : FrontEnd := {}
  sys : Sys := {}
  harts : Store Hart := []
  /-- Model: the hart that executes the next hart instruction. -/
  curHart : Nat := 0
  routers : Store Router := []
  /-- Routers that a packet on its way will send a wake signal (R256). -/
  wakes : List Nat := []
  /-- Model: interrupt writes sent. -/
  msis : List Msi := []
  /-- The last host aperture read (R410). -/
  apRead : List Byte := []
  deriving DecidableEq, Repr

/-- The machine right after reset: every field at its default. -/
def State.reset : State := {}

end Sys2Proof.Machine
end

