-- ==== Sys2Proof/Machine/Memory.lean ====
section
/-! DEFINITION. Sys2Proof/Machine/Memory.lean: the memory of the module: one canonical list of bytes over the address
spaces (R181, R207, R210), little-endian access (R1), and the marks of uncorrectable words (R193). -/

namespace Sys2Proof.Machine

/-! ### Keys: one number for each byte of the module's memories and of the memories it reaches -/

/-- The key of a byte of tile SRAM, by its global address (R181). -/
def sramKey (a : Nat) : Nat := a
/-- The key of a byte of HBM, by its physical address (R207). -/
def hbmKey (a : Nat) : Nat := 2 ^ 64 + a
/-- The key of a byte of host memory, by its host-link bus address (R210). -/
def hostKey (a : Nat) : Nat := 2 ^ 65 + a
/-- The key of a byte of the memory of module `m` of the pod (R210). -/
def podKey (m a : Nat) : Nat := (3 + m) * 2 ^ 64 + a

/-! ### The canonical list -/

/-- What a byte that nothing has written reads as (log 2). -/
def emptyByte : Byte := 0

/-- The byte at key `k`. -/
def memRead : List Host.Cell → Nat → Byte
  | [], _ => emptyByte
  | (a, b) :: r, k => if a = k then b else if k < a then emptyByte else memRead r k

/-- The list with byte `b` at key `k`. -/
def memWrite : List Host.Cell → Nat → Byte → List Host.Cell
  | [], k, b => if b = emptyByte then [] else [(k, b)]
  | (a, x) :: r, k, b =>
    if k < a then (if b = emptyByte then (a, x) :: r else (k, b) :: (a, x) :: r)
    else if a = k then (if b = emptyByte then r else (k, b) :: r)
    else (a, x) :: memWrite r k b

/-- The keys rise strictly from above `lo`, and no byte is the one an unlisted key reads as. -/
def memWfFrom : Nat → List Host.Cell → Bool
  | _, [] => true
  | lo, (a, b) :: r => lo ≤ a && b != emptyByte && memWfFrom (a + 1) r

/-- The canonical form of memory. -/
def Memory.wf (m : List Host.Cell) : Bool := memWfFrom 0 m

/-- The bytes at keys `k` to `k + n - 1`. -/
def readBytes (m : List Host.Cell) (k n : Nat) : List Byte := (List.range n).map fun i => memRead m (k + i)

/-- The list with bytes written from key `k` on. -/
def writeBytes (m : List Host.Cell) (k : Nat) : List Byte → List Host.Cell
  | [] => m
  | b :: r => writeBytes (memWrite m k b) (k + 1) r

/-! ### Little-endian values (R1) -/

/-- The number that bytes hold, lowest first. -/
def leNat : List Byte → Nat
  | [] => 0
  | b :: r => b.toNat + 256 * leNat r

/-- The lowest `n` bytes of a number. -/
def leBytes : Nat → Nat → List Byte
  | 0, _ => []
  | n + 1, x => BitVec.ofNat 8 x :: leBytes n (x / 256)

/-- The `n`-byte value at key `k`. -/
def State.load (s : State) (k n : Nat) : Nat := leNat (readBytes s.mem k n)

/-- The state with the `n`-byte value `x` at key `k`. -/
def State.store (s : State) (k n x : Nat) : State := { s with mem := writeBytes s.mem k (leBytes n x) }

/-- The state with bytes at key `k`. -/
def State.storeBytes (s : State) (k : Nat) (bs : List Byte) : State := { s with mem := writeBytes s.mem k bs }

/-! ### Uncorrectable words (R193) -/

/-- The size of a protected word: 16 bytes in tile SRAM, 128 elsewhere. -/
def protSize (k : Nat) : Nat := if k < 2 ^ 64 then 16 else 128

/-- The first key of the protected word that holds key `k`. -/
def protWord (k : Nat) : Nat := k - k % protSize k

/-- Insert into a rising list without repeats. -/
def insNat (k : Nat) : List Nat → List Nat
  | [] => [k]
  | a :: r => if k < a then k :: a :: r else if a = k then a :: r else a :: insNat k r

/-- Some byte of keys `k` to `k + n - 1` lies in a word marked uncorrectable. -/
def State.isBad (s : State) (k n : Nat) : Bool :=
  s.bad.any fun w => k < w + protSize w && w < k + n

/-- Mark every protected word that the `n` bytes at `k` meet. -/
def State.markBad (s : State) (k n : Nat) : State :=
  { s with bad := (List.range n).foldl (fun l i => insNat (protWord (k + i)) l) s.bad }

/-- Clear the marks of the protected words that a write of `n` bytes at `k` covers whole. -/
def State.clearBad (s : State) (k n : Nat) : State :=
  { s with bad := s.bad.filter fun w => !(k ≤ w && w + protSize w ≤ k + n) }

/-! ### The memory-side caches (R215) -/

/-- The set of a die's cache after an access to a line: the line is most recently used, allocated where `alloc` holds, and
dirty after a write; beyond 16 ways the one used least recently is written back and leaves. -/
def mscTouch (set : List (Nat × Bool)) (line : Nat) (alloc write : Bool) : List (Nat × Bool) :=
  match set.find? fun e => e.1 == line with
  | some e => (line, e.2 || write) :: set.filter fun e => e.1 != line
  | none => if alloc then ((line, write) :: set).take 16 else set

/-- The caches after an access to the line of key `k`: if it lies in HBM, it passes through that of its die. -/
def mscLine (m : Store (List (Nat × Bool))) (k : Nat) (alloc write : Bool) : Store (List (Nat × Bool)) :=
  if k < 2 ^ 64 || 2 ^ 65 ≤ k then m
  else
    let line := (k - 2 ^ 64) / 128
    let set := (k - 2 ^ 64) / 2 ^ 39 * 16384 + line % 16384
    sput m set (mscTouch (sgetD m set []) line alloc write)

/-- The place of the line of a key in `State.turns` (R216). -/
def lineSpot (k : Nat) : Nat := 16 * (k / 128) + 9

/-- The turns of a cycle once the line of key `k` has been read: if it lies in HBM, no store or atomic to it is performed in this
cycle any more (R216). -/
def noteRead (t : Store Nat) (k : Nat) : Store Nat := if k < 2 ^ 64 || 2 ^ 65 ≤ k then t else sput t (lineSpot k) 1

/-- An access to the line of key `k`. -/
def State.touch (s : State) (k : Nat) (alloc write : Bool) : State :=
  { s with msc := mscLine s.msc k alloc write, turns := if write then s.turns else noteRead s.turns k }

/-- The number of lines that `n` bytes at `k` meet. -/
def linesOf (k n : Nat) : Nat := if n = 0 then 0 else (k + n - 1) / 128 - k / 128 + 1

/-- The lines of `n` bytes at `k` are read, or written, by an agent that allocates them. -/
def State.touchAll (s : State) (k n : Nat) (write : Bool) : State :=
  { s with msc := (List.range (linesOf k n)).foldl (fun m i => mscLine m (k + 128 * i) true write) s.msc
           turns := if write then s.turns else (List.range (linesOf k n)).foldl (fun t i => noteRead t (k + 128 * i)) s.turns }

/-- A write of bytes by one line or one engine: it clears the marks of the words it covers whole (R193), and passes through
the memory-side cache (R215). -/
def State.put (s : State) (k : Nat) (bs : List Byte) : State :=
  ((s.storeBytes k bs).clearBad k bs.length).touchAll k bs.length true

/-- A write of bytes into a save area: it passes through the memory-side cache, and is none of the writes that change the
marks of uncorrectable words (R193). -/
def State.putArea (s : State) (k : Nat) (bs : List Byte) : State := (s.storeBytes k bs).touchAll k bs.length true

end Sys2Proof.Machine
end

