-- ==== Sys2Proof/Machine/Ops.lean ====
section
/-! DEFINITION. Sys2Proof/Machine/Ops.lean: the named operations over the state: cores, gangs, register banks, the
forwarding window, fault records and taking a fault, and the end of a run. -/

namespace Sys2Proof.Machine

/-! ### Cores, dies, gangs, crews -/

/-- Core `c` of the module. -/
def State.core (s : State) (c : Nat) : Core := sgetD s.cores c {}
def State.setCore (s : State) (c : Nat) (k : Core) : State := { s with cores := sput s.cores c k }
def State.modCore (s : State) (c : Nat) (f : Core → Core) : State := s.setCore c (f (s.core c))

/-- Die `d` of the module. -/
def State.die (s : State) (d : Nat) : Die := sgetD s.dies d {}
def State.setDie (s : State) (d : Nat) (x : Die) : State := { s with dies := sput s.dies d x }
def State.modDie (s : State) (d : Nat) (f : Die → Die) : State := s.setDie d (f (s.die d))

/-- The die of a core (R7). -/
def dieOf (c : Nat) : Nat := c / 64
/-- The global id of a core (R7). -/
def gidOf (c : Nat) : BitVec 16 := BitVec.ofNat 16 (c * 16)
/-- The core that a global id names; its low four bits are reserved. -/
def coreOf (gid : Nat) : Nat := gid / 16
/-- The other core of a matrix pair: R6 makes pairs of cores 0 and 1, and of cores 2 and 3, of each quad, which is two pairs
in a quad and 32 in a die. R12 speaks of 8 pairs of two cores that the 16 quads form; R6 is followed (DESIGN CHOICE,
log 55). -/
def pairMate (c : Nat) : Nat := if c % 2 = 0 then c + 1 else c - 1

/-- The gang in context `x` of core `c`; context 64 is the plaza context. -/
def State.gang? (s : State) (c x : Nat) : Option Gang := sget (s.core c).gangs x
def State.gang (s : State) (c x : Nat) : Gang := sgetD (s.core c).gangs x {}
def State.setGang (s : State) (c x : Nat) (g : Gang) : State :=
  s.modCore c fun k => { k with gangs := sput k.gangs x g }
/-- The state with the gang in a context, where there is one, changed. -/
def State.modGang (s : State) (c x : Nat) (f : Gang → Gang) : State :=
  match s.gang? c x with
  | some g => s.setGang c x (f g)
  | none => s

/-- Whether a context is the plaza context. -/
def isPlaza (x : Nat) : Bool := x == 64
/-- The crew slot of a context (R64). -/
def crewSlot (x : Nat) : Nat := x / 16
/-- The crew in slot `q` of core `c`. -/
def State.crew? (s : State) (c q : Nat) : Option Crew := sget (s.core c).crews q
def State.crew (s : State) (c q : Nat) : Crew :=
  sgetD (s.core c).crews q { launch := 0, asid := 0, prio := 0, pin := 0, sram := 0, gangs := 0 }
def State.setCrew (s : State) (c q : Nat) (w : Crew) : State :=
  s.modCore c fun k => { k with crews := sput k.crews q w }
def State.modCrew (s : State) (c q : Nat) (f : Crew → Crew) : State :=
  match s.crew? c q with
  | some w => s.setCrew c q (f w)
  | none => s

/-- The launch (slot and stamp) that a context works for (R119). The plaza context works for none: where an instruction that R279
allows it looks for a launch, as `mprobe` does (R266), it is launch 0 (DESIGN CHOICE, log 75). -/
def State.launchOf (s : State) (c x : Nat) : BitVec 32 := if isPlaza x then 0 else (s.crew c (crewSlot x)).launch

/-- An entry of a die's object table (R270). -/
def State.objEntry (s : State) (obj : W) : BitVec 128 := sgetD (s.die ((obj.toNat / 4096) % 32)).objs (obj.toNat % 4096) 0

/-- The address space of a context: its crew's, or the ASID that the object of the wave named when the wave started
(R206, R270, R271). -/
def State.asidOf (s : State) (c x : Nat) : Byte :=
  if isPlaza x then
    match (s.gang c x).wave with
    | some w => w.asid
    | none => 0
  else (s.crew c (crewSlot x)).asid

/-- GID of a context (R119). -/
def gidReg (x : Nat) : Byte := if isPlaza x then 0x40 else BitVec.ofNat 8 x

/-- Nothing halts a gang or holds it back as a whole. -/
def State.gangFree (s : State) (c x : Nat) (g : Gang) : Bool :=
  g.live != 0 && !g.ended && g.halt.isNone && g.pf.isNone && g.look.isNone &&
    (if isPlaza x then (match g.wave with
      | some w => !w.ending
      | none => false)
    else (s.crew c (crewSlot x)).saving.isNone)

/-! ### Stages and features (R412 to R414) -/

/-- The device is in full function. -/
def State.full (s : State) : Bool := s.sys.bootstat == 2 || s.sys.bootstat == 4
/-- Feature `n` is present: accepted, and not left out by the reduced service. -/
def State.feature (s : State) (n : Nat) : Bool := s.full && bit s.sys.committed n
/-- A die is in service. -/
def State.dieUp (s : State) (d : Nat) : Bool := if s.full then (s.die d).ok else d == 0

/-! ### Lanes and slices -/

/-- The lanes of a slice mask. -/
def lanesOf (m : BitVec 8) : W := maskOf 32 fun l => bit m (l / 4)

/-- The active lanes of the issuing group (R73). -/
def Gang.lanes (g : Gang) : W := maskOf 32 fun l => bit (g.active &&& g.live) (l / 4) && bit g.kuse l

/-- The active lanes in ascending order. -/
def activeList (m : W) : List Nat := (List.range 32).filter fun l => bit m l

/-- The lowest slice of a mask. -/
def lowSlice (m : BitVec 8) : Nat := ((List.range 8).find? fun i => bit m i).getD 0

/-- The PC of the issuing group. -/
def Gang.pc (g : Gang) : PC := vget g.pcs (lowSlice g.active) 0

/-- The group of the issuing slices. -/
def Gang.group (g : Gang) : Group := (g.groups.find? fun q => q.slices == g.active).getD { slices := g.active }

/-- The gang with the issuing group changed. -/
def Gang.modGroup (g : Gang) (f : Group → Group) : Gang :=
  { g with groups := g.groups.map fun q => if q.slices == g.active then f q else q }

/-- The park condition of the issuing group. -/
def Gang.park (g : Gang) : Option (ParkKind × Byte) := g.group.park

/-- The index that a park of kind `k` of the issuing group holds. -/
def Gang.parkArg (g : Gang) (k : ParkKind) : Option Byte :=
  match g.park with
  | some (j, a) => if j = k then some a else none
  | none => none

/-- Set every slice of a mask to a PC. -/
def Gang.setPcs (g : Gang) (m : BitVec 8) (p : PC) : Gang :=
  { g with pcs := Vector.ofFn fun i : Fin 8 => if bit m i.val then p else g.pcs[i] }

/-! ### Full and empty registers (R101, R103, R110) -/

/-- The binding of a list that covers register v`n`. -/
def bindOf (bs : List Bind) (n : Nat) : Option Bind := bs.find? fun b => b.first ≤ n && n < b.first + b.count

/-- The binding of a gang that covers register v`n`. -/
def Gang.bind? (g : Gang) (n : Nat) : Option Bind := bindOf g.binds n

/-- The storage of a share id of a context's crew. -/
def State.share (s : State) (c x id : Nat) : Share :=
  sgetD (s.crew c (crewSlot x)).shares id { regs := [], bound := 0 }

/-- Register v`n` of a gang that may be bound to share storage. -/
def State.vreg (s : State) (c x n : Nat) : VReg :=
  let g := s.gang c x
  match g.bind? n with
  | some b => ((s.share c x b.id).regs[n - b.first]?).getD {}
  | none => vget g.v n {}

/-- Register v`n` as a read of this cycle sees it: reads come before the writes of the cycle, which for a shared register
another gang may make (R104). -/
def State.vread (s : State) (c x n : Nat) : VReg :=
  match (s.gang c x).bind? n with
  | some b => (sget (s.share c x b.id).before (n - b.first)).getD (s.vreg c x n)
  | none => s.vreg c x n

/-- The place of a gang's own register, by operand code, in `Core.fresh`. -/
def ownCode (x code : Nat) : Nat := x * 128 + code
/-- The place of a shared register of crew slot `q` in `Core.fresh`. -/
def shareCode (q id place : Nat) : Nat := 2 ^ 20 + (q * 64 + id) * 64 + place

/-- The place of the register that an operand code names for a gang. -/
def State.placeOf (s : State) (c x code : Nat) : Nat :=
  match if code < 64 then (s.gang c x).bind? code else none with
  | some b => shareCode (crewSlot x) b.id (code - b.first)
  | none => ownCode x code

/-- The producer of the register that an operand code names has completed in this cycle (R104). -/
def State.justDone (s : State) (c x code : Nat) : Bool := (s.core c).fresh.contains (s.placeOf c x code)

/-- Whether register v`n` is a shared register (R110, R112). -/
def State.isShared (s : State) (c x n : Nat) : Bool := ((s.gang c x).bind? n).isSome

/-- The share id and place of the shared register that v`n` of a gang names. -/
def Gang.shared? (g : Gang) (n : Nat) : Option (Nat × Nat) := (g.bind? n).map fun b => (b.id, n - b.first)

/-- The cycle since which a gang has waited for register v`n` in this way; a gang that does not waits from now on. -/
def Gang.waitsSince (g : Gang) (kind : ParkKind) (n now : Nat) : Nat :=
  if g.park = some (kind, BitVec.ofNat 8 n) then g.group.since else now

/-- Another gang of the crew has waited longer, in this way, for the shared register that v`n` names, or as long with a
lower index (R112). -/
def State.behind (s : State) (c x : Nat) (kind : ParkKind) (n : Nat) : Bool :=
  let g := s.gang c x
  match g.shared? n with
  | none => false
  | some r =>
    let t := g.waitsSince kind n s.clock
    (s.core c).gangs.any fun p =>
      p.1 != x && crewSlot p.1 == crewSlot x && p.2.halt.isNone && p.2.groups.any fun q =>
        match q.park with
        | some (k, a) =>
          k == kind && p.2.shared? a.toNat == some r && (q.since < t || (q.since == t && p.1 < x))
        | none => false

/-- Storage with the register at a place written by an instruction; reads of this cycle go on seeing what stood there. -/
def Share.write (h : Share) (p : Nat) (r : VReg) : Share :=
  { h with regs := h.regs.set p r
           before := if (sget h.before p).isNone then sput h.before p ((h.regs[p]?).getD {}) else h.before }

/-- Register v`n` of a gang written by an instruction. -/
def State.setVreg (s : State) (c x n : Nat) (r : VReg) : State :=
  match (s.gang c x).bind? n with
  | some b => s.modCrew c (crewSlot x) fun w =>
      { w with shares := smod w.shares b.id fun h => h.write (n - b.first) r }
  | none => s.modGang c x fun g => { g with v := vput g.v n r }

/-- Storage with the register at a place taken (R113). Reads of this cycle that follow see it empty; a write that this cycle has
made already comes behind the take, and stays (R104). -/
def Share.take (h : Share) (p : Nat) : Share :=
  match sget h.before p with
  | some r => { h with before := sput h.before p { r with fe := .empty } }
  | none => { h with regs := h.regs.set p { (h.regs[p]?).getD {} with fe := .empty } }

/-- Register v`n` of a gang taken (R113). -/
def State.takeV (s : State) (c x n : Nat) : State :=
  match (s.gang c x).bind? n with
  | some b => s.modCrew c (crewSlot x) fun w => { w with shares := smod w.shares b.id fun h => h.take (n - b.first) }
  | none => s.setVreg c x n { s.vreg c x n with fe := .empty }

/-- Uniform register `i`: s0 reads 0 and is always full (R96). -/
def Gang.sreg (g : Gang) (i : Nat) : SReg := if i = 0 then {} else vget g.s i {}
/-- Write a uniform register: s0 discards writes (R96). -/
def Gang.setSreg (g : Gang) (i : Nat) (r : SReg) : Gang := if i = 0 then g else { g with s := vput g.s i r }
/-- Affine register `i`. -/
def Gang.areg (g : Gang) (i : Nat) : AReg := vget g.a i {}
def Gang.setAreg (g : Gang) (i : Nat) (r : AReg) : Gang := { g with a := vput g.a i r }
/-- Mask register `i`: k0 reads all ones (R96). -/
def Gang.kreg (g : Gang) (i : Nat) : W := if i = 0 then 0xffffffff else vget g.k i 0
/-- Write a mask register: a write to k0 is discarded (R40 row 10). -/
def Gang.setKreg (g : Gang) (i : Nat) (m : W) : Gang := if i = 0 then g else { g with k := vput g.k i m }

/-- Raise flags of GSTAT; they are only ever set (R126). -/
def Gang.raise (g : Gang) (f : BitVec 14) : Gang := { g with gstat := g.gstat ||| f }

/-- A register as the result of merging the active lanes of `x` into `r` (R99). -/
def mergeLanes (m : W) (x old : Lanes) : Lanes := Lanes.of fun l => if bit m l then x.lane l else old.lane l

/-- Write the active lanes of a varying register with a tag, full (R99, R103). -/
def State.writeV (s : State) (c x n : Nat) (m : W) (val : Lanes) (tag : Byte) : State :=
  let r := s.vreg c x n
  s.setVreg c x n { r with val := mergeLanes m val r.val, tag := tag, fe := .full }

/-- Write a uniform register, full. -/
def State.writeS (s : State) (c x i : Nat) (w : W) : State :=
  s.modGang c x fun g => g.setSreg i { g.sreg i with val := w, fe := .full }

/-- Write an affine register, full. -/
def State.writeA (s : State) (c x i : Nat) (b st : W) : State :=
  s.modGang c x fun g => g.setAreg i { g.areg i with base := b, stride := st, fe := .full }

/-- Write a mask register. -/
def State.writeK (s : State) (c x i : Nat) (m : W) : State := s.modGang c x fun g => g.setKreg i m

/-! ### Pending bank writes of the window (R71) -/

/-- The bank that a window value goes to, with its place there: varying 0, uniform 1, affine 2, mask 3. -/
def Val.bank : Val → Nat
  | .v _ _ => 0
  | .s _ => 1
  | .a _ _ => 2
  | .k _ => 3

/-- The entry's bank write to this register is pending. -/
def WinEntry.pends (e : WinEntry) (bank dest : Nat) : Bool :=
  match e.old with
  | some o => o.bank == bank && e.dest.toNat == dest
  | none => false

/-- What the bank holds beneath a pending write to a register, if one pends in this window. -/
def underIn (l : List WinEntry) (bank dest : Nat) : Option Val := (l.find? fun e => e.pends bank dest).bind (·.old)

/-- The window once no write to this register is pending any more. -/
def commitIn (l : List WinEntry) (bank dest : Nat) : List WinEntry :=
  l.map fun e => if e.pends bank dest then { e with old := none } else e

/-- The window with a new entry, whose own bank write may be pending. The write of an older entry to the same register is
then never made, so the bank keeps what it held beneath that one. The entry that leaves the window is banked (R71). -/
def pushIn (l : List WinEntry) (e : WinEntry) : List WinEntry :=
  match e.old with
  | none => (e :: l).take 8
  | some o =>
    let e := { e with old := some ((underIn l o.bank e.dest.toNat).getD o) }
    (e :: commitIn l o.bank e.dest.toNat).take 8

/-- What the bank of a register holds in a list of such contents. -/
def bankIn (l : List (Nat × Nat × Val)) (bank dest : Nat) : Option Val :=
  (l.find? fun p => p.1 == bank && p.2.1 == dest).map (·.2.2)

/-- A list of bank contents without that of a register. -/
def dropBank (l : List (Nat × Nat × Val)) (bank dest : Nat) : List (Nat × Nat × Val) :=
  l.filter fun p => !(p.1 == bank && p.2.1 == dest)

/-- What the bank of a gang holds beneath a pending or omitted write to a register, if there is one. -/
def Gang.under (g : Gang) (bank dest : Nat) : Option Val := (underIn g.window bank dest).or (bankIn g.unbanked bank dest)

/-- The value that a register shows stands in its bank. -/
def Gang.commit (g : Gang) (bank dest : Nat) : Gang :=
  { g with window := commitIn g.window bank dest, unbanked := dropBank g.unbanked bank dest }

/-- The pending bank write of a register is omitted: the bank keeps what it holds (R71). -/
def Gang.omitWrite (g : Gang) (bank dest : Nat) : Gang :=
  match underIn g.window bank dest with
  | none => g
  | some o =>
    { g with window := commitIn g.window bank dest, unbanked := (bank, dest, o) :: dropBank g.unbanked bank dest }

/-- An entry that enters the window, above what the bank holds of its register. -/
def Gang.winEntry (g : Gang) (e : WinEntry) : WinEntry :=
  { e with old := e.old.map fun o => (bankIn g.unbanked o.bank e.dest.toNat).getD o }

/-- A new entry enters the window. -/
def Gang.pushWin (g : Gang) (e : WinEntry) : Gang :=
  { g with window := pushIn g.window (g.winEntry e)
           unbanked := match e.old with
             | some o => dropBank g.unbanked o.bank e.dest.toNat
             | none => g.unbanked }

/-- Mark a uniform register empty with a producer outstanding (R102). A pending write to its bank is omitted (R71), and the
register keeps the bits that were written (R101, R72). -/
def State.emptyS (s : State) (c x i : Nat) : State :=
  s.modGang c x fun g => (g.omitWrite 1 (64 + i)).setSreg i { g.sreg i with fe := .empty, busy := true }

/-- Mark `n` varying registers from `v` empty with a producer outstanding. -/
def State.emptyV (s : State) (c x v : Nat) : Nat → State
  | 0 => s
  | n + 1 =>
    let t := s.emptyV c x v n
    (t.setVreg c x (v + n) { t.vreg c x (v + n) with fe := .empty, busy := true }).modGang c x fun g => g.omitWrite 0 (v + n)

/-! ### Stopping an instruction (R42, R62, R79) -/

/-- What stops an instruction before it has its effect: a fault code with the fields of its record (R402), or a
park (R62). -/
inductive Stop where
  | fault (code : Byte) (cause : Byte) (info : W) (aux : PC) (flags : Byte)
  | park (k : ParkKind) (arg : Byte)
  deriving DecidableEq, Repr

/-! Fault codes (R403). -/
def eIll : Byte := 0x01
def eEmpty : Byte := 0x02
def ePoison : Byte := 0x03
def eUwp : Byte := 0x04
def eFmt : Byte := 0x05
def eTmp : Byte := 0x06
def eRstk : Byte := 0x07
def eBnd : Byte := 0x08
def ePerm : Byte := 0x09
def ePffatal : Byte := 0x0a
def eBstr : Byte := 0x0b
def eRole : Byte := 0x0c
def eRec : Byte := 0x0d
def eKv : Byte := 0x0e
def eSlot : Byte := 0x0f
def eTrap : Byte := 0x10
def eBrk : Byte := 0x11
def eAlign : Byte := 0x12
def eMsgovf : Byte := 0x13
def eRes : Byte := 0x14

/-- A fault whose record carries no INFO. -/
def Stop.code (c : Byte) : Stop := .fault c 0 0 0 0
/-- A fault whose record carries an operand code or another INFO word. -/
def Stop.info (c : Byte) (i : W) : Stop := .fault c 0 i 0 0

/-- E_RES over the value of a uniform operand: its record carries the operand's code (R402; log 24). -/
def Stop.res (i : BitVec 5) : Stop := .info eRes (BitVec.ofNat 32 (64 + i.toNat))

/-- Pass a check or stop. -/
def need (b : Bool) (e : Stop) : Except Stop Unit := if b then .ok () else .error e

/-! ### Fault records and rings (R401, R402, R219) -/

/-- The bytes of a record. -/
def recBytes (r : Rec) : List Byte :=
  [r.code, r.b1, r.b2, r.gang] ++ leBytes 4 r.info.toNat ++ leBytes 6 r.pc.toNat ++ [r.asid, r.b15]
    ++ leBytes 6 r.aux.toNat ++ leBytes 2 r.core.toNat ++ leBytes 4 r.seq.toNat ++ [0, 0, 0, 0]

/-- Word 0 of a record (R405). -/
def recWord0 (r : Rec) : W := r.gang ++ r.b2 ++ r.b1 ++ r.code

/-- The fault ring of a crew place, or of a die's plaza. -/
def State.ring (s : State) : RingId → Ring
  | .place c q => vget (s.core c).rings q {}
  | .plaza d => (s.die d).pring

def State.setRing (s : State) (i : RingId) (r : Ring) : State :=
  match i with
  | .place c q => s.modCore c fun k => { k with rings := vput k.rings q r }
  | .plaza d => s.modDie d fun x => { x with pring := r }

/-- The ring of the records of a context. -/
def ringOf (c x : Nat) : RingId := if isPlaza x then .plaza (dieOf c) else .place c (crewSlot x)

/-- 64 records are unread, or the base is not set (R401). -/
def Ring.isFull (r : Ring) : Bool := r.base.isNone || 64 ≤ (r.fqw - r.fqr).toNat

/-- Send an interrupt write (R397, R401, R412): in mode 1 it makes an interrupt of a hart pending. -/
def State.sendMsi (s : State) (m : Msi) : State :=
  let s := { s with msis := s.msis ++ [m] }
  let h := Config.msiHart m.addr % 96
  if m.mode = 1 then { s with harts := sput s.harts h { sgetD s.harts h {} with irq := true } } else s

/-- The three steps of posting a record into a ring with room (R401). -/
def State.postNow (s : State) (i : RingId) (rc : Rec) : State :=
  let r := s.ring i
  let k := hbmKey (r.base.getD 0 + 32 * (r.fqw.toNat % 64))
  ((s.put k (recBytes rc)).setRing i { r with fqw := r.fqw + 1 }).sendMsi { addr := r.msiAddr, data := r.msiData, mode := 1 }

/-- Post a record, or let it wait for a place (R401). -/
def State.post (s : State) (i : RingId) (rc : Rec) : State :=
  let r := s.ring i
  if r.isFull || !r.waiting.isEmpty then s.setRing i { r with waiting := r.waiting ++ [rc] } else s.postNow i rc

/-- Post waiting records while there is room, at most `n` of them. -/
def State.drainRing (s : State) (i : RingId) : Nat → State
  | 0 => s
  | n + 1 =>
    let r := s.ring i
    match r.waiting with
    | [] => s
    | rc :: rest => if r.isFull then s else ((s.setRing i { r with waiting := rest }).postNow i rc).drainRing i n

/-- The next record number of a core, and the state that has used it (R219). -/
def State.takeSeq (s : State) (c : Nat) : W × State :=
  let q := (s.core c).seq
  (q, s.modCore c fun k => { k with seq := if q = 0xfffffffe then 0 else q + 1 })

/-! ### Issue slots -/

/-- Free the issue slot that holds context `x` (R60). -/
def State.freeSlot (s : State) (c x : Nat) : State :=
  s.modCore c fun k => { k with slots := Vector.ofFn fun i : Fin 4 => if k.slots[i] = some x then none else k.slots[i] }

/-- The issue slot that a context holds. -/
def State.slotOf (s : State) (c x : Nat) : Nat :=
  ((List.range 4).find? fun i => vget (s.core c).slots i none == some x).getD 0

/-- A group that waits for something from now on, unless it waits for it already. -/
def Group.wait (q : Group) (kind : ParkKind) (arg : Byte) (now : Nat) : Group :=
  if q.park = some (kind, arg) then q else { q with park := some (kind, arg), since := now }

/-- A group that keeps the word it has decoded (R42). -/
def Group.hold (q : Group) (w : W) : Group := if q.held.isSome then q else { q with held := some w }

/-- Park the issuing group with the word that it issues; the slot is freed and the run count stays (R42, R62, R67). -/
def State.park (s : State) (c x : Nat) (kind : ParkKind) (arg : Byte) : State :=
  (s.modGang c x fun g => g.modGroup fun q => (q.wait kind arg s.clock).hold s.ir).freeSlot c x

/-- Set WMOD, and WMODPC where WMOD was 0 (R41). -/
def Gang.setWmod (g : Gang) : Gang :=
  { g with gstat := g.gstat ||| 1, wmodpc := if bit g.gstat 0 then g.wmodpc else g.pc }

/-! ### Taking a fault (R79, R402; in the plaza context R283) -/

/-- The record of a fault of context `x` of core `c` at the issuing group's PC. -/
def State.faultRec (s : State) (c x : Nat) (code cause : Byte) (info : W) (aux : PC) (flags : Byte) (seq : W) : Rec :=
  let g := s.gang c x
  { code := code, b1 := cause, b2 := flags ||| (if isPlaza x then 1 else 0), gang := gidReg x, info := info,
    pc := g.pc, asid := s.asidOf c x, b15 := g.active, aux := aux, core := gidOf c, seq := seq }

/-- The wave in the plaza context of core `c` fails: its recorded replies are discarded and it waits as R282 does
(R283). -/
def State.failWave (s : State) (c : Nat) : State :=
  (s.modGang c 64 fun g =>
    { g with look := none, pf := none,
             wave := g.wave.map fun w => { w with replies := [], ending := true, failed := true } }).freeSlot c 64

/-- An access that a parked `brld`, `cbld` or `prm` awaits. -/
def Access.awaited (a : Access) : Bool :=
  match a.dst with
  | .buf _ | .cb _ | .prm _ => true
  | _ => false

/-- Drop the pool requests of a context, returning what has been granted and not taken up (R107). -/
def Core.dropPool (k : Core) (x : Nat) : Core :=
  let mine := k.poolQ.filter fun r => r.ctx == x && r.ans == some true
  { k with poolQ := k.poolQ.filter fun r => r.ctx != x, poolFree := k.poolFree + (mine.map (·.blocks)).foldl (· + ·) 0 }

/-- Drop what the instruction of a context at `pc` waits for: pool requests, and a record load whose data have
returned. -/
def Core.dropWaits (k : Core) (x : Nat) (pc : PC) : Core :=
  { k.dropPool x with accs := k.accs.filter fun p => !(p.2.ctx == x && p.2.pc == pc && p.2.awaited) }

/-- Drop the answer that the instruction of a context at `pc` faults on: of a barrier table, a finaliser, or a KV
engine. -/
def State.dropAnswers (s : State) (c x : Nat) (pc : PC) : State :=
  let s := s.modCore c fun k => { k with kvQ := k.kvQ.filter fun m => !(m.ctx == x && m.pc == pc && m.ans.isSome) }
  { s with barCmds := s.barCmds.filter fun p => !(p.2.core == c && p.2.ctx == x && p.2.ans.isSome)
           fins := s.fins.filter fun p => !(p.2.core == c && p.2.ctx == x && p.2.pc == pc && p.2.place == 4) }

/-- Take a fault: the record is posted, and the gang parks halted at the faulting instruction, or its wave fails.
Nothing else changes but the record number; what the instruction waited for is dropped. -/
def State.takeFault (s : State) (c x : Nat) (code cause : Byte) (info : W) (aux : PC) (flags : Byte) : State :=
  let (seq, s) := s.takeSeq c
  let rc := s.faultRec c x code cause info aux flags seq
  let s := (s.post (ringOf c x) rc).modCore c fun k => k.dropWaits x (s.gang c x).pc
  let s := s.dropAnswers c x (s.gang c x).pc
  if isPlaza x then s.failWave c
  else (s.modGang c x fun g => { g.modGroup (fun q => { q with held := none }) with halt := some rc }).freeSlot c x

/-- Return from a fault, at the PC (R79, R87): the run continues, and the faulting instruction issues again, or the
next one after a `trap` or `brk`. -/
def Gang.resume (g : Gang) : Gang :=
  match g.halt with
  | none => g
  | some rc =>
    let g := { g with halt := none }
    if rc.code = eTrap || rc.code = eBrk then g.setPcs g.active (g.pc + 4) else g

/-- Return from a fault, at a handler (R79, R405): word 0 of the record in s31, full, and a new run of the faulting
group at the handler. The pending bank writes are made first: the registers hold them. The `.share` bindings that a
refused one has held up stay due, and are tried again before the handler's first instruction; the spec does not say whether
they are (DESIGN CHOICE, log 49). -/
def Gang.handler (g : Gang) (pc : PC) : Gang :=
  match g.halt with
  | none => g
  | some rc =>
    let g := ((g.commit 1 95).setSreg 31 { g.sreg 31 with val := recWord0 rc, fe := .full }).modGroup fun q =>
      { q with park := none, held := none, trailer := {}, inRound := false }
    { (g.setPcs g.active pc) with halt := none, window := [], runCnt := 0, run := g.active }

/-! ### Retiring an instruction -/

/-- What an instruction that has had its effect leaves to retire: the state, its window result (R70), its
destination code and W, what its register held before, where its bank write is pending (R71), and whether it ends its run
with a trailer (R66). `size` is the length by which the PC of the issuing slices advances, 0 where the instruction has set
the PCs itself. -/
structure Done where
  s : State
  val : Option Val := none
  dest : Byte := 0x7f
  w : Bool := false
  old : Option Val := none
  size : Nat := 4
  ends : Option Trailer := none
  /-- The instruction has begun its effect and now parks (R62): it is not retired. -/
  parks : Option (ParkKind × Byte) := none
  /-- What follows once it has retired. -/
  post : State → State := id

/-- Whether the gang holds one group only. -/
def Gang.whole (g : Gang) : Bool := g.active == g.live

/-- The run of the issuing group ends with a trailer (R68, R71). -/
def State.endRun (s : State) (c x : Nat) (t : Trailer) : State :=
  (s.modGang c x fun g =>
    { (g.modGroup fun q => { q with trailer := t }) with window := [], runCnt := 0, run := 0 }).freeSlot c x

/-- Retire an instruction (R67, R69): it enters the window, the run count rises, the PC advances, and the group is
no longer parked. -/
def State.retire (c x : Nat) (d : Done) : State :=
  let s := d.s.modGang c x fun g =>
    let g := g.modGroup fun q => { q with park := none, held := none }
    let g := if d.size = 0 then g else g.setPcs g.active (g.pc + BitVec.ofNat 48 d.size)
    { g.pushWin { val := d.val, dest := d.dest, w := d.w, old := d.old } with
             runCnt := g.runCnt + 1, age := 0, aged := false, issued := true,
             wave := g.wave.map fun w => { w with issued := w.issued + 1 } }
  d.post (match d.ends with
    | some t => s.endRun c x t
    | none => s)

end Sys2Proof.Machine
end

