-- ==== Sys2Proof/Machine/Operands.lean ====
section
/-! DEFINITION. Sys2Proof/Machine/Operands.lean: the checks of an instruction at issue in the order of R42, the operand
forms of R27 to R30 and R97, and the write of a destination. -/

namespace Sys2Proof.Machine

/-- The context that issues, or the end of the model (`Fault.noIssuer`). -/
def State.issuer (s : State) : Option (Nat × Nat) :=
  match s.cur with
  | some (c, x) => if (s.gang? c x).isSome then some (c, x) else none
  | none => none

/-! ### Operand values (R97, R29) -/

/-- The 32 lanes of a source: a uniform value broadcast, an affine one materialised (R97). -/
def Val.lanes : Val → Lanes
  | .v x _ => x
  | .s w => Lanes.splat w
  | .a b st => Lanes.of fun l => b + st * BitVec.ofNat 32 l
  | .k _ => Lanes.splat 0

/-- The value of a uniform source. -/
def Val.u : Val → W
  | .s w => w
  | _ => 0

/-- Base and stride of an affine source; a uniform one has stride 0. -/
def Val.aff : Val → W × W
  | .a b st => (b, st)
  | .s w => (w, 0)
  | _ => (0, 0)

/-- FMT of a tag (R140). -/
def fmtOf (t : Byte) : Nat := t.toNat % 16

/-- R144, R97: a varying source has an accepted format; the others carry no tag and pass. -/
def tagOk (fmts : List Nat) : Val → Bool
  | .v _ t => fmts.contains (fmtOf t)
  | _ => true

/-- Whether the type of a value is one that a source field accepts (R29). -/
def typeOk (cls : SrcCls) : Val → Bool
  | .v _ _ => cls == .any || cls == .vt
  | .s _ => cls == .any || cls == .u || cls == .atu
  | .a _ _ => cls == .any || cls == .at || cls == .atu
  | .k _ => false

/-! ### Reading sources (R103, R112, R69) -/

/-- A source: its class, operand code (R27), and block bit. -/
structure Src where
  cls : SrcCls
  code : Nat
  blk : Bool
  deriving DecidableEq, Repr

/-- The park or fault of a read of an empty register that can or cannot still fill (R28, R103). -/
def emptyStop (code : Nat) (blk canFill : Bool) : Stop :=
  if blk && canFill then .park .read (BitVec.ofNat 8 code) else .info eEmpty (BitVec.ofNat 32 code)

/-- The outcome of a read of a register in a state. -/
def readFe (fe : Fe) (code : Nat) (blk canFill : Bool) (v : Val) : Except Stop Val :=
  match fe with
  | .full => .ok v
  | .poisoned cz => .error (.fault ePoison (cz.setWidth 8) (BitVec.ofNat 32 code) 0 0)
  | .empty => .error (emptyStop code blk canFill)

/-- Read one source (step 4 of R42). A read that may wait lets those that waited longer for a shared register go first
(R112). -/
def readSrc (s : State) (c x : Nat) (q : Src) : Except Stop Val :=
  let g := s.gang c x
  if q.code < 64 then
    let r := s.vread c x q.code
    if q.blk && r.fe == .full && s.behind c x .read q.code then .error (.park .read (BitVec.ofNat 8 q.code))
    else readFe r.fe q.code q.blk (r.busy || s.isShared c x q.code) (.v r.val r.tag)
  else if q.code < 96 then
    let r := g.sreg (q.code - 64)
    readFe r.fe q.code q.blk r.busy (.s r.val)
  else if q.code < 112 then
    let r := g.areg (q.code - 96)
    readFe r.fe q.code q.blk r.busy (.a r.base r.stride)
  else
    match (g.window[q.code - 112]?).bind (·.val) with
    | some v => if typeOk q.cls v then .ok v else .error (.info eTmp (BitVec.ofNat 32 q.code))
    | none => .error (.info eTmp (BitVec.ofNat 32 q.code))

/-- Read the sources in order; the first that stops decides (R42). -/
def readSrcs (s : State) (c x : Nat) : List Src → Except Stop (List Val)
  | [] => .ok []
  | q :: r => do
    let v ← readSrc s c x q
    let vs ← readSrcs s c x r
    pure (v :: vs)

/-! ### Destinations (R103, R112) -/

/-- A group parked to write a register whose producer completes in this cycle writes in the next one (R104). -/
def State.lateWriter (s : State) (c x code : Nat) : Bool :=
  (s.gang c x).parkArg .write == some (BitVec.ofNat 8 code) && s.justDone c x code

/-- The write of a register must wait: a producer is outstanding or has completed in this cycle, or a shared register is
not empty. -/
def mustWait (s : State) (c x : Nat) (code : Nat) : Bool :=
  s.lateWriter c x code ||
  if code < 64 then
    let r := s.vreg c x code
    r.busy || (s.isShared c x code && r.fe != .empty) || s.behind c x .write code
  else if code < 96 then ((s.gang c x).sreg (code - 64)).busy
  else ((s.gang c x).areg (code - 96)).busy

/-- The first destination that must wait parks the group. -/
def waitDests (s : State) (c x : Nat) : List Nat → Except Stop Unit
  | [] => .ok ()
  | d :: r => if mustWait s c x d then .error (.park .write (BitVec.ofNat 8 d)) else waitDests s c x r

/-! ### The order of checks (R42) -/

/-- What steps 1 to 4 of R42 need of an instruction. `names` are the runs of varying registers it names, in the field
order A, B, X, D; `wide` holds for those that R100 and R78 limit to a whole gang; `dests` are the operand codes of the
registers it writes. -/
structure Form where
  legal : Bool
  fb : Bool
  names : List (Nat × Nat) := []
  wide : Bool := false
  srcs : List Src := []
  dests : List Nat := []

/-- Step 2 of R42: a varying register outside the allotment, or a run that passes v63, raises E_RES. -/
def namesOk (valloc : Nat) : List (Nat × Nat) → Except Stop Unit
  | [] => .ok ()
  | (n, k) :: r => if n + k ≤ valloc then namesOk valloc r else .error (.info eRes (BitVec.ofNat 32 n))

/-- Steps 2 to 4 of R42, and the wait of R103 for destinations. -/
def Form.check (fm : Form) (s : State) (c x : Nat) : Except Stop (List Val) := do
  let g := s.gang c x
  namesOk g.valloc fm.names
  need (!fm.wide || g.whole) (.code eUwp)
  let vs ← readSrcs s c x fm.srcs
  waitDests s c x fm.dests
  pure vs

/-- The state after the fallbacks of R40 have set WMOD; a group that re-enters a parked instruction does not decode
again (R42). -/
def noteFallback (s : State) (c x : Nat) (fb : Bool) : State :=
  if fb && (s.gang c x).group.held.isNone then s.modGang c x Gang.setWmod else s

/-- The outcome of an instruction whose checks and effect gave `r`. -/
def settle (s : State) (c x : Nat) (r : Except Stop Done) : State :=
  match r with
  | .ok d =>
    match d.parks with
    | some (k, a) => d.s.park c x k a
    | none => State.retire c x d
  | .error (.park k a) => s.park c x k a
  | .error (.fault code cause info aux flags) => s.takeFault c x code cause info aux flags

/-- Issue an instruction: the checks of R42 in order, then its own effect. -/
def issue (s : State) (fm : Form) (body : State → Nat → Nat → List Val → Except Stop Done) :
    Host.Outcome State Fault Refusal :=
  match s.issuer with
  | none => .fault .noIssuer
  | some (c, x) =>
    if fm.legal then
      let s := noteFallback s c x fm.fb
      .next (settle s c x (do
        let vs ← fm.check s c x
        body s c x vs))
    else .next (s.takeFault c x eIll 0 s.ir 0 0)

/-! ### Forms of the formats -/

/-- The source of a T3 field, where the field is read as an operand. -/
def t3Src (cls : SrcCls) (code : BitVec 7) (blk : BitVec 1) : List Src :=
  match cls with
  | .any | .u | .at | .atu | .vt => [{ cls := cls, code := code.toNat, blk := blk == 1 }]
  | _ => []

/-- The varying register that an operand field names. -/
def vName (cls : SrcCls) (code : BitVec 7) : List (Nat × Nat) :=
  match cls with
  | .any | .vt => if code.toNat < 64 then [(code.toNat, 1)] else []
  | _ => []

/-- The operand code of a T3 destination. -/
def t3Dest (d : DstCls) (f : T3) : List Nat :=
  match d with
  | .v => if f.w = 1 then [] else [f.d.toNat]
  | .k => []
  | .s => if f.d = 0 then [] else [64 + f.d.toNat]
  | .a => [96 + f.d.toNat]

/-- The form of a T3 instruction; `acc` holds where D is also read (R125): it always blocks, and is not read when
W = 1. -/
def t3Form (d : DstCls) (a b : SrcCls) (f : T3) (acc : Bool := false) : Form :=
  { legal := t3Legal d a b f, fb := t3Fallback d a b f,
    names := vName a f.a ++ vName b f.b ++ (if d == .v && f.w == 0 then [(f.d.toNat, 1)] else []),
    wide := d == .s || d == .a,
    srcs := t3Src a f.a f.ba ++ t3Src b f.b f.bb ++
      (if acc && f.w == 0 then [{ cls := .vt, code := f.d.toNat, blk := true }] else []),
    dests := t3Dest d f }

/-- The T3 word that a 16-bit instruction behaves as (R25): VS 0 to 23 names a varying register, which blocks, and 24
to 31 a t. -/
def narrow (f : H) (binary : Bool) : T3 :=
  let vs : BitVec 7 := if f.vs.toNat < 24 then f.vs.setWidth 7 else BitVec.ofNat 7 (112 + (f.vs.toNat - 24))
  let blk : BitVec 1 := if f.vs.toNat < 24 then 1 else 0
  if binary then { d := f.vd, w := 0, a := f.vd.setWidth 7, ba := 1, b := vs, bb := blk }
  else { d := f.vd, w := 0, a := vs, ba := blk, b := 0, bb := 0 }

/-- A uniform source of an EX, SR or BR field. -/
def uSrc (i : BitVec 5) (blk : Bool) : Src := { cls := .u, code := 64 + i.toNat, blk := blk }

/-- The destination code of a uniform register; s0 never waits. -/
def sDest (i : BitVec 5) : List Nat := if i = 0 then [] else [64 + i.toNat]

/-- The source of an EX field. -/
def exSrc (cls : ExCls) (i : BitVec 5) (blk : BitVec 1) : List Src :=
  match cls with
  | .read => [uSrc i (blk == 1)]
  | .vread => [{ cls := .vt, code := i.toNat, blk := blk == 1 }]
  | _ => []

/-- The form of an EX instruction: sources in the field order A, B, D. `wide` is added for those that act on the whole
gang without writing a register (R100). -/
def exForm (d a b : ExCls) (f : EX) (wide : Bool := false) : Form :=
  { legal := exLegal d a b f, fb := exFallback d a b f,
    names := (if a == .vread then [(f.a.toNat, 1)] else []) ++ (if d == .vread || d == .vdest then [(f.d.toNat, 1)] else []),
    wide := wide || d == .dest,
    srcs := exSrc a f.a f.ba ++ exSrc b f.b f.bb ++ exSrc d f.d f.bd,
    dests := if d == .dest then sDest f.d else [] }

/-! ### Results (R30, R70, R99) -/

/-- A varying result of a T3 word: written in the lanes of `m`, or window-only with 0 elsewhere (R30). The bank write is
pending, but for a shared register, whose bank is written at issue (R71). -/
def doneV (s : State) (c x : Nat) (f : T3) (m : W) (val : Lanes) (tag : Byte) : Done :=
  if f.w = 1 then
    { s := s, val := some (.v (mergeLanes m val (Lanes.splat 0)) tag), dest := f.d.setWidth 8, w := true }
  else
    let r := s.vreg c x f.d.toNat
    { s := s.writeV c x f.d.toNat m val tag, dest := f.d.setWidth 8
      val := some (.v (mergeLanes m val r.val) tag)
      old := if s.isShared c x f.d.toNat then none else some (.v r.val r.tag) }

/-- A uniform result; s0 has no bank (R96). -/
def doneS (s : State) (c x : Nat) (i : Nat) (w : W) : Done :=
  { s := s.writeS c x i w, val := some (.s w), dest := BitVec.ofNat 8 (64 + i)
    old := if i = 0 then none else some (.s ((s.gang c x).sreg i).val) }

/-- An affine result. -/
def doneA (s : State) (c x : Nat) (i : Nat) (b st : W) : Done :=
  { s := s.writeA c x i b st, val := some (.a b st), dest := BitVec.ofNat 8 (96 + i)
    old := some (.a ((s.gang c x).areg i).base ((s.gang c x).areg i).stride) }

/-- A mask result: the bits of `m` are written, the others kept; the window holds the register's new contents. A
result for k0 is discarded (R40 row 10), and the window holds the computed bits, with 0 outside `m`. -/
def doneK (s : State) (c x : Nat) (i : Nat) (m res : W) : Done :=
  let new := (res &&& m) ||| ((if i = 0 then 0 else (s.gang c x).kreg i) &&& ~~~m)
  { s := s.writeK c x i new, val := some (.k new), dest := BitVec.ofNat 8 i
    old := if i = 0 then none else some (.k ((s.gang c x).kreg i)) }

/-- Retire with no destination. -/
def done (s : State) : Done := { s := s }

/-- Lanes from a list. -/
def lanesOfList (l : List W) : Lanes := Lanes.of fun i => l.getD i 0

/-- The results of a lane function in the lanes of `m`, with the flags it raises there (R126). -/
def runLanes (m : W) (f : Nat → W × BitVec 14) : Lanes × BitVec 14 :=
  let rs := (List.range 32).map fun l => if bit m l then f l else (0, 0)
  (lanesOfList (rs.map (·.1)), rs.foldl (fun a r => a ||| r.2) 0)

end Sys2Proof.Machine
end

