-- ==== Sys2Proof/Machine/Lanes.lean ====
section
/-! DEFINITION. Sys2Proof/Machine/Lanes.lean: what every lane operation shares (R123 to R126): the tag check, the lane
function in the active lanes, the flags, and the write of D or of a k register. -/

namespace Sys2Proof.Machine

/-! Format codes (R141). -/
def tagRaw : Byte := 0
def tagF32 : Byte := 1
def tagBf : Byte := 2
def tagF16 : Byte := 3

/-- Every format. -/
def fmtAny : List Nat := List.range 16
/-- Every format but the two MXF6 (R165). -/
def fmtNoMx : List Nat := (List.range 16).filter fun k => k != 10 && k != 11
def fmtRaw : List Nat := [0]
def fmtF32 : List Nat := [1]

/-- Step 5 of R42: the sources have accepted tags (R124). -/
def needTags (fmts : List (List Nat)) (vs : List Val) : Except Stop Unit :=
  need ((vs.zip fmts).all fun p => tagOk p.2 p.1) (.code eFmt)

/-- Source `i` of an instruction, as lanes. The accumulator that W = 1 leaves out is zero (R125). -/
def srcLanes (vs : List Val) (i : Nat) : Lanes := (vs[i]?.map Val.lanes).getD (Lanes.splat 0)

/-- The tag that a move gives (R124, R143): the source's, or RAW. -/
def moveTag (vs : List Val) : Byte :=
  match vs with
  | .v _ t :: _ => t
  | _ => tagRaw

/-- Write a varying result and raise its flags. -/
def giveV (s : State) (c x : Nat) (f : T3) (m : W) (r : Lanes × BitVec 14) (tag : Byte) : Done :=
  doneV (s.modGang c x fun g => g.raise r.2) c x f m r.1 tag

/-- Write the active bits of a mask result and raise its flags (R135). -/
def giveK (s : State) (c x : Nat) (f : T3) (m res : W) (fl : BitVec 14) : Done :=
  doneK (s.modGang c x fun g => g.raise fl) c x f.d.toNat m res

/-- An operation of one source per lane. -/
def lane1 (f : T3) (fmt : List Nat) (tag : List Val → Byte) (op : W → W × BitVec 14)
    (s : State) (c x : Nat) (vs : List Val) : Except Stop Done := do
  needTags [fmt] vs
  let a := srcLanes vs 0
  let m := (s.gang c x).lanes
  pure (giveV s c x f m (runLanes m fun l => op (a.lane l)) (tag vs))

/-- An operation of two sources per lane. -/
def lane2 (f : T3) (fmt : List Nat) (tag : List Val → Byte) (op : W → W → W × BitVec 14)
    (s : State) (c x : Nat) (vs : List Val) : Except Stop Done := do
  needTags [fmt, fmt] vs
  let a := srcLanes vs 0; let b := srcLanes vs 1
  let m := (s.gang c x).lanes
  pure (giveV s c x f m (runLanes m fun l => op (a.lane l) (b.lane l)) (tag vs))

/-- An operation of two sources and the accumulator D per lane (R125). -/
def lane3 (f : T3) (fmt fmtD : List Nat) (tag : Byte) (op : W → W → W → W × BitVec 14)
    (s : State) (c x : Nat) (vs : List Val) : Except Stop Done := do
  needTags [fmt, fmt, fmtD] vs
  let a := srcLanes vs 0; let b := srcLanes vs 1; let d := srcLanes vs 2
  let m := (s.gang c x).lanes
  pure (giveV s c x f m (runLanes m fun l => op (a.lane l) (b.lane l) (d.lane l)) tag)

/-- A compare of two sources per lane into a mask (R135). -/
def laneCmp (f : T3) (fmt : List Nat) (op : W → W → Bool × BitVec 14)
    (s : State) (c x : Nat) (vs : List Val) : Except Stop Done := do
  needTags [fmt, fmt] vs
  let a := srcLanes vs 0; let b := srcLanes vs 1
  let m := (s.gang c x).lanes
  let res := maskOf 32 fun l => (op (a.lane l) (b.lane l)).1
  let fl := (activeList m).foldl (fun q l => q ||| (op (a.lane l) (b.lane l)).2) 0
  pure (giveK s c x f m res fl)

/-- A constant tag. -/
def rawTag (_ : List Val) : Byte := tagRaw
def f32Tag (_ : List Val) : Byte := tagF32

/-- Issue of a T3 instruction of two sources with a varying result. -/
def issueV2 (s : State) (f : T3) (fmt : List Nat) (tag : List Val → Byte) (op : W → W → W × BitVec 14) :
    Host.Outcome State Fault Refusal :=
  issue s (t3Form .v .any .any f) (lane2 f fmt tag op)

/-- Issue of a T3 instruction of one source with a varying result. -/
def issueV1 (s : State) (f : T3) (fmt : List Nat) (tag : List Val → Byte) (op : W → W × BitVec 14) :
    Host.Outcome State Fault Refusal :=
  issue s (t3Form .v .any .zero f) (lane1 f fmt tag op)

/-- Issue of a T3 instruction that reads D as its accumulator. -/
def issueV3 (s : State) (f : T3) (fmt fmtD : List Nat) (tag : Byte) (op : W → W → W → W × BitVec 14) :
    Host.Outcome State Fault Refusal :=
  issue s (t3Form .v .any .any f true) (lane3 f fmt fmtD tag op)

/-- Issue of a compare. -/
def issueCmp (s : State) (f : T3) (fmt : List Nat) (op : W → W → Bool × BitVec 14) :
    Host.Outcome State Fault Refusal :=
  issue s (t3Form .k .any .any f) (laneCmp f fmt op)

end Sys2Proof.Machine
end

