-- ==== Sys2Proof/Machine/LaneInt.lean ====
section
/-! DEFINITION. Sys2Proof/Machine/LaneInt.lean: integer, logic and shift instructions of MAJ 00, 01 and 02, and their
16-bit forms (R25, R128, R129). -/

namespace Sys2Proof.Machine

/-! ### Lane functions (R128, R129) -/

def opAdd (a b : W) : W × BitVec 14 := plain (a + b)
def opSub (a b : W) : W × BitVec 14 := plain (a - b)
def opMulLo (a b : W) : W × BitVec 14 := plain (a * b)
def opMulhI (a b : W) : W × BitVec 14 := plain (wrap32 (sgn a * sgn b / 2 ^ 32))
def opMulhN (a b : W) : W × BitVec 14 := plain (BitVec.ofNat 32 (a.toNat * b.toNat / 2 ^ 32))
def opMinI (a b : W) : W × BitVec 14 := plain (minS a b)
def opMaxI (a b : W) : W × BitVec 14 := plain (maxS a b)
def opMinN (a b : W) : W × BitVec 14 := plain (minU a b)
def opMaxN (a b : W) : W × BitVec 14 := plain (maxU a b)
def opAbs (a : W) : W × BitVec 14 := plain (wrap32 (sgn a).natAbs)
def opClz (a : W) : W × BitVec 14 := plain (clz a)
def opPopc (a : W) : W × BitVec 14 := plain (popc a)
def opMad (a b d : W) : W × BitVec 14 := plain (d + a * b)
def opAdds (a b : W) : W × BitVec 14 := sat32 (sgn a + sgn b)
def opSubs (a b : W) : W × BitVec 14 := sat32 (sgn a - sgn b)
def opMov (a : W) : W × BitVec 14 := plain a
def opAnd (a b : W) : W × BitVec 14 := plain (a &&& b)
def opOr (a b : W) : W × BitVec 14 := plain (a ||| b)
def opXor (a b : W) : W × BitVec 14 := plain (a ^^^ b)
def opAndn (a b : W) : W × BitVec 14 := plain (a &&& ~~~b)
def opShl (a b : W) : W × BitVec 14 := plain (a <<< shiftBy b)
def opShr (a b : W) : W × BitVec 14 := plain (a >>> shiftBy b)
def opSra (a b : W) : W × BitVec 14 := plain (a.sshiftRight (shiftBy b))
def opRol (a b : W) : W × BitVec 14 := plain (rol a b)

/-! ### The 16-bit forms (R25): the T3 word that each behaves as, 2 bytes long -/

/-- The same result with the length of a 16-bit instruction. -/
def short (r : Except Stop Done) : Except Stop Done := r.map fun d => { d with size := 2 }

/-- A form that raises E_ILL where `ok` fails. -/
def Form.only (fm : Form) (ok : Bool) : Form := { fm with legal := fm.legal && ok }

def issueH2 (s : State) (f : H) (fmt : List Nat) (tag : List Val → Byte) (op : W → W → W × BitVec 14) :
    Host.Outcome State Fault Refusal :=
  let g := narrow f true
  issue s (t3Form .v .any .any g) fun s c x vs => short (lane2 g fmt tag op s c x vs)

def issueH1 (s : State) (f : H) (fmt : List Nat) (tag : List Val → Byte) (op : W → W × BitVec 14) (ok : Bool := true) :
    Host.Outcome State Fault Refusal :=
  let g := narrow f false
  issue s ((t3Form .v .any .zero g).only ok) fun s c x vs => short (lane1 g fmt tag op s c x vs)

/-- `vmov` in 16 bits; the halfword 0x0000 raises E_ILL (R26). -/
def execVmov16 (f : H) (s : State) : Host.Outcome State Fault Refusal :=
  issueH1 s f fmtAny moveTag opMov (f.vd != 0 || f.vs != 0)
def execVaddI3216 (f : H) (s : State) : Host.Outcome State Fault Refusal := issueH2 s f fmtRaw rawTag opAdd
def execVsubI3216 (f : H) (s : State) : Host.Outcome State Fault Refusal := issueH2 s f fmtRaw rawTag opSub
def execVand16 (f : H) (s : State) : Host.Outcome State Fault Refusal := issueH2 s f fmtAny rawTag opAnd
def execVor16 (f : H) (s : State) : Host.Outcome State Fault Refusal := issueH2 s f fmtAny rawTag opOr
def execVxor16 (f : H) (s : State) : Host.Outcome State Fault Refusal := issueH2 s f fmtAny rawTag opXor
def execVshl16 (f : H) (s : State) : Host.Outcome State Fault Refusal := issueH2 s f fmtAny rawTag opShl
def execVshr16 (f : H) (s : State) : Host.Outcome State Fault Refusal := issueH2 s f fmtAny rawTag opShr
def execVmaxI3216 (f : H) (s : State) : Host.Outcome State Fault Refusal := issueH2 s f fmtRaw rawTag opMaxI
def execVminI3216 (f : H) (s : State) : Host.Outcome State Fault Refusal := issueH2 s f fmtRaw rawTag opMinI

/-! ### MAJ 00 and 01 (R128) -/

def execVaddI32 (f : T3) (s : State) : Host.Outcome State Fault Refusal := issueV2 s f fmtRaw rawTag opAdd
def execVsubI32 (f : T3) (s : State) : Host.Outcome State Fault Refusal := issueV2 s f fmtRaw rawTag opSub
def execVmulLo (f : T3) (s : State) : Host.Outcome State Fault Refusal := issueV2 s f fmtRaw rawTag opMulLo
def execVmulhI32 (f : T3) (s : State) : Host.Outcome State Fault Refusal := issueV2 s f fmtRaw rawTag opMulhI
def execVmulhN32 (f : T3) (s : State) : Host.Outcome State Fault Refusal := issueV2 s f fmtRaw rawTag opMulhN
def execVminI32 (f : T3) (s : State) : Host.Outcome State Fault Refusal := issueV2 s f fmtRaw rawTag opMinI
def execVmaxI32 (f : T3) (s : State) : Host.Outcome State Fault Refusal := issueV2 s f fmtRaw rawTag opMaxI
def execVminN32 (f : T3) (s : State) : Host.Outcome State Fault Refusal := issueV2 s f fmtRaw rawTag opMinN
def execVmaxN32 (f : T3) (s : State) : Host.Outcome State Fault Refusal := issueV2 s f fmtRaw rawTag opMaxN
def execVabsI32 (f : T3) (s : State) : Host.Outcome State Fault Refusal := issueV1 s f fmtRaw rawTag opAbs
def execVclz (f : T3) (s : State) : Host.Outcome State Fault Refusal := issueV1 s f fmtRaw rawTag opClz
def execVpopc (f : T3) (s : State) : Host.Outcome State Fault Refusal := issueV1 s f fmtRaw rawTag opPopc
def execVmadLo (f : T3) (s : State) : Host.Outcome State Fault Refusal := issueV3 s f fmtRaw fmtRaw tagRaw opMad
def execVaddsI32 (f : T3) (s : State) : Host.Outcome State Fault Refusal := issueV2 s f fmtRaw rawTag opAdds
def execVsubsI32 (f : T3) (s : State) : Host.Outcome State Fault Refusal := issueV2 s f fmtRaw rawTag opSubs
def execVmov (f : T3) (s : State) : Host.Outcome State Fault Refusal := issueV1 s f fmtAny moveTag opMov

/-! ### MAJ 02 (R129) -/

def execVand (f : T3) (s : State) : Host.Outcome State Fault Refusal := issueV2 s f fmtAny rawTag opAnd
def execVor (f : T3) (s : State) : Host.Outcome State Fault Refusal := issueV2 s f fmtAny rawTag opOr
def execVxor (f : T3) (s : State) : Host.Outcome State Fault Refusal := issueV2 s f fmtAny rawTag opXor
def execVandn (f : T3) (s : State) : Host.Outcome State Fault Refusal := issueV2 s f fmtAny rawTag opAndn
def execVshl (f : T3) (s : State) : Host.Outcome State Fault Refusal := issueV2 s f fmtAny rawTag opShl
def execVshr (f : T3) (s : State) : Host.Outcome State Fault Refusal := issueV2 s f fmtAny rawTag opShr
def execVsra (f : T3) (s : State) : Host.Outcome State Fault Refusal := issueV2 s f fmtAny rawTag opSra
def execVrol (f : T3) (s : State) : Host.Outcome State Fault Refusal := issueV2 s f fmtAny rawTag opRol

end Sys2Proof.Machine
end

