-- ==== Sys2Proof/Machine/LaneFp.lean ====
section
/-! DEFINITION. Sys2Proof/Machine/LaneFp.lean: FP32 arithmetic (R130, R131), fused and packed half-width arithmetic (R132
to R134), compares (R135) and integer dot products (R136). RMODE is read at issue. -/

namespace Sys2Proof.Machine

/-- The rounding mode of a gang (R119). -/
def Gang.rnd (g : Gang) : Rnd := Rnd.ofBits g.rmode

/-- The rounding mode of the issuing gang. -/
def State.rnd (s : State) : Rnd :=
  match s.cur with
  | some (c, x) => (s.gang c x).rnd
  | none => .ne

def opFadd (rm : Rnd) (a b : W) : W × BitVec 14 := w32 (fp32.add rm a.toNat b.toNat)
def opFsub (rm : Rnd) (a b : W) : W × BitVec 14 := w32 (fp32.sub rm a.toNat b.toNat)
def opFmul (rm : Rnd) (a b : W) : W × BitVec 14 := w32 (fp32.mul rm a.toNat b.toNat)
/-- `vfabs` clears bit 31, `vfneg` inverts it, `vfcpys` takes B's (R130). -/
def opFabs (a : W) : W × BitVec 14 := plain (a &&& 0x7fffffff)
def opFneg (a : W) : W × BitVec 14 := plain (a ^^^ 0x80000000)
def opFcpys (a b : W) : W × BitVec 14 := plain ((a &&& 0x7fffffff) ||| (b &&& 0x80000000))
/-- ±(A × B) ± D (R132). -/
def opFma (rm : Rnd) (negP negD : Bool) (a b d : W) : W × BitVec 14 :=
  w32 (fp32.fma rm negP negD a.toNat b.toNat d.toNat)

/-- Half `j` of a word. -/
def half (w : W) (j : Nat) : Nat := (w.toNat / 2 ^ (16 * j)) % 2 ^ 16

/-- The two elements of `vhfma` (R133). -/
def opHfma (f : Fmt) (rm : Rnd) (a b d : W) : W × BitVec 14 :=
  let lo := f.fma rm false false (half a 0) (half b 0) (half d 0)
  let hi := f.fma rm false false (half a 1) (half b 1) (half d 1)
  (BitVec.ofNat 32 (lo.1 + 2 ^ 16 * hi.1), lo.2 ||| hi.2)

/-- D + A.0 × B.0 + A.1 × B.1, exact, rounded once (R134). -/
def opDot2 (f : Fmt) (rm : Rnd) (a b d : W) : W × BitVec 14 :=
  let (p0, bad0) := (f.dec (half a 0)).mul (f.dec (half b 0))
  let (p1, bad1) := (f.dec (half a 1)).mul (f.dec (half b 1))
  let z := f32Dec d
  let (r, fl) := fp32.sum rm [z, p0, p1]
  w32 (r, fl ||| sigFlag [z] ||| flagIf (bad0 || bad1) fInv)

/-! ### 16-bit forms -/

def execVfadd16 (f : H) (s : State) : Host.Outcome State Fault Refusal := issueH2 s f fmtF32 f32Tag (opFadd s.rnd)
def execVfsub16 (f : H) (s : State) : Host.Outcome State Fault Refusal := issueH2 s f fmtF32 f32Tag (opFsub s.rnd)
def execVfmul16 (f : H) (s : State) : Host.Outcome State Fault Refusal := issueH2 s f fmtF32 f32Tag (opFmul s.rnd)
def execVfmax16 (f : H) (s : State) : Host.Outcome State Fault Refusal := issueH2 s f fmtF32 f32Tag (f32Pick true)
def execVfmin16 (f : H) (s : State) : Host.Outcome State Fault Refusal := issueH2 s f fmtF32 f32Tag (f32Pick false)

/-! ### MAJ 03 (R130, R131) -/

def execVfadd (f : T3) (s : State) : Host.Outcome State Fault Refusal := issueV2 s f fmtF32 f32Tag (opFadd s.rnd)
def execVfsub (f : T3) (s : State) : Host.Outcome State Fault Refusal := issueV2 s f fmtF32 f32Tag (opFsub s.rnd)
def execVfmul (f : T3) (s : State) : Host.Outcome State Fault Refusal := issueV2 s f fmtF32 f32Tag (opFmul s.rnd)
def execVfmin (f : T3) (s : State) : Host.Outcome State Fault Refusal := issueV2 s f fmtF32 f32Tag (f32Pick false)
def execVfmax (f : T3) (s : State) : Host.Outcome State Fault Refusal := issueV2 s f fmtF32 f32Tag (f32Pick true)
def execVfabs (f : T3) (s : State) : Host.Outcome State Fault Refusal := issueV1 s f fmtF32 f32Tag opFabs
def execVfneg (f : T3) (s : State) : Host.Outcome State Fault Refusal := issueV1 s f fmtF32 f32Tag opFneg
def execVfcpys (f : T3) (s : State) : Host.Outcome State Fault Refusal := issueV2 s f fmtF32 f32Tag opFcpys

/-! ### MAJ 04 (R132 to R134) -/

def execVfma (f : T3) (s : State) : Host.Outcome State Fault Refusal := issueV3 s f fmtF32 fmtF32 tagF32 (opFma s.rnd false false)
def execVfms (f : T3) (s : State) : Host.Outcome State Fault Refusal := issueV3 s f fmtF32 fmtF32 tagF32 (opFma s.rnd false true)
def execVfnma (f : T3) (s : State) : Host.Outcome State Fault Refusal := issueV3 s f fmtF32 fmtF32 tagF32 (opFma s.rnd true false)
def execVfnms (f : T3) (s : State) : Host.Outcome State Fault Refusal := issueV3 s f fmtF32 fmtF32 tagF32 (opFma s.rnd true true)
def execVhfmaBf16 (f : T3) (s : State) : Host.Outcome State Fault Refusal := issueV3 s f [2] [2] tagBf (opHfma bf16 s.rnd)
def execVhfmaF16 (f : T3) (s : State) : Host.Outcome State Fault Refusal := issueV3 s f [3] [3] tagF16 (opHfma fp16 s.rnd)
def execVdot2Bf16 (f : T3) (s : State) : Host.Outcome State Fault Refusal := issueV3 s f [2] fmtF32 tagF32 (opDot2 bf16 s.rnd)
def execVdot2F16 (f : T3) (s : State) : Host.Outcome State Fault Refusal := issueV3 s f [3] fmtF32 tagF32 (opDot2 fp16 s.rnd)

/-! ### Compares (R135) -/

def cmpI (p : W → W → Bool) (a b : W) : Bool × BitVec 14 := (p a b, 0)

/-- A floating compare: the answer when ordered, the answer when unordered, and whether every NaN is invalid. -/
def cmpF (p : Int → Int → Bool) (unord anyNan : Bool) (a b : W) : Bool × BitVec 14 :=
  let x := f32Dec a; let y := f32Dec b
  let nan := x.isNan || y.isNan
  (if nan then unord else p (f32Val a) (f32Val b), flagIf (x.isSig || y.isSig || (anyNan && nan)) fInv)

def execVcmpEq (f : T3) (s : State) : Host.Outcome State Fault Refusal := issueCmp s f fmtAny (cmpI fun a b => a == b)
def execVcmpNe (f : T3) (s : State) : Host.Outcome State Fault Refusal := issueCmp s f fmtAny (cmpI fun a b => a != b)
def execVcmpLtI32 (f : T3) (s : State) : Host.Outcome State Fault Refusal := issueCmp s f fmtRaw (cmpI ltS)
def execVcmpGeI32 (f : T3) (s : State) : Host.Outcome State Fault Refusal := issueCmp s f fmtRaw (cmpI fun a b => !ltS a b)
def execVcmpLtN32 (f : T3) (s : State) : Host.Outcome State Fault Refusal := issueCmp s f fmtRaw (cmpI ltU)
def execVcmpGeN32 (f : T3) (s : State) : Host.Outcome State Fault Refusal := issueCmp s f fmtRaw (cmpI fun a b => !ltU a b)
def execVcmpTst (f : T3) (s : State) : Host.Outcome State Fault Refusal := issueCmp s f fmtAny (cmpI fun a b => a &&& b != 0)
def execVfcmpEq (f : T3) (s : State) : Host.Outcome State Fault Refusal := issueCmp s f fmtF32 (cmpF (fun a b => a == b) false false)
def execVfcmpNe (f : T3) (s : State) : Host.Outcome State Fault Refusal := issueCmp s f fmtF32 (cmpF (fun a b => a != b) true false)
def execVfcmpLt (f : T3) (s : State) : Host.Outcome State Fault Refusal := issueCmp s f fmtF32 (cmpF (fun a b => a < b) false true)
def execVfcmpLe (f : T3) (s : State) : Host.Outcome State Fault Refusal := issueCmp s f fmtF32 (cmpF (fun a b => a ≤ b) false true)
def execVfcmpGt (f : T3) (s : State) : Host.Outcome State Fault Refusal := issueCmp s f fmtF32 (cmpF (fun a b => a > b) false true)
def execVfcmpGe (f : T3) (s : State) : Host.Outcome State Fault Refusal := issueCmp s f fmtF32 (cmpF (fun a b => a ≥ b) false true)
def execVfcmpUn (f : T3) (s : State) : Host.Outcome State Fault Refusal := issueCmp s f fmtF32 (cmpF (fun _ _ => false) true false)
def execVfcmpOr (f : T3) (s : State) : Host.Outcome State Fault Refusal := issueCmp s f fmtF32 (cmpF (fun _ _ => true) false false)

/-! ### MAJ 0B (R136) -/

/-- The exact total of a signed dot product. -/
def dotTotal (n : Nat) (x y : W → Nat → Int) (d : Int) (a b : W) : Int := d + sumTo n fun j => x a j * y b j

def opDp4s (a b d : W) : W × BitVec 14 := sat32 (dotTotal 4 sbyte sbyte (sgn d) a b)
def opDp4n (a b d : W) : W × BitVec 14 := satn32 (dotTotal 4 ubyte ubyte (uns d) a b)
def opDp4sn (a b d : W) : W × BitVec 14 := sat32 (dotTotal 4 sbyte ubyte (sgn d) a b)
def opDp8s (a b d : W) : W × BitVec 14 := sat32 (dotTotal 8 snib snib (sgn d) a b)
def opDp4sW (a b d : W) : W × BitVec 14 := plain (wrap32 (dotTotal 4 sbyte sbyte (sgn d) a b))

def execVdp4s (f : T3) (s : State) : Host.Outcome State Fault Refusal := issueV3 s f [0, 8] fmtRaw tagRaw opDp4s
def execVdp4n (f : T3) (s : State) : Host.Outcome State Fault Refusal := issueV3 s f [0, 8] fmtRaw tagRaw opDp4n
def execVdp4sn (f : T3) (s : State) : Host.Outcome State Fault Refusal := issueV3 s f [0, 8] fmtRaw tagRaw opDp4sn
def execVdp8s (f : T3) (s : State) : Host.Outcome State Fault Refusal := issueV3 s f [0, 9] fmtRaw tagRaw opDp8s
def execVdp4sW (f : T3) (s : State) : Host.Outcome State Fault Refusal := issueV3 s f [0, 8] fmtRaw tagRaw opDp4sW

end Sys2Proof.Machine
end

