-- ==== Sys2Proof/Machine/Formats.lean ====
section
/-! DEFINITION. Sys2Proof/Machine/Formats.lean: conversion into and out of the narrow formats (R145 to R148, R153 to
R159). -/

namespace Sys2Proof.Machine

/-- A tag or format field that R143 calls malformed. -/
def tagBad (t : Byte) : Bool :=
  bit t 7 || 14 ≤ t.toNat % 16 || (t.toNat / 16 % 8 != 0 && t.toNat % 16 != 7)

/-! ### Integers (R153) -/

/-- An integer rounded to FP32. -/
def intToF32 (rm : Rnd) (x : Int) : W × BitVec 14 :=
  if x = 0 then (0, 0) else w32 (fp32.deliver rm (x < 0) x.natAbs 1 0)

/-- An FP32 word rounded to an integer in the range `lo` to `hi`. -/
def f32ToInt (rm : Rnd) (lo hi : Int) (a : W) : W × BitVec 14 :=
  match f32Dec a with
  | .nan _ => (0, fInv)
  | .inf n => (wrap32 (if n then lo else hi), fInv)
  | .fin n m e =>
    let (p, q) := scaleRat m 1 e
    let (r, inx) := roundRat rm n p q
    let v : Int := if n then -(r : Int) else r
    if hi < v then (wrap32 hi, fInv)
    else if v < lo then (wrap32 lo, fInv)
    else (wrap32 v, flagIf inx fInx)

/-! ### Narrow formats (R156) -/

/-- The rounding of a mode byte: 4 is RNE with error feedback, 5 to 7 are RNE (R154). -/
def modeRnd (mode : Nat) : Rnd :=
  match mode % 8 with
  | 1 => .z
  | 2 => .up
  | 3 => .down
  | _ => .ne

/-- The result for a NaN input; `neg` is its sign. -/
def narrowNan (t : Fmt) (neg : Bool) : Nat × BitVec 14 :=
  match t.kind with
  | .ieee => (t.qnan, 0)
  | .e4m3 => (0x7f, 0)
  | .plain => (t.pack neg t.maxCode, fNvc)

/-- The result for an infinite input. -/
def narrowInf (t : Fmt) (neg : Bool) : Nat × BitVec 14 :=
  match t.kind with
  | .ieee => (t.pack neg t.infCode, 0)
  | .e4m3 => (t.pack neg 0x7f, fOvf)
  | .plain => (t.pack neg t.maxCode, fOvf)

/-- The result for a finite value (−1)^neg × m × 2^e; `sat` is SAT, which BF16 ignores (R40 row 12). -/
def narrowFin (t : Fmt) (rm : Rnd) (sat neg : Bool) (m : Nat) (e : Int) : Nat × BitVec 14 :=
  if m = 0 then (t.pack neg 0, 0)
  else
    let r := t.round rm neg m 1 e
    if r.beyond then
      match t.kind with
      | .plain => (t.pack neg t.maxCode, fSat ||| fInx)
      | .e4m3 =>
        if sat then (t.pack neg t.maxCode, fSat ||| fInx) else (t.pack neg 0x7f, fOvf ||| fInx)
      | .ieee =>
        if sat && t != bf16 then (t.pack neg t.maxCode, fSat ||| fInx)
        else (t.pack neg (if rm.overInf neg then t.infCode else t.maxCode), fOvf ||| fInx)
    else (t.pack neg r.code, flagIf r.inexact fInx ||| flagIf (r.tiny && r.inexact) fUnf)

/-- The exact sum of a finite value and the residual: the value itself where the residual is zero, and +0 where they
cancel (log 15). -/
def addCarry (neg : Bool) (m : Nat) (e : Int) (carry : Fp) : Bool × Nat × Int :=
  if carry.isZero then (neg, m, e)
  else
    let k := min e carry.exp
    let v : Int := (Fp.fin neg m e).at k + carry.at k
    (v < 0, v.natAbs, k)

/-- The residual: e less the value delivered, as FP32 to nearest even, clamped to the largest finite value (R157). -/
def residual (neg : Bool) (m : Nat) (e : Int) (q : Fp) : Fp :=
  match q with
  | .fin qn qm qe =>
    let k := min e qe
    let v : Int := (Fp.fin neg m e).at k - (Fp.fin qn qm qe).at k
    if v = 0 then .fin false 0 0
    else
      let r := fp32.round .ne (v < 0) v.natAbs 1 k
      fp32.dec (fp32.pack (v < 0) (if r.beyond then fp32.maxCode else r.code))
  | _ => .fin false 0 0

/-- One element of R157: code, flags and the residual out. -/
def convElem (t : Fmt) (mode : Nat) (x : W) (carry : Fp) : Nat × BitVec 14 × Fp :=
  let rm := modeRnd mode
  let sat := mode / 64 % 2 = 1
  let fb := mode % 8 = 4
  let zero : Fp := .fin false 0 0
  match f32Dec x with
  | .nan sg =>
    let (q, fl) := narrowNan t (bit x 31)
    (q, fl ||| flagIf sg fInv, zero)
  | .inf n =>
    let (q, fl) := narrowInf t n
    (q, fl, zero)
  | .fin n m e =>
    let (n', m', e') := if fb then addCarry n m e carry else (n, m, e)
    let (q, fl) := narrowFin t rm sat n' m' e'
    (q, fl, if fb then residual n' m' e' (t.dec q) else zero)

/-! ### Codebooks (R149, R159) -/

/-- A codebook entry. -/
def cbEntry (cb : List (BitVec 16)) (i : Nat) : Fp := bf16.dec (cb.getD i 0).toNat

/-- Whether `p` lies nearer to e than `q` does, for entries that are no NaN; infinite entries are farthest. -/
def nearer (e p q : Fp) : Bool :=
  match p, q with
  | .fin _ _ _, .fin _ _ _ =>
    let k := min e.exp (min p.exp q.exp)
    (e.at k - p.at k).natAbs < (e.at k - q.at k).natAbs
  | .fin _ _ _, _ => true
  | _, _ => false

/-- Whether entry `p` is greater than `q`, neither being a NaN. -/
def fpLt (p q : Fp) : Bool :=
  match p, q with
  | .fin _ _ _, .fin _ _ _ => let k := min p.exp q.exp; p.at k < q.at k
  | .inf n, .fin _ _ _ => n
  | .fin _ _ _, .inf n => !n
  | .inf n, .inf m => n && !m
  | _, _ => false

/-- The first code whose entry no later entry beats; NaN entries are never chosen. -/
def chooseEntry (cb : List (BitVec 16)) (better : Fp → Fp → Bool) : Option Nat :=
  (List.range 16).foldl (fun best i =>
    let p := cbEntry cb i
    if p.isNan then best
    else match best with
      | none => some i
      | some j => if better p (cbEntry cb j) then some i else best) none

/-- One element of `vcvq` (R159). -/
def vcvqElem (cb : List (BitVec 16)) (mode : Nat) (x : W) (carry : Fp) : Nat × BitVec 14 × Fp :=
  let fb := mode % 8 = 4
  let zero : Fp := .fin false 0 0
  match f32Dec x with
  | .nan sg => (0, fNvc ||| flagIf sg fInv, zero)
  | .inf n =>
    match chooseEntry cb (fun p q => if n then fpLt p q else fpLt q p) with
    | some i => (i, fOvf, zero)
    | none => (0, fInv, zero)
  | .fin n m e =>
    let (n', m', e') := if fb then addCarry n m e carry else (n, m, e)
    let v : Fp := .fin n' m' e'
    match chooseEntry cb (nearer v) with
    | none => (0, fInv, zero)
    | some i =>
      let q := cbEntry cb i
      let k := min e' q.exp
      let same : Bool := match q with
        | .fin _ _ _ => v.at k == q.at k
        | _ => false
      (i, flagIf (!same) fInx, if fb then residual n' m' e' q else zero)

/-! ### Unpacking (R147, R158) -/

/-- The MXF6 element formats. -/
def mxElemFmt (f : Nat) : Fmt := if f = 10 then e3m2 else e2m3

/-- A register as one number, lane 0 lowest (R147). -/
def laneBits (x : Lanes) : Nat := (List.range 32).foldr (fun l acc => (x.lane l).toNat + 2 ^ 32 * acc) 0

/-- Element `e` of the 25-byte block in the low 200 bits of `b` as an exact value; a NaN where the scale is 0xff
(R146). -/
def mxElem (f : Nat) (b e : Nat) : Fp :=
  let sc : Nat := b / 2 ^ 192 % 256
  if sc = 255 then .nan false
  else
    match (mxElemFmt f).dec (b / 2 ^ (6 * e) % 64) with
    | .fin n m k => .fin n m (k + (sc : Int) - 127)
    | v => v

/-- An exact value as FP32: a NaN canonical; a value of 2^128 or more infinite with FOVF and FINX (R158). -/
def widen (v : Fp) : W × BitVec 14 := w32 (fp32.give .ne v)

/-- Element count of a lane, or of the register for MXF6 (R141). -/
def elemCount (f : Nat) : Nat :=
  match f with
  | 2 | 3 => 2
  | 4 | 5 | 8 | 13 => 4
  | 6 | 7 | 9 | 12 => 8
  | 10 | 11 => 5
  | _ => 0

/-- Element `j` of format `f` of a lane's word; `cb` decodes CB4 codes. -/
def unpackLane (f : Nat) (cb : List (BitVec 16)) (w : W) (j : Nat) : W × BitVec 14 :=
  let el (n : Nat) : Nat := w.toNat / 2 ^ (n * j) % 2 ^ n
  match f with
  | 2 => widen (bf16.dec (el 16))
  | 3 => widen (fp16.dec (el 16))
  | 4 => widen (e4m3.dec (el 8))
  | 5 => widen (e5m2.dec (el 8))
  | 6 => widen (e2m1.dec (el 4))
  -- a BF16 entry is the upper half of the FP32 word
  | 7 => widen (cbEntry cb (el 4))
  | 8 => (wrap32 (sbyte w j), 0)
  | 9 | 12 => (wrap32 (snib w j), 0)
  | _ => (BitVec.ofNat 32 (el 8), 0)

end Sys2Proof.Machine
end

