-- ==== Sys2Proof/Machine/SaveArea.lean ====
section
/-! DEFINITION. Sys2Proof/Machine/SaveArea.lean: the save area of a crew (R408, R409), byte by byte, and the registers
of a saved gang, which completions reach in memory (R104). -/

namespace Sys2Proof.Machine

/-! ### Layout -/

/-- The key of the entry of gang `g` in the area at physical address `base`. -/
def gangKey (base g : Nat) : Nat := hbmKey (base + 0x3000 * g)
/-- The key of the crew part. -/
def crewKey (base : Nat) : Nat := hbmKey (base + 0x30000)

/-- A STATE byte. -/
def feByte (fe : Fe) (busy : Bool) : Byte :=
  (match fe with
    | .full => 0
    | .empty => 1
    | .poisoned c => 2 + 4 * c.setWidth 8) + (if busy then 16 else 0)

/-- The state that a STATE byte holds. -/
def byteFe (b : Byte) : Fe :=
  match b.toNat % 4 with
  | 0 => .full
  | 1 => .empty
  | _ => .poisoned (b.extractLsb' 2 2)

/-- The codes of the park kinds (R408). -/
def parkCode : ParkKind → Byte
  | .read => 1
  | .write => 2
  | .engine => 3
  | .pageFault => 4
  | .barrier => 5
  | .node => 6
  | .regang => 8
  | .fence => 9
  | .verdict => 10

def codePark (b : Byte) : Option ParkKind :=
  match b.toNat with
  | 1 => some .read
  | 2 => some .write
  | 3 => some .engine
  | 4 => some .pageFault
  | 5 => some .barrier
  | 6 => some .node
  | 8 => some .regang
  | 9 => some .fence
  | 10 => some .verdict
  | _ => none

/-! ### Trailers (R68) -/

/-- A register is full or poisoned; a t or code 127 always is. -/
def State.codeReady (s : State) (c x code : Nat) : Bool :=
  if code < 64 then (s.vreg c x code).fe != .empty
  else if code < 96 then ((s.gang c x).sreg (code - 64)).fe != .empty
  else if code < 112 then ((s.gang c x).areg (code - 96)).fe != .empty
  else true

/-- A register that the trailer names is empty and nothing can fill it: no producer is outstanding, and it is not
shared. -/
def State.codeDead (s : State) (c x code : Nat) : Bool :=
  if code < 64 then !(s.vreg c x code).busy && !s.isShared c x code
  else if code < 96 then !((s.gang c x).sreg (code - 64)).busy
  else if code < 112 then !((s.gang c x).areg (code - 96)).busy
  else false

/-- The operand codes that a trailer names. -/
def Trailer.codes (t : Trailer) : List Nat :=
  t.x.toNat :: (List.range (t.n.toNat + 1)).map fun i => t.y.toNat + i

/-- The next run can start: every register that the trailer names is full or poisoned, or can never fill (R68, R103). R84 faults
only a range that starts outside the allotment: of one that runs past VALLOC, the registers beyond count in the state that they
are stored in (DESIGN CHOICE, log 71). -/
def State.trailerOk (s : State) (c x : Nat) (t : Trailer) : Bool :=
  t.codes.all fun k => s.codeReady c x k || s.codeDead c x k

/-- The first register of a trailer that is empty and can never fill (R103). -/
def State.trailerDead (s : State) (c x : Nat) (t : Trailer) : Option Nat :=
  t.codes.find? fun k => !s.codeReady c x k && s.codeDead c x k

/-! ### The gang entry -/

/-- A mask of bits by a list of numbers. -/
def maskNat (n : Nat) (f : Nat → Bool) : Nat := (List.range n).foldl (fun a i => a + (f i).toNat * 2 ^ i) 0

/-- Zero bytes. -/
def zeros (n : Nat) : List Byte := List.replicate n 0

/-- The value bytes of a varying register. -/
def laneBytes (x : Lanes) : List Byte := (List.range 32).flatMap fun l => leBytes 4 (x.lane l).toNat

/-- A varying register from its bytes. -/
def bytesLanes (bs : List Byte) : Lanes := Lanes.of fun l => BitVec.ofNat 32 (leNat ((bs.drop (4 * l)).take 4))

/-- A GROUPS entry. -/
def groupBytes (s : State) (c x : Nat) : Option Group → List Byte
  | none => zeros 8
  | some g =>
    let (kind, arg) : Byte × Byte :=
      match g.park with
      | some (k, a) => (parkCode k, a)
      | none => (if s.trailerOk c x g.trailer then 0 else 7, 0)
    [g.slices, kind, arg, g.trailer.x.setWidth 8, g.trailer.y.setWidth 8, g.trailer.n.setWidth 8, 0, 0]

/-- A SLICES entry. -/
def sliceBytes (g : Gang) (i : Nat) : List Byte :=
  let st := (vget g.retStacks i []).reverse
  leBytes 6 (vget g.pcs i 0).toNat ++ [BitVec.ofNat 8 st.length, if bit g.live i then 1 else 0]
    ++ (st ++ List.replicate (8 - st.length) 0).flatMap (fun (p : PC) => leBytes 6 p.toNat) ++ zeros 8

/-- A WINDOW entry. -/
def winBytes : Option WinEntry → List Byte
  | none => zeros 144
  | some e =>
    let w : Nat := if e.w then 16 else 0
    let (fl, tag, val) : Nat × Byte × List Byte :=
      match e.val with
      | none => (1, 0, [])
      | some (.v x t) => (3, t, laneBytes x)
      | some (.s v) => (7, 0, leBytes 4 v.toNat)
      | some (.a b st) => (11, 0, leBytes 4 b.toNat ++ leBytes 4 st.toNat)
      | some (.k v) => (15, 0, leBytes 4 v.toNat)
    [BitVec.ofNat 8 (fl + w), e.dest, tag] ++ zeros 13 ++ val ++ zeros (128 - val.length)

/-- What the bank holds of a register: what lies beneath a pending or omitted write, else the register (R71). -/
def Gang.bankS (g : Gang) (i : Nat) : W :=
  match g.under 1 (64 + i) with
  | some (.s w) => w
  | _ => (vget g.s i {}).val
def Gang.bankA (g : Gang) (i : Nat) : W × W :=
  match g.under 2 (96 + i) with
  | some (.a b st) => (b, st)
  | _ => ((vget g.a i {}).base, (vget g.a i {}).stride)
def Gang.bankK (g : Gang) (i : Nat) : W :=
  match g.under 3 i with
  | some (.k m) => m
  | _ => g.kreg i
def Gang.bankV (g : Gang) (i : Nat) : Lanes × Byte :=
  match g.under 0 i with
  | some (.v x t) => (x, t)
  | _ => ((vget g.v i {}).val, (vget g.v i {}).tag)

/-- The entry of a gang: (offset, bytes) pieces, since bytes that the crew does not use are left as they were. -/
def gangPieces (s : State) (c x : Nat) (g : Gang) : List (Nat × List Byte) :=
  let pfl : Nat := match g.pf with
    | some p => 2 + 4 * p.cmd.toNat
    | none => 0
  let first (i : Nat) : Nat := ((g.binds.find? fun b => b.id == i).map (·.first)).getD 0
  [(0, leBytes 4 0x5a534731 ++ [gidReg x, g.live, BitVec.ofNat 8 g.valloc, g.ptile.setWidth 8]
  ++ leBytes 4 g.gstat.toNat ++ leBytes 4 g.mxc.toNat ++ leBytes 4 g.kuse.toNat ++ leBytes 4 g.role.toNat
  ++ leBytes 6 g.wmodpc.toNat ++ [g.rmode.setWidth 8, BitVec.ofNat 8 g.runCnt] ++ zeros 3
  ++ [BitVec.ofNat 8 (maskNat 8 fun i => g.groups.any fun q => q.inRound && bit q.slices i)]
  ++ [BitVec.ofNat 8 (pfl + (if g.halt.isSome then 1 else 0)), (g.halt.map (·.code)).getD 0] ++ zeros 2
  ++ leBytes 4 ((g.pf.map fun p => p.lanes.toNat).getD 0) ++ leBytes 4 ((g.pf.map fun p => p.seq.toNat).getD 0)
  ++ leBytes 8 (maskNat 64 fun i => g.binds.any fun b => b.id == i)
  ++ leBytes 4 ((g.timeh.map fun t => t.toNat).getD 0) ++ [if g.timeh.isSome then 1 else 0] ++ zeros 3
  ++ (List.range 8).flatMap (fun i => groupBytes s c x g.groups[i]?)
  ++ (List.range 8).flatMap (sliceBytes g)
  ++ (List.range 30).flatMap (fun i => leBytes 4 (vget g.counts i 0))),
  (0x300, (List.range 8).flatMap (fun i => winBytes g.window[i]?)
  ++ (List.range 32).flatMap (fun i => leBytes 4 (g.bankS i).toNat)
  ++ (List.range 16).flatMap (fun i => leBytes 4 (g.bankA i).1.toNat ++ leBytes 4 (g.bankA i).2.toNat)
  ++ (List.range 8).flatMap (fun i => leBytes 4 (g.bankK i).toNat)
  ++ (List.range 32).map (fun i => let r := vget g.s i {}; feByte r.fe r.busy)
  ++ (List.range 16).map (fun i => let r := vget g.a i {}; feByte r.fe r.busy)
  ++ (List.range 64).map (fun i => let r := vget g.v i {}; feByte r.fe r.busy)
  ++ (List.range 64).map (fun i => (g.bankV i).2)
  ++ (List.range 16).flatMap (fun i => leBytes 16 (vget g.recs i 0).toNat)
  ++ (List.range 64).map (fun i => BitVec.ofNat 8 (first i)) ++ zeros 368),
  (0xc00, (List.range g.valloc).flatMap fun i => laneBytes (g.bankV i).1)]

/-- The crew part: (key offset, bytes) pieces, since bytes between them are left as they were. -/
def crewPieces (w : Crew) (slot ngangs : Nat) : List (Nat × List Byte) :=
  let place : List (Nat × Share × Nat) :=
    (w.shares.foldl (fun (acc : List (Nat × Share × Nat) × Nat) p =>
      (acc.1 ++ [(p.1, p.2, acc.2)], acc.2 + p.2.regs.length)) ([], 0)).1
  let shEnt (i : Nat) : Nat := ((place.find? fun p => p.1 == i).map fun p => p.2.1.regs.length + 128 * p.2.2).getD 0
  [(0, leBytes 4 0x5a534331 ++ [BitVec.ofNat 8 ngangs, BitVec.ofNat 8 slot, 0, 0] ++ leBytes 4 w.launch.toNat),
   (0x40, w.cbs.toList.flatMap fun cb => cb.toList.flatMap fun e => leBytes 2 e.toNat),
   (0x140, (List.range 64).flatMap fun i => leBytes 4 (shEnt i)),
   (0x240, place.flatMap fun p => p.2.1.regs.flatMap fun r =>
      [feByte r.fe r.busy, r.tag] ++ zeros 6 ++ laneBytes r.val)]

/-! ### Reading an entry -/

/-- A number of an area. -/
def State.areaNat (s : State) (k off n : Nat) : Nat := s.load (k + off) n

/-- A 48-bit PC of an area; its bit 0 is always 0 (R23). -/
def State.areaPc (s : State) (k off : Nat) : PC := BitVec.ofNat 48 (s.areaNat k off 6) &&& ~~~1

/-- A group of a GROUPS entry; `held` gives the words of parked groups. -/
def State.readGroup (s : State) (k i : Nat) (round : BitVec 8) (held : List (BitVec 8 × W)) : Option Group :=
  let b (j : Nat) : Byte := BitVec.ofNat 8 (s.areaNat k (0x40 + 8 * i + j) 1)
  if b 0 = 0 then none
  else
    let park := (codePark (b 1)).map fun kd => (kd, b 2)
    some
    { slices := b 0, park := park,
      held := if park.isSome then (held.find? fun p => p.1 == b 0).map (·.2) else none,
      trailer := { x := (b 3).setWidth 7, y := (b 4).setWidth 7, n := (b 5).setWidth 4 },
      inRound := (b 0 &&& round) != 0 }

/-- What the bank of an area holds of the register that a window value goes to. -/
def State.areaBank (s : State) (k dest : Nat) : Val → Val
  | .v _ _ => .v (bytesLanes (readBytes s.mem (k + 0xc00 + 128 * dest) 128)) (BitVec.ofNat 8 (s.areaNat k (0x910 + dest) 1))
  | .s _ => .s (BitVec.ofNat 32 (s.areaNat k (0x780 + 4 * (dest - 64)) 4))
  | .a _ _ => .a (BitVec.ofNat 32 (s.areaNat k (0x800 + 8 * (dest - 96)) 4))
      (BitVec.ofNat 32 (s.areaNat k (0x804 + 8 * (dest - 96)) 4))
  | .k _ => .k (BitVec.ofNat 32 (s.areaNat k (0x880 + 4 * dest) 4))

/-- An entry of the window; `pend` tells whether its bank write is pending. -/
def State.readWin (s : State) (k : Nat) (pend : List Bool) (i : Nat) : Option WinEntry :=
  let o := 0x300 + 144 * i
  let fl := s.areaNat k o 1
  if fl % 2 = 0 then none
  else
    let val : Option Val :=
      if fl / 2 % 2 = 0 then none
      else match fl / 4 % 4 with
        | 0 => some (.v (bytesLanes (readBytes s.mem (k + o + 16) 128)) (BitVec.ofNat 8 (s.areaNat k (o + 2) 1)))
        | 1 => some (.s (BitVec.ofNat 32 (s.areaNat k (o + 16) 4)))
        | 2 => some (.a (BitVec.ofNat 32 (s.areaNat k (o + 16) 4)) (BitVec.ofNat 32 (s.areaNat k (o + 20) 4)))
        | _ => some (.k (BitVec.ofNat 32 (s.areaNat k (o + 16) 4)))
    let dest := s.areaNat k (o + 1) 1
    some { val := val, dest := BitVec.ofNat 8 dest, w := fl / 16 % 2 = 1
           old := if pend.getD i false then val.map (s.areaBank k dest) else none }

def State.readSaveS (s : State) (k i : Nat) : SReg :=
  let b : Byte := BitVec.ofNat 8 (s.areaNat k (0x8a0 + i) 1)
  { val := BitVec.ofNat 32 (s.areaNat k (0x780 + 4 * i) 4), fe := byteFe b, busy := bit b 4 }
def State.readSaveA (s : State) (k i : Nat) : AReg :=
  let b : Byte := BitVec.ofNat 8 (s.areaNat k (0x8c0 + i) 1)
  { base := BitVec.ofNat 32 (s.areaNat k (0x800 + 8 * i) 4), stride := BitVec.ofNat 32 (s.areaNat k (0x804 + 8 * i) 4),
    fe := byteFe b, busy := bit b 4 }
def State.readSaveV (s : State) (k i : Nat) : VReg :=
  let b : Byte := BitVec.ofNat 8 (s.areaNat k (0x8d0 + i) 1)
  { val := bytesLanes (readBytes s.mem (k + 0xc00 + 128 * i) 128), tag := BitVec.ofNat 8 (s.areaNat k (0x910 + i) 1),
    fe := byteFe b, busy := bit b 4 }

/-- The share bindings of an entry, the counts coming from the crew part at `ck`, with the serial numbers. -/
def State.readBinds (s : State) (k ck : Nat) (sns : Store Nat) : List Bind :=
  ((List.range 64).filter fun i => s.areaNat k 0x30 8 / 2 ^ i % 2 = 1).map fun i =>
    { id := i, first := s.areaNat k (0xa50 + i) 1, count := s.areaNat ck (0x140 + 4 * i) 4 % 128, sn := sgetD sns i 0 }

/-- A gang whose registers show the value of a window entry that is not in the bank yet (R72). -/
def Gang.showWin (g : Gang) (e : WinEntry) : Gang :=
  let d := e.dest.toNat
  match (if e.old.isSome then e.val else none) with
  | some (.v x t) => { g with v := vput g.v d { vget g.v d {} with val := x, tag := t } }
  | some (.s w) => g.setSreg (d - 64) { g.sreg (d - 64) with val := w }
  | some (.a b st) => g.setAreg (d - 96) { g.areg (d - 96) with base := b, stride := st }
  | some (.k m) => g.setKreg d m
  | none => g

/-- A gang from its entry, with what the area does not hold. -/
def State.readGang (s : State) (k ck : Nat) (kept : SavedGang) (sns : Store Nat) : Gang :=
  let n (o w : Nat) : Nat := s.areaNat k o w
  let fl := n 0x24 1
  let window := (List.range 8).filterMap (s.readWin k kept.pend)
  let g : Gang :=
  { pcs := Vector.ofFn fun i : Fin 8 => s.areaPc k (0x80 + 64 * i.val)
    retStacks := Vector.ofFn fun i : Fin 8 =>
      ((List.range (n (0x86 + 64 * i.val) 1)).map fun j => s.areaPc k (0x88 + 64 * i.val + 6 * j)).reverse
    live := BitVec.ofNat 8 (n 5 1)
    kuse := BitVec.ofNat 32 (n 0x10 4)
    groups := (List.range 8).filterMap fun i => s.readGroup k i (BitVec.ofNat 8 (n 0x23 1)) kept.held
    active := kept.active
    run := kept.run
    runCnt := n 0x1f 1
    window := window
    s := Vector.ofFn fun i : Fin 32 => s.readSaveS k i.val
    a := Vector.ofFn fun i : Fin 16 => s.readSaveA k i.val
    v := Vector.ofFn fun i : Fin 64 => s.readSaveV k i.val
    k := Vector.ofFn fun i : Fin 8 => BitVec.ofNat 32 (n (0x880 + 4 * i.val) 4)
    recs := Vector.ofFn fun i : Fin 16 => BitVec.ofNat 128 (n (0x950 + 16 * i.val) 16)
    valloc := n 6 1
    binds := s.readBinds k ck sns
    gstat := BitVec.ofNat 14 (n 8 4)
    rmode := BitVec.ofNat 2 (n 0x1e 1)
    ptile := BitVec.ofNat 3 (n 7 1)
    mxc := BitVec.ofNat 32 (n 0xc 4)
    role := BitVec.ofNat 32 (n 0x14 4)
    wmodpc := BitVec.ofNat 48 (n 0x18 6)
    timeh := if n 0x3c 1 % 2 = 1 then some (BitVec.ofNat 32 (n 0x38 4)) else none
    counts := Vector.ofFn fun i : Fin 30 => n (0x280 + 4 * i.val) 4
    halt := if fl % 2 = 1 then kept.halt else none
    pre := kept.pre
    pf := if fl / 2 % 2 = 1 then
        kept.pf.map fun p => { p with lanes := BitVec.ofNat 32 (n 0x28 4), seq := BitVec.ofNat 32 (n 0x2c 4),
                                      cmd := BitVec.ofNat 2 (fl / 4 % 4) }
      else none }
  let g := { g with unbanked := kept.shown.map fun p => (p.1, p.2.1, s.areaBank k p.2.1 p.2.2) }
  let above := kept.shown.map fun p =>
    ({ val := some p.2.2, dest := BitVec.ofNat 8 p.2.1, w := false, old := some p.2.2 } : WinEntry)
  (above ++ window).foldl Gang.showWin g

/-! ### The checks of RESTORE (R407) -/

/-- A STATE byte that R408 allows. -/
def stateByteOk (b : Byte) : Bool := b.toNat < 32 && b.toNat % 4 != 3

/-- The bytes of an area are all 0. -/
def State.areaZero (s : State) (k off n : Nat) : Bool := (readBytes s.mem (k + off) n).all fun b => b == 0

/-- A GROUPS entry, used or not, that R408 allows. -/
def State.groupOk (s : State) (k i : Nat) : Bool :=
  let b (j : Nat) : Nat := s.areaNat k (0x40 + 8 * i + j) 1
  b 1 ≤ 10 && (b 1 != 7 || b 2 == 0) && (b 3 < 120 || b 3 == 127) && (b 4 < 120 || b 4 == 127) && b 5 < 16 &&
    b 6 == 0 && b 7 == 0

/-- A gang entry that RESTORE accepts: the fields that R407 lists, and nothing else, are tested. -/
def State.gangEntryOk (s : State) (k : Nat) : Bool :=
  let n (o w : Nat) : Nat := s.areaNat k o w
  n 0 4 == 0x5a534731 &&
  8 ≤ n 6 1 && n 6 1 ≤ 64 && n 6 1 % 8 == 0 && 1 ≤ n 7 1 && n 7 1 ≤ 5 && n 0x1e 1 ≤ 3 && n 0x1f 1 ≤ 24 &&
  n 8 4 < 2 ^ 14 && s.areaZero k 0x20 3 && n 0x24 1 < 16 && s.areaZero k 0x26 2 &&
  n 0x3c 1 ≤ 1 && s.areaZero k 0x3d 3 &&
  (List.range 8).all (s.groupOk k) &&
  (List.range 8).all (fun i => n (0x86 + 64 * i) 1 ≤ 8 && s.areaZero k (0x80 + 64 * i + 56) 8) &&
  (List.range 112).all (fun i => stateByteOk (BitVec.ofNat 8 (n (0x8a0 + i) 1))) &&
  (List.range 64).all (fun i => !tagBad (BitVec.ofNat 8 (n (0x910 + i) 1))) &&
  (List.range 8).all (fun i =>
    let o := 0x300 + 144 * i
    s.areaZero k (o + 3) 13 && !tagBad (BitVec.ofNat 8 (n (o + 2) 1))) &&
  s.areaZero k 0xa90 0x170

/-- A crew part that RESTORE accepts for a crew. -/
def State.crewPartOk (s : State) (ck : Nat) (w : Crew) (slot ngangs : Nat) : Bool :=
  s.areaNat ck 0 4 == 0x5a534331 && s.areaNat ck 4 1 == ngangs && s.areaNat ck 5 1 == slot && s.areaZero ck 6 2 &&
  s.areaNat ck 8 4 == w.launch.toNat &&
  (List.range 64).all fun i =>
    let e := s.areaNat ck (0x140 + 4 * i) 4
    let cnt := e % 128; let ix := e / 128
    e < 2 ^ 17 && cnt ≤ 64 && (List.range cnt).all fun j =>
      let o := 0x240 + 136 * (ix + j)
      stateByteOk (BitVec.ofNat 8 (s.areaNat ck o 1)) && !tagBad (BitVec.ofNat 8 (s.areaNat ck (o + 1) 1)) &&
        s.areaZero ck (o + 2) 6

/-- The shares of a crew part, with their serial numbers. -/
def State.readShares (s : State) (ck : Nat) (bound : Nat → Nat) (sns : Store Nat) : Store Share :=
  (List.range 64).filterMap fun i =>
    let e := s.areaNat ck (0x140 + 4 * i) 4
    let cnt := e % 128; let ix := e / 128
    if cnt = 0 then none
    else some (i, { bound := bound i, sn := sgetD sns i 0, regs := (List.range cnt).map fun j =>
      let o := 0x240 + 136 * (ix + j)
      let b : Byte := BitVec.ofNat 8 (s.areaNat ck o 1)
      { val := bytesLanes (readBytes s.mem (ck + o + 8) 128), tag := BitVec.ofNat 8 (s.areaNat ck (o + 1) 1),
        fe := byteFe b, busy := bit b 4 } })

/-! ### Registers of a gang that may be saved (R104) -/

/-- The keys of the gang entry and the crew part of a saved gang that has not ended. -/
def State.savedAt (s : State) (c x : Nat) : Option (Nat × Nat) :=
  if isPlaza x || (s.gang? c x).isSome then none
  else
    match s.crew? c (crewSlot x) with
    | some w => if bit w.ended (x % 16) then none else w.saved.map fun b => (gangKey b (x % 16), crewKey b)
    | none => none

/-- Where a varying register is kept: in the gang's file, in share storage of its crew, in the gang's entry at a key, in
an SHREG entry at a key, or nowhere any more. -/
inductive VHome where
  | own (n : Nat)
  | shared (id place sn : Nat)
  | saved (k n : Nat)
  | savedShare (e : Nat)
  | gone
  deriving DecidableEq, Repr

/-- Where the register lies that v`n` named under the bindings `bs`: a producer fills the register that it emptied,
whatever the gang has bound or unbound since (R102, R110, R111). -/
def State.vHome (s : State) (c x : Nat) (bs : List Bind) (n : Nat) : VHome :=
  match bindOf bs n with
  | none =>
    if (s.gang? c x).isSome then .own n
    else match s.savedAt c x with
      | some (k, _) => .saved k n
      | none => .gone
  | some b =>
    let w := s.crew c (crewSlot x)
    match w.saved with
    | none => if ((sget w.shares b.id).map (·.sn)) = some b.sn then .shared b.id (n - b.first) b.sn else .gone
    | some base =>
      let ck := crewKey base
      if sget w.sns b.id = some b.sn then
        .savedShare (ck + 0x240 + 136 * (s.areaNat ck (0x140 + 4 * b.id) 4 / 128 + (n - b.first)))
      else .gone

/-- A register at its place. -/
def State.vregAt (s : State) (c x : Nat) : VHome → VReg
  | .own n => vget (s.gang c x).v n {}
  | .shared id p _ => ((s.share c x id).regs[p]?).getD {}
  | .saved k n => s.readSaveV k n
  | .savedShare e =>
    let b : Byte := BitVec.ofNat 8 (s.load e 1)
    { val := bytesLanes (readBytes s.mem (e + 8) 128), tag := BitVec.ofNat 8 (s.load (e + 1) 1), fe := byteFe b,
      busy := bit b 4 }
  | .gone => {}

/-- A register set at its place by something other than an instruction. -/
def State.setVregAt (s : State) (c x : Nat) (r : VReg) : VHome → State
  | .own n => s.modGang c x fun g => { g with v := vput g.v n r }
  | .shared id p _ => s.modCrew c (crewSlot x) fun w =>
      { w with shares := smod w.shares id fun h => { h with regs := h.regs.set p r } }
  | .saved k n => ((s.putArea (k + 0xc00 + 128 * n) (laneBytes r.val)).putArea (k + 0x910 + n) [r.tag]).putArea
      (k + 0x8d0 + n) [feByte r.fe r.busy]
  | .savedShare e => (s.putArea e [feByte r.fe r.busy, r.tag]).putArea (e + 8) (laneBytes r.val)
  | .gone => s

/-- The place of a register in `Core.fresh`. -/
def VHome.fresh (x : Nat) : VHome → Option Nat
  | .own n => some (ownCode x n)
  | .shared id p _ => some (shareCode (crewSlot x) id p)
  | _ => none

/-- The producer of a register has completed in this cycle (R104). -/
def State.freshen (s : State) (c : Nat) (p : Option Nat) : State :=
  match p with
  | some p => s.modCore c fun k => { k with fresh := k.fresh ++ [p] }
  | none => s

/-- Register s`i` of a gang, live or saved. -/
def State.sregAt (s : State) (c x i : Nat) : SReg :=
  match s.savedAt c x with
  | none => (s.gang c x).sreg i
  | some (k, _) => if i = 0 then {} else s.readSaveS k i

def State.setSregAt (s : State) (c x i : Nat) (r : SReg) : State :=
  match s.savedAt c x with
  | none => s.modGang c x fun g => g.setSreg i r
  | some (k, _) =>
    if i = 0 then s
    else (s.putArea (k + 0x780 + 4 * i) (leBytes 4 r.val.toNat)).putArea (k + 0x8a0 + i) [feByte r.fe r.busy]

/-- A completion raises flags of a gang, live or saved; a `wrctl` of the same cycle does not clear them (R126). -/
def State.raiseAt (s : State) (c x : Nat) (f : BitVec 14) : State :=
  match s.savedAt c x with
  | none => s.modGang c x fun g => { g.raise f with raised := g.raised ||| f }
  | some (k, _) => s.putArea (k + 8) (leBytes 4 (s.areaNat k 8 4 ||| f.toNat))

/-- Change the outstanding count `i` of a gang, live or saved (R237, R406). -/
def State.modCount (s : State) (c x i : Nat) (f : Nat → Nat) : State :=
  match s.savedAt c x with
  | none => s.modGang c x fun g => { g with counts := vput g.counts i (f (vget g.counts i 0)) }
  | some (k, _) => s.putArea (k + 0x280 + 4 * i) (leBytes 4 (f (s.areaNat k (0x280 + 4 * i) 4)))

/-! ### Completions (R101, R102) -/

/-- Change what stands beside the banks of a gang, live or saved, for a register whose bank write was omitted (R71): what the
bank holds, or for a saved gang what the register showed. -/
def State.modUnbanked (s : State) (c x : Nat) (f : List (Nat × Nat × Val) → List (Nat × Nat × Val)) : State :=
  match s.savedAt c x with
  | none => s.modGang c x fun g => { g with unbanked := f g.unbanked }
  | some _ => s.modCrew c (crewSlot x) fun w => { w with kept := smod w.kept (x % 16) fun e => { e with shown := f e.shown } }

/-- The producer of s`i` delivers a value. -/
def State.fillS (s : State) (c x i : Nat) (w : W) : State :=
  ((s.setSregAt c x i { val := w, fe := .full, busy := false }).modUnbanked c x fun l => dropBank l 1 (64 + i)).freshen c
    (some (ownCode x (64 + i)))

/-- The producer of s`i` fails. -/
def State.poisonS (s : State) (c x i : Nat) (cause : BitVec 2) : State :=
  (s.setSregAt c x i { s.sregAt c x i with fe := .poisoned cause, busy := false }).freshen c (some (ownCode x (64 + i)))

/-- The gang's own register that lies at a place. -/
def VHome.own? : VHome → Option Nat
  | .own n => some n
  | .saved _ n => some n
  | _ => none

/-- The lanes that the register at a place shows: those of its bank, or of a saved gang's entry, but where the bank write of
what it shows was omitted (R71). -/
def State.shownAt (s : State) (c x : Nat) (h : VHome) : Lanes :=
  match h with
  | .saved _ n => match bankIn (sgetD (s.crew c (crewSlot x)).kept (x % 16) {}).shown 0 n with
    | some (.v y _) => y
    | _ => (s.vregAt c x h).val
  | _ => (s.vregAt c x h).val

/-- A list of bank contents, with lanes written into those of v`n`. -/
def laneBank (l : List (Nat × Nat × Val)) (n : Nat) (m : W) (val : Lanes) : List (Nat × Nat × Val) :=
  l.map fun p => match p.2.2 with
    | .v y t => if p.1 = 0 ∧ p.2.1 = n then (0, n, .v (mergeLanes m val y) t) else p
    | _ => p

/-- Lanes of a varying register arrive; its state stays. -/
def State.laneV (s : State) (c x : Nat) (bs : List Bind) (n : Nat) (m : W) (val : Lanes) : State :=
  let h := s.vHome c x bs n
  let r := s.vregAt c x h
  let s := s.setVregAt c x { r with val := mergeLanes m val r.val } h
  match h.own? with
  | some i => s.modUnbanked c x fun l => laneBank l i m val
  | none => s

/-- The producer of v`n`, which the gang named under the bindings `bs`, delivers lanes and a tag: what the register then holds
stands in its bank. -/
def State.fillV (s : State) (c x : Nat) (bs : List Bind) (n : Nat) (m : W) (val : Lanes) (tag : Byte) : State :=
  let h := s.vHome c x bs n
  let s := s.setVregAt c x { val := mergeLanes m val (s.shownAt c x h), tag := tag, fe := .full, busy := false } h
  (match h.own? with
    | some i => s.modUnbanked c x fun l => dropBank l 0 i
    | none => s).freshen c (h.fresh x)

/-- The producer of v`n` fails. -/
def State.poisonV (s : State) (c x : Nat) (bs : List Bind) (n : Nat) (cause : BitVec 2) : State :=
  let h := s.vHome c x bs n
  (s.setVregAt c x { s.vregAt c x h with fe := .poisoned cause, busy := false } h).freshen c (h.fresh x)

/-- The producer of v`n` is cancelled: its register is left without one. -/
def State.unbusyV (s : State) (c x : Nat) (bs : List Bind) (n : Nat) : State :=
  let h := s.vHome c x bs n
  s.setVregAt c x { s.vregAt c x h with busy := false } h

/-- The producer of s`i` is cancelled. -/
def State.unbusyS (s : State) (c x i : Nat) : State := s.setSregAt c x i { s.sregAt c x i with busy := false }

end Sys2Proof.Machine
end

