-- ==== Sys2Proof/Machine/GraphOps.lean ====
section
/-! DEFINITION. Sys2Proof/Machine/GraphOps.lean: the walker of dependence graphs: starting, finishing and killing nodes
(R316 to R319, R322). Graph 0 to 3 of a core is that of the crew in the slot; graph 4 is the plaza context's. -/

namespace Sys2Proof.Machine

/-- The nodes of a graph. -/
def State.nodes (s : State) (c q : Nat) : Store Node := if q = 4 then (s.core c).plazaNodes else (s.crew c q).nodes

def State.setNodes (s : State) (c q : Nat) (ns : Store Node) : State :=
  if q = 4 then s.modCore c fun k => { k with plazaNodes := ns } else s.modCrew c q fun w => { w with nodes := ns }

def State.modNode (s : State) (c q n : Nat) (f : Node → Node) : State := s.setNodes c q (smod (s.nodes c q) n f)

/-- The graph of a context. -/
def graphOf (x : Nat) : Nat := if isPlaza x then 4 else crewSlot x
/-- The number of nodes of a graph (R315). -/
def graphSize (q : Nat) : Nat := if q = 4 then 8 else 64

/-- A finished node (R316). -/
def Node.finished (n : Node) : Bool := n.st == .done || n.st == .killed

/-! ### Matrix commands of nodes (R295, R318) -/

def State.mx (s : State) (c : Nat) : Mx := (s.core c).mx
def State.modMx (s : State) (c : Nat) (f : Mx → Mx) : State := s.modCore c fun k => { k with mx := f k.mx }

/-- The cores of a command, leader first. -/
def MxCmd.cores (m : MxCmd) : List Nat := if m.pair then [m.core, pairMate m.core] else [m.core]

/-- The queues that a command enters have room (R290). -/
def State.mxRoom (s : State) (m : MxCmd) : Bool := m.cores.all fun c => (s.mx c).q.length < 16

/-- Enter a command into its queues: a pair command into those of both cores (R295). -/
def State.enterMx (s : State) (m : MxCmd) : State :=
  let s := m.cores.foldl (fun s c => s.modMx c fun x => { x with q := x.q ++ [m] }) s
  s.modMx m.core fun x => { x with num := x.num + 1 }

/-- The commands of started nodes of a core enter in their order, each when its queues have room (R318). -/
def State.enterNodes (s : State) (c : Nat) : State :=
  (s.mx c).nodeQ.foldl (fun s m =>
    if s.mxRoom m then
      (s.modMx c fun x => { x with nodeQ := x.nodeQ.filter fun n => n.node != m.node || n.ctx != m.ctx }).enterMx
        { m with num := (s.mx c).num }
    else s) s

/-- Start a node that is armed with a count of 0 or below (R318). A wake node finishes at once, and is answered as
finished. -/
def State.startNode (s : State) (c q n : Nat) : State × List Nat :=
  match sget (s.nodes c q) n with
  | none => (s, [])
  | some nd =>
    if nd.st != .armed || 0 < nd.count then (s, [])
    else
      match nd.kind with
      | .copy _ =>
        ((s.modNode c q n fun d => { d with st := .running }).modCore c fun k => { k with copyQ := k.copyQ ++ [(q, n)] }, [])
      | .matrix cmd =>
        (((s.modNode c q n fun d => { d with st := .running }).modMx c fun x => { x with nodeQ := x.nodeQ ++ [cmd] }).enterNodes c,
          [])
      | .wake x r =>
        ((s.modNode c q n fun d => { d with st := .done, status := nd.carried }).fillS c x r (BitVec.ofNat 32 nd.carried), [n])

/-- Lower the count of a successor, carry a status to it, and start it where it can. -/
def State.lowerNode (s : State) (c q status : Nat) (acc : List Nat) (n : Nat) : State × List Nat :=
  let s := s.modNode c q n fun d => { d with count := d.count - 1, carried := max d.carried status }
  let (s, fin) := s.startNode c q n
  (s, acc ++ fin)

/-- Lower the successors of finished nodes, at most `fuel` nodes long (R317, R318). -/
def State.settleNodes (s : State) (c q : Nat) : Nat → List Nat → State
  | 0, _ => s
  | _, [] => s
  | fuel + 1, n :: rest =>
    match sget (s.nodes c q) n with
    | none => s.settleNodes c q fuel rest
    | some nd =>
      let (s, more) := nd.succ.foldl (fun (p : State × List Nat) m => p.1.lowerNode c q nd.status p.2 m) (s, [])
      s.settleNodes c q fuel (rest ++ more)

/-- A node finishes with a status, or as killed where it was to be killed (R318, R319). -/
def State.finishNode (s : State) (c q n status : Nat) : State :=
  (s.modNode c q n fun d =>
    if d.kill then { d with st := .killed, status := 2 } else { d with st := .done, status := status }).settleNodes c q 64 [n]

/-- Nodes of a list that have not started. -/
def notStarted (ns : Store Node) (l : List Nat) : List Nat :=
  l.filter fun m => match sget ns m with
    | some d => d.st == .built || d.st == .armed
    | none => false

/-- Kill nodes and, transitively, their successors that have not started (R319). -/
def State.killNodes (s : State) (c q : Nat) : Nat → List Nat → State
  | 0, _ => s
  | _, [] => s
  | fuel + 1, n :: rest =>
    match sget (s.nodes c q) n with
    | none => s.killNodes c q fuel rest
    | some nd =>
      match nd.st with
      | .built | .armed =>
        let s := s.modNode c q n fun d => { d with st := .killed, status := 2 }
        let s := match nd.kind with
          | .wake x r => s.fillS c x r 2
          | _ => s
        s.killNodes c q fuel (notStarted (s.nodes c q) nd.succ ++ rest)
      | .running =>
        let s := s.modNode c q n fun d => { d with kill := true }
        s.killNodes c q fuel (notStarted (s.nodes c q) nd.succ ++ rest)
      | .done | .killed => s.killNodes c q fuel rest

end Sys2Proof.Machine
end

