-- ==== Sys2Proof/Machine/GangEnd.lean ====
section
/-! DEFINITION. Sys2Proof/Machine/GangEnd.lean: the end of a gang and of a crew (R77, R111, R122, R261, R291, R322,
R328), with what each returns. -/

namespace Sys2Proof.Machine

/-! ### Barriers (R326 to R328) -/

/-- Members that have not arrived in the phase. -/
def Barrier.unarrived (b : Barrier) : Nat := (b.members.filter fun m => !m.arrived).length

/-- The stranding check of R328. -/
def Barrier.strandCheck (b : Barrier) : Barrier :=
  if b.arrivals + b.unarrived < b.expected then { b with stranded := true } else b

/-- R327: a phase with at least one arrival and at least E of them completes. -/
def Barrier.complete (b : Barrier) : Barrier :=
  if 1 ≤ b.arrivals && b.expected ≤ b.arrivals then
    { b with phase := b.phase + 1, arrivals := 0, members := b.members.map fun m => { m with arrived := false } }
  else b

def Barrier.isMember (b : Barrier) (c x : Nat) : Bool := b.members.any fun m => m.core == c && m.ctx == x

/-- The commands parked in `bar.wait` or `bar.sync` on an entry that has become stranded: their gangs fault E_BSTR, a
saved one when it is restored (R328). -/
def State.strandWaiters (s : State) (key : Nat) : State :=
  (s.barCmds.filter fun p => p.2.key == key && p.2.there && p.2.ans.isNone && (p.2.op == 3 || p.2.op == 4)).foldl
    (fun s p =>
      if (s.gang? p.2.core p.2.ctx).isSome then
        { s.takeFault p.2.core p.2.ctx eBstr 0 p.2.id 0 0 with barCmds := sdel s.barCmds p.1 }
      else { s with barCmds := sput s.barCmds p.1 { p.2 with ans := some (4, 0) } }) s

/-- Put an entry back, with the faults of a stranding. -/
def State.putBarrier (s : State) (key : Nat) (b : Barrier) : State :=
  let was := ((sget s.barriers key).map (·.stranded)).getD false
  let s := { s with barriers := sput s.barriers key b }
  if b.stranded && !was then s.strandWaiters key else s

/-- Every barrier loses a gang that has ended without leaving (R328), behind the arrivals of the cycle and the phase that they
complete (R329), and its commands go. -/
def State.strandBarriers (s : State) (c x : Nat) : State :=
  let s := { s with barCmds := s.barCmds.filter fun p => !(p.2.core == c && p.2.ctx == x) }
  (s.barriers.filter fun p => p.2.isMember c x).foldl (fun s p =>
    let b := p.2.complete
    s.putBarrier p.1 ({ b with members := b.members.filter fun m => !(m.core == c && m.ctx == x) }).strandCheck) s

/-! ### The end of a crew (R261, R291, R322, R385) -/

/-- The mask of a crew's gang indices. -/
def Crew.gangMask (w : Crew) : BitVec 16 := BitVec.ofNat 16 (2 ^ w.gangs - 1)

/-- Every gang of a crew has ended. -/
def Crew.allEnded (w : Crew) : Bool := w.ended &&& w.gangMask == w.gangMask

/-- Something of a crew is still in progress: a SAVE, a context, an access, a matrix, KV or copy command, a message, an
object request or a finaliser command (R20). -/
def State.crewBusy (s : State) (c q : Nat) : Bool :=
  let k := s.core c
  (s.crew c q).saving.isSome ||
  k.gangs.any (fun p => p.1 < 64 && crewSlot p.1 == q) ||
  k.accs.any (fun p => p.2.ctx < 64 && crewSlot p.2.ctx == q) ||
  k.mx.q.any (fun m => m.core == c && m.ctx < 64 && crewSlot m.ctx == q) ||
  k.kvQ.any (fun m => m.ctx < 64 && crewSlot m.ctx == q) ||
  k.copyQ.any (fun p => p.1 == q) ||
  s.msgs.any (fun p => p.2.src == c && p.2.ctx < 64 && crewSlot p.2.ctx == q) ||
  s.pkts.any (fun p => p.2.core == c && p.2.ctx < 64 && crewSlot p.2.ctx == q) ||
  s.fins.any (fun p => p.2.core == c && p.2.ctx < 64 && crewSlot p.2.ctx == q)

/-- Empty the weight slots `first` to `first + n − 1` of a core (R294). -/
def State.emptySlots (s : State) (c first n : Nat) : State :=
  s.modCore c fun k => { k with mx := { k.mx with slots := k.mx.slots.filter fun p => !(first ≤ p.1 && p.1 < first + n) } }

/-- Release a crew's licence with its weight slots (R291, R294). -/
def State.dropLicence (s : State) (c q : Nat) : State :=
  match (s.crew c q).lic with
  | none => s
  | some (pair, first, n) =>
    let s := s.emptySlots c first n
    let s := if pair then s.emptySlots (pairMate c) first n else s
    s.modCrew c q fun w => { w with lic := none }

/-- Set the OWNER and OPEN of the regions of a pinned range (R185). -/
def State.openRegions (s : State) (c pin size : Nat) (isOpen : Bool) (owner : Byte) : State :=
  s.modCore c fun k =>
    { k with regions := Vector.ofFn fun i : Fin 32 =>
        let r := k.regions[i]
        if pin < (i.val + 1) * 65536 && i.val * 65536 < pin + size then (r.1, isOpen, if isOpen then r.2.2 else owner) else r }

/-- The overflow flags of a core clear when its lay-by holds 16 entries or fewer (R260). -/
def State.clearOvf (s : State) (c : Nat) : State :=
  if (s.core c).layby.length ≤ 16 then s.modCore c fun k => { k with crews := k.crews.map fun p => (p.1, { p.2 with ovf := false }) }
  else s

/-! ### The end of a gang (R77) -/

def MxOp.isRd : MxOp → Bool
  | .rd _ _ _ _ _ _ => true
  | _ => false

/-- A producer that the gang has issued is outstanding (R77): one of its own registers waits for it, or it is on its way to
whatever register it names. Another gang's producer on a shared register is none of them. -/
def State.gangBusy (s : State) (c x : Nat) : Bool :=
  let g := s.gang c x
  let k := s.core c
  g.s.toList.any (·.busy) || g.a.toList.any (·.busy) || g.v.toList.any (·.busy) ||
  k.accs.any (fun p => p.2.ctx == x && !p.2.cancelled && p.2.dst != .none) ||
  k.sfu.any (fun p => p.2.ctx == x) ||
  k.mx.q.any (fun m => m.core == c && m.ctx == x && m.op.isRd) ||
  s.pkts.any fun p => p.2.core == c && p.2.ctx == x && p.2.dst != .none

/-- Unbind a share that the gang binds, at every range where it does: its storage returns to the pool when no gang binds it
(R111). -/
def State.unbind (s : State) (c x id : Nat) : State :=
  let q := crewSlot x
  if !(s.gang c x).binds.any fun b => b.id == id then s
  else
  let s := s.modGang c x fun g => { g with binds := g.binds.filter fun b => b.id != id }
  match sget (s.crew c q).shares id with
  | none => s
  | some h =>
    if h.bound ≤ 1 then
      (s.modCrew c q fun w => { w with shares := sdel w.shares id }).modCore c fun k =>
        { k with poolFree := k.poolFree + (h.regs.length + 7) / 8 }
    else s.modCrew c q fun w => { w with shares := sput w.shares id { h with bound := h.bound - 1 } }

/-- Return the context, blocks and shares of an ended gang once no producer of it is outstanding. -/
def State.freeContext (s : State) (c x : Nat) : State :=
  let g := s.gang c x
  if isPlaza x || (s.gang? c x).isNone || !g.ended || s.gangBusy c x then s
  else
    let s := g.binds.foldl (fun s b => s.unbind c x b.id) s
    s.modCore c fun k => { k with gangs := sdel k.gangs x, poolFree := k.poolFree + g.valloc / 8 }

/-- Return what can be returned of the ended gangs of a crew. -/
def State.freeContexts (s : State) (c q : Nat) : State :=
  (List.range 16).foldl (fun s g => s.freeContext c (q * 16 + g)) s

/-- What the end of a crew does as far as it can be done: lay-by entries go, nodes that have not started are killed, and
once nothing is in progress the licence, tiles and pinned region are released and the place is free (R261, R291, R322). The
contexts of its ended gangs return with their producers, before that and after. -/
def State.crewSweep (s : State) (c q : Nat) : State :=
  let s := s.freeContexts c q
  match s.crew? c q with
  | none => s
  | some w =>
    if !w.allEnded then s
    else
      let s := (s.modCore c fun k => { k with layby := k.layby.filter fun l => l.launch != w.launch }).clearOvf c
      let s := (s.killNodes c q 1024 ((s.nodes c q).map (·.1))).freeContexts c q
      let s := s.setNodes c q ((s.nodes c q).filter fun p => !p.2.finished)
      if s.crewBusy c q || !(s.nodes c q).isEmpty then s
      else
        let s := s.dropLicence c q
        let s := s.openRegions c w.pin w.sram true 0
        s.modCore c fun k => { k with crews := sdel k.crews q }

/-- A gang that has ended, or whose producer has completed, may free its context and its crew's place. -/
def State.reap (s : State) (c x : Nat) : State := if isPlaza x then s else s.crewSweep c (crewSlot x)

/-- The places of an access whose lines are no longer awaited: those not on their way are dropped, and keep their number in
the list, by which a TSYNC names the others (R224). -/
def LineAcc.drop (l : LineAcc) : LineAcc :=
  if l.st == .look || l.st == .failed then { l with st := .done, lanes := 0 } else l

/-- Cancel an access (R223): what is not on its way is dropped, and the destination is left without a producer. -/
def State.cancelAccess (s : State) (c n : Nat) : State :=
  match sget (s.core c).accs n with
  | none => s
  | some a =>
    let ls := a.lines.map LineAcc.drop
    let s := match a.dst with
      | .v first cnt => (List.range cnt).foldl (fun (s : State) j => s.unbusyV c a.ctx a.binds (first + j)) s
      | .s i => s.unbusyS c a.ctx i
      | _ => s
    s.modCore c fun k =>
      { k with accs := if ls.all fun l => l.st == .done then sdel k.accs n
                       else sput k.accs n { a with lines := ls, cancelled := true } }

/-- Drop the unfinished lanes of a context's accesses (R226). -/
def State.dropUnsent (s : State) (c x : Nat) : State :=
  ((s.core c).accs.filter fun p => p.2.ctx == x && p.2.lines.any fun l => l.st == .look || l.st == .failed).foldl
    (fun s p => s.cancelAccess c p.1) s

/-- The posted receives of a gang are cancelled at its end: their completion registers have no producer any more (R261). -/
def State.dropReceives (s : State) (c x : Nat) : State :=
  let rs := (s.core c).receives.filter fun r => r.ctx == x
  (rs.foldl (fun s r => s.unbusyS c x r.creg) s).modCore c fun k => { k with receives := k.receives.filter fun r => r.ctx != x }

/-- A gang ends, by `exit` or by a kill: LIVE is 0; its roles, waiting requests, posted receives and barrier
memberships end with it. -/
def State.endGang (s : State) (c x : Nat) : State :=
  let s := ((s.dropUnsent c x).dropReceives c x).modGang c x fun g =>
    { g with live := 0, groups := [], ended := true, role := 0, halt := none, pf := none, look := none, window := [],
             run := 0, runCnt := 0 }
  let s := (s.freeSlot c x).modCore c fun k =>
    { k.dropPool x with
             accs := k.accs.filter fun p => !(p.2.ctx == x && p.2.awaited)
             chosen := k.chosen.filter fun y => y != x
             sfuQ := k.sfuQ.filter fun y => y != x
             kvQ := k.kvQ.filter fun m => !(m.ctx == x && m.ans.isSome)
             mx := { k.mx with waits := k.mx.waits.filter fun r => r.ctx != x } }
  let s := s.modCrew c (crewSlot x) fun w => { w with ended := w.ended ||| BitVec.ofNat 16 (2 ^ (x % 16)) }
  let s := { s with fins := s.fins.filter fun p => !(p.2.core == c && p.2.ctx == x && p.2.place == 4) }
  (s.strandBarriers c x).reap c x

/-- An empty register of an ended gang whose producer has completed may free its context (R77). -/
def State.completed (s : State) (c x : Nat) : State := s.reap c x

end Sys2Proof.Machine
end

