-- ==== Sys2Proof/Machine/Uniform.lean ====
section
/-! DEFINITION. Sys2Proof/Machine/Uniform.lean: uniform arithmetic (R116, R117), affine arithmetic (R115) and mask
instructions (R118). -/

namespace Sys2Proof.Machine

/-! ### Uniform operations (R116) -/

def sAdd (a b : W) : W := a + b
def sSub (a b : W) : W := a - b
def sMul (a b : W) : W := a * b
def sMulh (a b : W) : W := wrap32 (sgn a * sgn b / 2 ^ 32)
def sAnd (a b : W) : W := a &&& b
def sOr (a b : W) : W := a ||| b
def sXor (a b : W) : W := a ^^^ b
def sShl (a b : W) : W := a <<< shiftBy b
def sShr (a b : W) : W := a >>> shiftBy b
def sSra (a b : W) : W := a.sshiftRight (shiftBy b)
def sDiv (a b : W) : W := if b = 0 then 0xffffffff else BitVec.ofNat 32 (a.toNat / b.toNat)
def sRem (a b : W) : W := if b = 0 then a else BitVec.ofNat 32 (a.toNat % b.toNat)

/-- The form of an SR word with two registers. -/
def srForm (f : SR) : Form :=
  { legal := true, fb := f.hi != 0, wide := true,
    srcs := [uSrc f.a (f.ba == 1), uSrc f.b (f.bb == 1)], dests := sDest f.d }

/-- The form of an SR word with an immediate. -/
def sriForm (f : SRI) : Form :=
  { legal := true, fb := false, wide := true, srcs := [uSrc f.a (f.ba == 1)], dests := sDest f.d }

/-- Value `i` of a uniform instruction's sources. -/
def uVal (vs : List Val) (i : Nat) : W := (vs[i]?.map Val.u).getD 0

def issueSR (s : State) (f : SR) (op : W → W → W) : Host.Outcome State Fault Refusal :=
  issue s (srForm f) fun s c x vs => pure (doneS s c x f.d.toNat (op (uVal vs 0) (uVal vs 1)))

def issueSRI (s : State) (f : SRI) (op : W → W → W) : Host.Outcome State Fault Refusal :=
  issue s (sriForm f) fun s c x vs => pure (doneS s c x f.d.toNat (op (uVal vs 0) (f.imm.signExtend 32)))

def execSadd (f : SR) (s : State) : Host.Outcome State Fault Refusal := issueSR s f sAdd
def execSaddImm (f : SRI) (s : State) : Host.Outcome State Fault Refusal := issueSRI s f sAdd
def execSsub (f : SR) (s : State) : Host.Outcome State Fault Refusal := issueSR s f sSub
def execSsubImm (f : SRI) (s : State) : Host.Outcome State Fault Refusal := issueSRI s f sSub
def execSmul (f : SR) (s : State) : Host.Outcome State Fault Refusal := issueSR s f sMul
def execSmulImm (f : SRI) (s : State) : Host.Outcome State Fault Refusal := issueSRI s f sMul
def execSmulh (f : SR) (s : State) : Host.Outcome State Fault Refusal := issueSR s f sMulh
def execSmulhImm (f : SRI) (s : State) : Host.Outcome State Fault Refusal := issueSRI s f sMulh
def execSand (f : SR) (s : State) : Host.Outcome State Fault Refusal := issueSR s f sAnd
def execSandImm (f : SRI) (s : State) : Host.Outcome State Fault Refusal := issueSRI s f sAnd
def execSor (f : SR) (s : State) : Host.Outcome State Fault Refusal := issueSR s f sOr
def execSorImm (f : SRI) (s : State) : Host.Outcome State Fault Refusal := issueSRI s f sOr
def execSxor (f : SR) (s : State) : Host.Outcome State Fault Refusal := issueSR s f sXor
def execSxorImm (f : SRI) (s : State) : Host.Outcome State Fault Refusal := issueSRI s f sXor
def execSshl (f : SR) (s : State) : Host.Outcome State Fault Refusal := issueSR s f sShl
def execSshlImm (f : SRI) (s : State) : Host.Outcome State Fault Refusal := issueSRI s f sShl
def execSshr (f : SR) (s : State) : Host.Outcome State Fault Refusal := issueSR s f sShr
def execSshrImm (f : SRI) (s : State) : Host.Outcome State Fault Refusal := issueSRI s f sShr
def execSsra (f : SR) (s : State) : Host.Outcome State Fault Refusal := issueSR s f sSra
def execSsraImm (f : SRI) (s : State) : Host.Outcome State Fault Refusal := issueSRI s f sSra
def execSminI32 (f : SR) (s : State) : Host.Outcome State Fault Refusal := issueSR s f minS
def execSminI32Imm (f : SRI) (s : State) : Host.Outcome State Fault Refusal := issueSRI s f minS
def execSmaxI32 (f : SR) (s : State) : Host.Outcome State Fault Refusal := issueSR s f maxS
def execSmaxI32Imm (f : SRI) (s : State) : Host.Outcome State Fault Refusal := issueSRI s f maxS
def execSminN32 (f : SR) (s : State) : Host.Outcome State Fault Refusal := issueSR s f minU
def execSminN32Imm (f : SRI) (s : State) : Host.Outcome State Fault Refusal := issueSRI s f minU
def execSmaxN32 (f : SR) (s : State) : Host.Outcome State Fault Refusal := issueSR s f maxU
def execSmaxN32Imm (f : SRI) (s : State) : Host.Outcome State Fault Refusal := issueSRI s f maxU
def execSdivN32 (f : SR) (s : State) : Host.Outcome State Fault Refusal := issueSR s f sDiv
def execSdivN32Imm (f : SRI) (s : State) : Host.Outcome State Fault Refusal := issueSRI s f sDiv
def execSremN32 (f : SR) (s : State) : Host.Outcome State Fault Refusal := issueSR s f sRem
def execSremN32Imm (f : SRI) (s : State) : Host.Outcome State Fault Refusal := issueSRI s f sRem

/-! ### Immediates (R117) -/

/-- The form of a UI word. -/
def uiForm (f : UI) : Form := { legal := true, fb := false, wide := true, dests := sDest f.d }

def execSli (f : UI) (s : State) : Host.Outcome State Fault Refusal :=
  issue s (uiForm f) fun s c x _ => pure (doneS s c x f.d.toNat (f.imm.signExtend 32))
def execSlui (f : UI) (s : State) : Host.Outcome State Fault Refusal :=
  issue s (uiForm f) fun s c x _ => pure (doneS s c x f.d.toNat (f.imm.setWidth 32 <<< 11))

/-! ### Affine arithmetic (R115) -/

/-- Base and stride of source `i`; for a u operand its value and stride 0. -/
def aVal (vs : List Val) (i : Nat) : W × W := (vs[i]?.map Val.aff).getD (0, 0)

/-- AOV: some lane's wrapped value differs from its exact value `e`. -/
def aovFlag (b st : W) (e : Nat → Int) : BitVec 14 :=
  flagIf ((List.range 32).any fun l => sgn (b + st * BitVec.ofNat 32 l) != e l) fAov

/-- The exact lane value of an affine operand. -/
def exactLane (p : W × W) (l : Nat) : Int := sgn p.1 + sgn p.2 * l

/-- An affine result with its flags. -/
def giveA (s : State) (c x : Nat) (f : T3) (b st : W) (e : Nat → Int) (fl : BitVec 14) : Done :=
  doneA (s.modGang c x fun g => g.raise (aovFlag b st e ||| fl)) c x f.d.toNat b st

def execAmk (f : T3) (s : State) : Host.Outcome State Fault Refusal :=
  issue s (t3Form .a .u .u f) fun s c x vs =>
    let p := (uVal vs 0, uVal vs 1)
    pure (giveA s c x f p.1 p.2 (exactLane p) 0)
def execAadd (f : T3) (s : State) : Host.Outcome State Fault Refusal :=
  issue s (t3Form .a .at .atu f) fun s c x vs =>
    let p := aVal vs 0; let q := aVal vs 1
    pure (giveA s c x f (p.1 + q.1) (p.2 + q.2) (fun l => exactLane p l + exactLane q l) 0)
def execAsub (f : T3) (s : State) : Host.Outcome State Fault Refusal :=
  issue s (t3Form .a .at .atu f) fun s c x vs =>
    let p := aVal vs 0; let q := aVal vs 1
    pure (giveA s c x f (p.1 - q.1) (p.2 - q.2) (fun l => exactLane p l - exactLane q l) 0)
def execAmul (f : T3) (s : State) : Host.Outcome State Fault Refusal :=
  issue s (t3Form .a .at .u f) fun s c x vs =>
    let p := aVal vs 0; let w := uVal vs 1
    pure (giveA s c x f (p.1 * w) (p.2 * w) (fun l => exactLane p l * sgn w) 0)
def execAshl (f : T3) (s : State) : Host.Outcome State Fault Refusal :=
  issue s (t3Form .a .at .u f) fun s c x vs =>
    let p := aVal vs 0; let k := shiftBy (uVal vs 1)
    pure (giveA s c x f (p.1 <<< k) (p.2 <<< k) (fun l => exactLane p l * 2 ^ k) 0)
def execAshr (f : T3) (s : State) : Host.Outcome State Fault Refusal :=
  issue s (t3Form .a .at .u f) fun s c x vs =>
    let p := aVal vs 0; let k := shiftBy (uVal vs 1)
    let b := p.1.sshiftRight k; let st := p.2.sshiftRight k
    pure (giveA s c x f b st (fun l => sgn b + sgn st * l)
      (flagIf (p.1.toNat % 2 ^ k != 0 || p.2.toNat % 2 ^ k != 0) fAfx))
def execAget (f : T3) (s : State) : Host.Outcome State Fault Refusal :=
  issue s (t3Form .s .at (.code 2) f) fun s c x vs =>
    let p := aVal vs 0
    pure (doneS s c x f.d.toNat (if f.b = 0 then p.1 else p.2))
def execA2v (f : T3) (s : State) : Host.Outcome State Fault Refusal :=
  issue s (t3Form .v .at .zero f) fun s c x vs =>
    pure (giveV s c x f (s.gang c x).lanes (srcLanes vs 0, 0) tagRaw)

/-! ### Masks (R118): all 32 bits are written -/

/-- The k register that a field names. -/
def kSrc (s : State) (c x : Nat) (i : BitVec 7) : W := (s.gang c x).kreg i.toNat

def issueK2 (s : State) (f : T3) (op : W → W → W) : Host.Outcome State Fault Refusal :=
  issue s (t3Form .k .kidx .kidx f) fun s c x _ =>
    pure (doneK s c x f.d.toNat 0xffffffff (op (kSrc s c x f.a) (kSrc s c x f.b)))

def execKand (f : T3) (s : State) : Host.Outcome State Fault Refusal := issueK2 s f sAnd
def execKor (f : T3) (s : State) : Host.Outcome State Fault Refusal := issueK2 s f sOr
def execKxor (f : T3) (s : State) : Host.Outcome State Fault Refusal := issueK2 s f sXor
def execKandn (f : T3) (s : State) : Host.Outcome State Fault Refusal := issueK2 s f fun a b => a &&& ~~~b
def execKnot (f : T3) (s : State) : Host.Outcome State Fault Refusal :=
  issue s (t3Form .k .kidx .zero f) fun s c x _ => pure (doneK s c x f.d.toNat 0xffffffff (~~~(kSrc s c x f.a)))
def execKmov (f : T3) (s : State) : Host.Outcome State Fault Refusal :=
  issue s (t3Form .k .u .zero f) fun s c x vs => pure (doneK s c x f.d.toNat 0xffffffff (uVal vs 0))
def execKpop (f : T3) (s : State) : Host.Outcome State Fault Refusal :=
  issue s (t3Form .s .kidx .zero f) fun s c x _ => pure (doneS s c x f.d.toNat (popc (kSrc s c x f.a)))
def execKfirst (f : T3) (s : State) : Host.Outcome State Fault Refusal :=
  issue s (t3Form .s .kidx .zero f) fun s c x _ =>
    let m := kSrc s c x f.a
    pure (doneS s c x f.d.toNat (BitVec.ofNat 32 ((activeList m).headD 32)))

end Sys2Proof.Machine
end

