-- ==== Sys2Proof/Machine/Branch.lean ====
section
/-! DEFINITION. Sys2Proof/Machine/Branch.lean: branches, jumps, calls and returns (R91 to R94), the split of a group
(R74) and the merge at `regang` (R76). -/

namespace Sys2Proof.Machine

/-- PC + 2 × a signed displacement. -/
def branchTo {n : Nat} (pc : PC) (disp : BitVec n) : PC := pc + (disp.signExtend 48 <<< 1)

/-- The slices of a mask, ascending. -/
def sliceList (m : BitVec 8) : List Nat := (List.range 8).filter fun i => bit m i

/-- Distinct elements in order of first appearance. -/
def distinct (l : List PC) : List PC := l.foldl (fun acc p => if acc.contains p then acc else acc ++ [p]) []

/-- The slices of the issuing group go to the PC that `f` gives each; where these differ the group splits, and a new
round begins (R74, R75). -/
def Gang.splitTo (g : Gang) (f : Nat → PC) : Gang :=
  let g' := { g with pcs := Vector.ofFn fun i : Fin 8 => if bit g.active i.val then f i.val else g.pcs[i] }
  let targets := distinct ((sliceList g.active).map f)
  if targets.length ≤ 1 then g'
  else
    let parts : List Group := targets.map fun p => { slices := maskOf 8 fun i => bit g.active i && f i == p }
    { g' with groups := ((g.groups.filter fun q => q.slices != g.active) ++ parts).map fun q => { q with inRound := true } }

/-- A control transfer that ends the run with an empty trailer (R66). -/
def transfer (s : State) : Done := { s := s, size := 0, ends := some {} }

/-- The next PC of a slice whose branch is taken or not. -/
def brNext (pc : PC) (disp : BitVec 13) (taken : Bool) : PC := if taken then branchTo pc disp else pc + 4

/-- A branch with one outcome for the whole group (R93). -/
def issueBr (s : State) (f : BR) (p : W → W → Bool) : Host.Outcome State Fault Refusal :=
  issue s { legal := true, fb := false, srcs := [uSrc f.a true, uSrc f.b true] } fun s c x vs =>
    let t := p (uVal vs 0) (uVal vs 1)
    pure (transfer (s.modGang c x fun g => g.splitTo fun _ => brNext g.pc f.disp t))

def execBeq (f : BR) (s : State) : Host.Outcome State Fault Refusal := issueBr s f fun a b => a == b
def execBne (f : BR) (s : State) : Host.Outcome State Fault Refusal := issueBr s f fun a b => a != b
def execBlt (f : BR) (s : State) : Host.Outcome State Fault Refusal := issueBr s f ltS
def execBge (f : BR) (s : State) : Host.Outcome State Fault Refusal := issueBr s f fun a b => !ltS a b
def execBltN (f : BR) (s : State) : Host.Outcome State Fault Refusal := issueBr s f ltU
def execBgeN (f : BR) (s : State) : Host.Outcome State Fault Refusal := issueBr s f fun a b => !ltU a b

/-- The active lanes of a slice. -/
def sliceLanes (m : W) (i : Nat) : List Nat := (activeList m).filter fun l => l / 4 == i

/-- A branch that each slice decides by its active lanes of a k register (R93). -/
def issueBk (s : State) (f : BR) (p : List Bool → Bool) : Host.Outcome State Fault Refusal :=
  issue s { legal := true, fb := brFallback f } fun s c x _ =>
    pure (transfer (s.modGang c x fun g =>
      let k := g.kreg (f.b.toNat % 8)
      g.splitTo fun i => brNext g.pc f.disp (p ((sliceLanes g.lanes i).map fun l => bit k l))))

def execBkany (f : BR) (s : State) : Host.Outcome State Fault Refusal := issueBk s f fun l => l.any id
def execBkall (f : BR) (s : State) : Host.Outcome State Fault Refusal := issueBk s f fun l => l.all id

def execJmp (f : J) (s : State) : Host.Outcome State Fault Refusal :=
  issue s { legal := true, fb := false } fun s c x _ =>
    pure (transfer (s.modGang c x fun g => g.setPcs g.active (branchTo g.pc f.disp)))

/-- `call`: every issuing slice pushes PC + 4, unless one holds 8 entries (R92). -/
def execCall (f : J) (s : State) : Host.Outcome State Fault Refusal :=
  issue s { legal := true, fb := false } fun s c x _ => do
    let g := s.gang c x
    need ((sliceList g.active).all fun i => (vget g.retStacks i []).length < 8) (.code eRstk)
    let st := Vector.ofFn fun i : Fin 8 => if bit g.active i.val then (g.pc + 4) :: g.retStacks[i] else g.retStacks[i]
    pure (transfer (s.setGang c x ({ g with retStacks := st }.setPcs g.active (branchTo g.pc f.disp))))

/-- `ret`: every issuing slice pops, unless one is empty; the group may split (R92). -/
def execRet (f : EX) (s : State) : Host.Outcome State Fault Refusal :=
  issue s (exForm .zero .zero .zero f) fun s c x _ => do
    let g := s.gang c x
    need ((sliceList g.active).all fun i => !(vget g.retStacks i []).isEmpty) (.code eRstk)
    let st := Vector.ofFn fun i : Fin 8 => if bit g.active i.val then g.retStacks[i].tail else g.retStacks[i]
    let g' := g.splitTo fun i => (vget g.retStacks i []).headD 0 &&& ~~~1
    pure (transfer (s.setGang c x { g' with retStacks := st }))

/-- `jr` (R91). -/
def execJr (f : EX) (s : State) : Host.Outcome State Fault Refusal :=
  issue s (exForm .zero .read .zero f) fun s c x vs => do
    let a := uVal vs 0
    need (!bit a 0) (.code eAlign)
    pure (transfer (s.modGang c x fun g => g.setPcs g.active (g.pc.extractLsb' 32 16 ++ a)))

/-- The check of R76: when every live slice is parked at a `regang`, those at the lowest one form one group, which
resumes behind it, and a new round begins. -/
def Gang.regang (g : Gang) : Gang :=
  let parked (q : Group) : Bool := q.park == some (.regang, 0)
  if g.groups.isEmpty || !g.groups.all parked then g
  else
    let pcOf (q : Group) : PC := vget g.pcs (lowSlice q.slices) 0
    let low := g.groups.foldl (fun (m : Nat) q => min m (pcOf q).toNat) (2 ^ 48)
    let here := g.groups.filter fun q => (pcOf q).toNat == low
    let rest := g.groups.filter fun q => (pcOf q).toNat != low
    let m := here.foldl (fun (acc : BitVec 8) q => acc ||| q.slices) 0
    let g := g.setPcs m (BitVec.ofNat 48 low + 4)
    { g with groups := rest.map (fun q => { q with inRound := true }) ++ [{ slices := m }] }

end Sys2Proof.Machine
end

