-- ==== Sys2Proof/Machine/Control.lean ====
section
/-! DEFINITION. Sys2Proof/Machine/Control.lean: the control instructions of MAJ 18 FN 0 and 1 but for `ret` and `jr`
(R82 to R90, R119 to R122), and the system steps that end or age a run (R64, R67). -/

namespace Sys2Proof.Machine

/-- What the plaza context may not execute faults E_PERM there (R279). -/
def notPlaza (x : Nat) : Except Stop Unit := need (!isPlaza x) (.code ePerm)

/-! ### Runs (R66 to R68) -/

def execNop (f : EX) (s : State) : Host.Outcome State Fault Refusal :=
  issue s (exForm .zero .zero .zero f) fun s _ _ _ => pure (done s)

/-- The trailer of an `endrun` after rows 17 and 18 of R40. -/
def endrunTrailer (f : EndrunF) : Trailer :=
  let n : Nat := if 64 ≤ f.y.toNat then 0 else min f.n.toNat (63 - f.y.toNat)
  { x := f.x, y := f.y, n := BitVec.ofNat 4 n }

/-- `endrun` (R84): a named register, or the start of the range, outside the allotment raises E_RES. -/
def execEndrun (f : EndrunF) (s : State) : Host.Outcome State Fault Refusal :=
  let nm (c : BitVec 7) : List (Nat × Nat) := if c.toNat < 64 then [(c.toNat, 1)] else []
  issue s { legal := endrunLegal f, fb := endrunFallback f, names := nm f.x ++ nm f.y } fun s _ _ _ =>
    pure { s := s, ends := some (endrunTrailer f) }

/-- `regang` (R76): the group parks at its PC, the run ends, and the check is made. -/
def execRegang (f : EX) (s : State) : Host.Outcome State Fault Refusal :=
  issue s (exForm .zero .zero .zero f) fun s c x _ =>
    pure { s := s, size := 0, ends := some {},
           post := fun s => s.modGang c x fun g => (g.modGroup fun q => { q with park := some (.regang, 0) }).regang }

/-- `exit` (R77): the issuing slices are no longer live; the gang ends when none is. -/
def execExit (f : EX) (s : State) : Host.Outcome State Fault Refusal :=
  issue s (exForm .zero .zero .zero f) fun s c x _ => do
    notPlaza x
    pure { s := s, size := 0, ends := some {},
           post := fun s =>
             let s := s.modGang c x fun g =>
               ({ g with live := g.live &&& ~~~g.active, groups := g.groups.filter fun q => q.slices != g.active }).regang
             if (s.gang c x).live = 0 then s.endGang c x else s }

/-- `yield` (R86): the gang is last in its class. -/
def execYield (f : EX) (s : State) : Host.Outcome State Fault Refusal :=
  issue s (exForm .zero .zero .zero f) fun s c x _ => do
    notPlaza x
    pure { s := s, ends := some {},
           post := fun s => s.modCore c fun k => { k with last := vput k.last (s.crew c (crewSlot x)).prio x } }

/-- `trap` raises E_TRAP with its code (R87). -/
def execTrap (f : TrapF) (s : State) : Host.Outcome State Fault Refusal :=
  issue s { legal := true, fb := false } fun _ _ _ _ => .error (.info eTrap (f.code.setWidth 32))

/-- `brk` raises E_BRK (R87). -/
def execBrk (f : EX) (s : State) : Host.Outcome State Fault Refusal :=
  issue s (exForm .zero .zero .zero f) fun _ _ _ _ => .error (.code eBrk)

/-- IMPLICIT_TRAILER (R67): a run of 24 instructions ends as with an empty `endrun`, and RUNLEN is set. -/
def execImplicitTrailer (core ctx : Nat) (s : State) : Host.Outcome State Fault Refusal :=
  if 24 ≤ (s.gang core ctx).runCnt then
    .next ((s.modGang core ctx fun g => g.raise fRunlen).endRun core ctx {})
  else .next s

/-- CONTEXT_AGED (R64): a context that has been ready without issuing for 256 cycles is aged. -/
def execContextAged (core ctx : Nat) (s : State) : Host.Outcome State Fault Refusal :=
  .next (s.modGang core ctx fun g => if 256 ≤ g.age then { g with aged := true } else g)

/-! ### Lane masks and tiles -/

/-- Replace the KUSE bits of the issuing slices (R88). -/
def Gang.setKuse (g : Gang) (m : W) : Gang :=
  { g with kuse := (m &&& lanesOf g.active) ||| (g.kuse &&& ~~~(lanesOf g.active)) }

def execKuse (f : EX) (s : State) : Host.Outcome State Fault Refusal :=
  issue s (exForm .zero (.idx 8) .zero f) fun s c x _ =>
    pure (done (s.modGang c x fun g => g.setKuse (g.kreg f.a.toNat)))

/-- PTILE from a code, after row 15 of R40. -/
def ptileOf (code : BitVec 3) : BitVec 3 := if code = 0 then 1 else if 6 ≤ code.toNat then 5 else code

def execSetpt (f : SetptF) (s : State) : Host.Outcome State Fault Refusal :=
  issue s { legal := true, fb := setptFallback f, wide := true } fun s c x _ =>
    pure (done (s.modGang c x fun g => { g with ptile := ptileOf f.c }))

/-! ### Control registers (R119 to R121) -/

/-- Numbers that hold no register. -/
def ctlReserved (n : Nat) : Bool := n == 10 || n == 12 || n == 21 || 23 ≤ n
/-- Registers that `wrctl` writes. -/
def ctlWritable (n : Nat) : Bool := n == 0 || n == 4 || n == 5 || n == 6 || n == 11

/-- Device time in nanoseconds (R15). -/
def State.ns (s : State) : Nat := s.time.now / 4

/-- Size of parameter window `n` of a context (R202). -/
def State.winSize (s : State) (c x n : Nat) : Nat :=
  if isPlaza x then 0 else (vget (s.crew c (crewSlot x)).wins n (0, 0)).2

/-- The value of control register `n`. -/
def State.readCtl (s : State) (c x n : Nat) : W :=
  let g := s.gang c x
  let w (k : Nat) : W := BitVec.ofNat 32 k
  match n with
  | 0 => g.gstat.setWidth 32
  | 1 => (gidReg x).setWidth 32
  | 2 => (gidOf c).setWidth 32
  | 3 => s.launchOf c x
  | 4 => g.ptile.setWidth 32
  | 5 => g.rmode.setWidth 32
  | 6 => g.kuse
  | 7 => g.live.setWidth 32
  | 8 => g.active.setWidth 32
  | 9 => g.wmodpc.setWidth 32
  | 11 => g.mxc
  | 13 => w g.valloc
  | 14 => w s.ns
  | 15 => (g.timeh).getD (w (s.ns / 2 ^ 32))
  | 16 => w (s.clock - (s.core c).t0)
  | 17 | 18 | 19 | 20 => w (s.winSize c x (n - 17))
  | 22 => g.role
  | _ => 0

/-- `rdctl` (R121); a reserved number reads 0 and sets WMOD (R119); TIMEL latches TIMEH. -/
def execRdctl (f : EX) (s : State) : Host.Outcome State Fault Refusal :=
  let n := f.b.toNat
  issue s { exForm .dest .zero (.idx 32) f with fb := exFallback .dest .zero (.idx 32) f || ctlReserved n } fun s c x _ =>
    let v := s.readCtl c x n
    let s := if n = 14 then s.modGang c x fun g => { g with timeh := some (BitVec.ofNat 32 (s.ns / 2 ^ 32)) } else s
    pure (doneS s c x f.d.toNat v)

/-- The gang after a write of control register `n`. A flag that a completion sets in the same cycle stays (R126). -/
def Gang.writeCtl (g : Gang) (n : Nat) (v : W) : Gang :=
  match n with
  | 0 => { g with gstat := (g.gstat &&& ~~~(v.setWidth 14)) ||| g.raised }
  | 4 =>
    let code : BitVec 3 := v.setWidth 3
    let g := if code = 0 || 6 ≤ code.toNat then g.setWmod else g
    { g with ptile := ptileOf code }
  | 5 => { g with rmode := v.setWidth 2 }
  | 6 => g.setKuse v
  | 11 => { g with mxc := v }
  | _ => g

/-- `wrctl` (R121); a write to a read-only or reserved number is ignored and sets WMOD (R119). -/
def execWrctl (f : EX) (s : State) : Host.Outcome State Fault Refusal :=
  let n := f.b.toNat
  issue s { exForm .zero .read (.idx 32) f (ctlWritable n && n != 6) with
      fb := exFallback .zero .read (.idx 32) f || !ctlWritable n } fun s c x vs =>
    pure (done (s.modGang c x fun g => g.writeCtl n (uVal vs 0)))

/-- `elect` (R122): the role is taken unless a gang of the crew holds it. -/
def execElect (f : ElectF) (s : State) : Host.Outcome State Fault Refusal :=
  issue s { legal := f.role.toNat < 32, fb := false, wide := true } fun s c x _ => do
    notPlaza x
    let r := f.role.toNat
    let held := (s.core c).gangs.any fun p => p.1 < 64 && crewSlot p.1 == crewSlot x && bit p.2.role r
    pure (done (if held then s else s.modGang c x fun g => { g with role := g.role ||| BitVec.ofNat 32 (2 ^ r) }))

end Sys2Proof.Machine
end

