-- ==== Sys2Proof/Machine/Share.lean ====
section
/-! DEFINITION. Sys2Proof/Machine/Share.lean: allotment and sharing of varying registers (R105 to R111), and the
arbiter of the pool. -/

namespace Sys2Proof.Machine

/-! ### The pool (R106 to R109) -/

/-- Stamp `a` is older than stamp `b` (R108). -/
def olderStamp (a b : BitVec 24) : Bool := let d := (b - a).toNat; 1 ≤ d && d < 2 ^ 23

/-- The stamp of a context's launch. -/
def State.stampOf (s : State) (c x : Nat) : BitVec 24 := (s.launchOf c x).extractLsb' 8 24

/-- Request `a` is served before request `b` (R107); equal requests keep their order. -/
def State.servedFirst (s : State) (c a b : Nat) : Bool :=
  olderStamp (s.stampOf c a) (s.stampOf c b) || (s.stampOf c a == s.stampOf c b && a % 16 < b % 16)

/-- The waiting request that is served next. -/
def State.poolHead (s : State) (c : Nat) : Option PoolReq :=
  ((s.core c).poolQ.filter fun r => r.ans.isNone).foldl (fun (best : Option PoolReq) r =>
    match best with
    | none => some r
    | some b => if s.servedFirst c r.ctx b.ctx then some r else some b) none

/-- Answer the requests of contexts that `p` selects. -/
def State.answerPool (s : State) (c : Nat) (p : Nat → Bool) (ok : Bool) : State :=
  s.modCore c fun k => { k with poolQ := k.poolQ.map fun r => if r.ans.isNone && p r.ctx then { r with ans := some ok } else r }

/-- A gang that holds grown or share blocks, or has been granted blocks that it has not taken up yet. A gang holds grown blocks
while VALLOC is above the crew's `.vregs`: R109 does not say how they are told apart once it has shrunk below (DESIGN CHOICE,
log 72). -/
def State.holdsBlocks (s : State) (c x : Nat) : Bool :=
  let g := s.gang c x
  x < 64 && ((s.crew c (crewSlot x)).vregs < g.valloc || !g.binds.isEmpty ||
    (s.core c).poolQ.any fun r => r.ctx == x && r.ans == some true)

/-- A context with an unanswered request. -/
def Core.poolWaits (k : Core) (x : Nat) : Bool := k.poolQ.any fun r => r.ans.isNone && r.ctx == x

/-- The tie of R109. -/
def State.poolTie (s : State) (c : Nat) : Bool :=
  let k := s.core c
  let waiting := k.poolQ.filter fun r => r.ans.isNone
  let holders := (k.gangs.map (·.1)).filter (s.holdsBlocks c)
  !waiting.isEmpty && waiting.all (fun r => k.poolFree < r.blocks) && !holders.isEmpty && holders.all k.poolWaits

/-- The refusals of a tie: every request of the youngest crew, or that of the highest gang of one crew (R109). -/
def State.refuseTie (s : State) (c : Nat) : State :=
  let xs := ((s.core c).poolQ.filter fun r => r.ans.isNone).map (·.ctx)
  let slots := xs.map crewSlot
  if slots.all fun q => q == slots.headD 0 then s.answerPool c (fun x => x == xs.foldl max 0) false
  else
    let young := xs.foldl (fun b x => if olderStamp (s.stampOf c b) (s.stampOf c x) then x else b) (xs.headD 0)
    s.answerPool c (fun x => crewSlot x == crewSlot young) false

/-- VREG_POOL_GRANT: the arbiter serves the first request if it fits, and refuses on a tie. -/
def execVregPoolGrant (core : Nat) (s : State) : Host.Outcome State Fault Refusal :=
  match s.poolHead core with
  | none => .next s
  | some r =>
    if r.blocks ≤ (s.core core).poolFree then
      .next ((s.answerPool core (fun x => x == r.ctx) true).modCore core fun k => { k with poolFree := k.poolFree - r.blocks })
    else if s.poolTie core then .next (s.refuseTie core)
    else .next s

/-- Take up the answer to a request, or make it and park (engine acceptance, index 1). -/
def State.askPool (s : State) (c x blocks : Nat) (share : Bool) : State × Option Bool :=
  match (s.core c).poolQ.find? fun r => r.ctx == x with
  | none => (s.modCore c fun k => { k with poolQ := k.poolQ ++ [{ ctx := x, blocks := blocks, share := share }] }, none)
  | some r =>
    match r.ans with
    | none => (s, none)
    | some a => (s.modCore c fun k => { k with poolQ := k.poolQ.filter fun r => r.ctx != x }, some a)

/-- `grow` (R106). -/
def execGrow (f : EX) (s : State) : Host.Outcome State Fault Refusal :=
  issue s (exForm .dest .zero .count f) fun s c x _ => do
    notPlaza x
    let n := f.b.toNat
    let g := s.gang c x
    need (g.valloc + 8 * n ≤ 64) (.info eRes 0)
    match s.askPool c x n false with
    | (s, none) => pure { s := s, parks := some (.engine, 1) }
    | (s, some true) =>
      let s := s.modGang c x fun g =>
        { g with valloc := g.valloc + 8 * n
                 v := Vector.ofFn fun i : Fin 64 => if g.valloc ≤ i.val && i.val < g.valloc + 8 * n then {} else g.v[i] }
      pure (doneS s c x f.d.toNat 0)
    | (s, some false) => pure (doneS s c x f.d.toNat 1)

/-- `shrink` (R106). -/
def execShrink (f : EX) (s : State) : Host.Outcome State Fault Refusal :=
  issue s (exForm .zero .zero .count f true) fun s c x _ => do
    notPlaza x
    let n := f.b.toNat
    let g := s.gang c x
    let lo := g.valloc - 8 * n
    let gone (i : Nat) : Bool := lo ≤ i && i < g.valloc
    need (8 + 8 * n ≤ g.valloc && !(List.range 64).any (fun i => gone i && ((vget g.v i {}).busy || (g.bind? i).isSome)) &&
      !g.groups.any fun q => q.trailer.codes.any gone) (.info eRes 0)
    let s := s.modGang c x fun g =>
      { g with valloc := lo, v := Vector.ofFn fun i : Fin 64 => if gone i.val then {} else g.v[i]
               window := g.window.map fun e =>
                 if e.old.any (fun o => o.bank == 0) && gone e.dest.toNat then { e with old := none } else e
               unbanked := g.unbanked.filter fun p => !(p.1 == 0 && gone p.2.1) }
    pure (done (s.modCore c fun k => { k with poolFree := k.poolFree + n }))

/-! ### Sharing (R110, R111) -/

/-- Bind a range of a gang to storage of its crew that exists. A gang that binds the id already is not counted again. -/
def State.bindShare (s : State) (c x id first count : Nat) : State :=
  let n := if (s.gang c x).binds.any fun b => b.id == id then 0 else 1
  let sn := (s.share c x id).sn
  (s.modGang c x fun g => { g with binds := g.binds ++ [{ id := id, first := first, count := count, sn := sn }] }).modCrew c
    (crewSlot x) fun w => { w with shares := smod w.shares id fun h => { h with bound := h.bound + n } }

/-- New share storage: empty registers, tag RAW, and a serial number. -/
def newShare (count sn : Nat) : Share := { regs := List.replicate count { fe := .empty }, bound := 0, sn := sn }

/-- Make the storage of a share id. -/
def State.makeShare (s : State) (c x id count : Nat) : State :=
  { s.modCrew c (crewSlot x) fun w => { w with shares := sput w.shares id (newShare count s.nextId) } with
    nextId := s.nextId + 1 }

/-- `rshare` (R110). -/
def execRshare (f : RshareF) (s : State) : Host.Outcome State Fault Refusal :=
  let first := f.first.toNat
  let count := f.count.toNat + 1
  let id := f.id.toNat
  issue s { legal := true, fb := false, names := [(first, count)], wide := true } fun s c x _ => do
    notPlaza x
    let g := s.gang c x
    let bad : Stop := .info eRes (BitVec.ofNat 32 first)
    need (!g.binds.any fun b => b.first < first + count && first < b.first + b.count) bad
    match sget (s.crew c (crewSlot x)).shares id with
    | some h => do
      need (h.regs.length == count) bad
      -- another gang may have made the storage while this one waited
      pure (done ((s.modCore c fun k => k.dropPool x).bindShare c x id first count))
    | none =>
      match s.askPool c x ((count + 7) / 8) true with
      | (s, none) => pure { s := s, parks := some (.engine, 1) }
      | (_, some false) => .error bad
      | (s, some true) =>
        pure (done ((s.makeShare c x id count).bindShare c x id first count))

/-- `runshare` (R111). -/
def execRunshare (f : EX) (s : State) : Host.Outcome State Fault Refusal :=
  issue s (exForm .zero .read .zero f true) fun s c x vs => do
    notPlaza x
    let id := (uVal vs 0).toNat
    pure (done (if (s.gang c x).binds.any fun b => b.id == id then s.unbind c x id else s))

/-! ### fe.clr and fe.set (R105) -/

/-- Set the state of register `code`, its value, tag and producer staying. -/
def State.setFe (s : State) (c x : Nat) (fe : Fe) (code : Nat) : State :=
  if code < 64 then s.setVreg c x code { s.vreg c x code with fe := fe }
  else if code < 96 then s.modGang c x fun g => g.setSreg (code - 64) { g.sreg (code - 64) with fe := fe }
  else s.modGang c x fun g => g.setAreg (code - 96) { g.areg (code - 96) with fe := fe }

def issueFe (s : State) (f : FeF) (fe : Fe) : Host.Outcome State Fault Refusal :=
  let x0 := f.x.toNat
  let n := f.n.toNat + 1
  issue s { legal := feLegal f, fb := f.rest != 0, names := if x0 < 64 then [(x0, n)] else [], wide := 64 ≤ x0 }
    fun s c x _ => pure (done ((List.range n).foldl (fun s i => s.setFe c x fe (x0 + i)) s))

def execFeClr (f : FeF) (s : State) : Host.Outcome State Fault Refusal := issueFe s f .empty
def execFeSet (f : FeF) (s : State) : Host.Outcome State Fault Refusal := issueFe s f .full

end Sys2Proof.Machine
end

