-- ==== Sys2Proof/Machine/Translate.lean ====
section
/-! DEFINITION. Sys2Proof/Machine/Translate.lean: the radix table and its walk (R206 to R212), the translation caches
(R213), and page-fault records (R217 to R219). -/

namespace Sys2Proof.Machine

/-! ### Physical addresses (R207) -/

/-- An HBM physical address that names a byte of a stack. -/
def hbmUsable (a : Nat) : Bool := a < 2 ^ 45 && a / 2 ^ 39 < 24 && a % 2 ^ 39 < 48 * 2 ^ 30

/-! ### Causes and access types (R219) -/

def cInvalid : Byte := 1
def cPerm : Byte := 2
def cMalformed : Byte := 3
def cMigrate : Byte := 4
def cAtomic : Byte := 5
def cEcc : Byte := 6

/-- The type of an access, by its code in a PF record. -/
inductive AccKind where
  | load
  | store
  | atomic
  | fetch
  deriving DecidableEq, Repr

def AccKind.code : AccKind → Byte
  | .load => 0
  | .store => 1
  | .atomic => 2
  | .fetch => 3

/-- A failed lookup: its cause, the level of R219, and the size of the page that it was for. Where the walk has stopped above
every leaf no size is given, and it is that of a page of 64 KiB (DESIGN CHOICE, log 67). -/
structure LookFail where
  cause : Byte
  level : Byte
  size : Nat := 65536
  deriving DecidableEq, Repr

/-! ### Entries (R208 to R211) -/

/-- Bits `hi` to `lo` of an entry. -/
def fld (e : BitVec 64) (hi lo : Nat) : Nat := (e.extractLsb' lo (hi - lo + 1)).toNat

/-- A pointer entry that R211 accepts: reserved bits 0, NEXT aligned to the next table and usable. -/
def ptrOk (e : BitVec 64) (align : Nat) : Bool :=
  !bit e 1 && fld e 7 2 == 0 && fld e 63 52 == 0 && (fld e 51 8 * 256) % align == 0 && hbmUsable (fld e 51 8 * 256)

/-- FRAME of a leaf, as an address. -/
def leafFrame (e : BitVec 64) : Nat := fld e 51 16 * 65536
/-- LOC and MODULE of a leaf. -/
def leafLoc (e : BitVec 64) : Nat := fld e 8 7
def leafModule (e : BitVec 64) : Nat := fld e 59 52

/-- A leaf that R211 accepts, in a module whose number is `modid`; `big` holds for a 2 MiB page. Where POD or HOSTMIGR has not
been accepted (R412), LOC 2 and MIGR mean nothing, and a leaf that sets them is malformed (DESIGN CHOICE, log 60). -/
def leafOk (e : BitVec 64) (big : Bool) (modid : Nat) (pod migr : Bool) : Bool :=
  fld e 15 11 == 0 && fld e 63 60 == 0 && (!big || fld e 20 16 == 0) && (migr || !bit e 10) &&
  match leafLoc e with
  | 0 => leafModule e == 0 && hbmUsable (leafFrame e) && hbmUsable (leafFrame e + (if big then 2 ^ 21 else 2 ^ 16) - 1)
  | 1 => leafModule e == 0
  | 2 => pod && leafModule e != modid && hbmUsable (leafFrame e)
  | _ => false

/-- The tests of R212 on a valid leaf, in their order. -/
def leafTest (e : BitVec 64) (k : AccKind) (level : Byte) : Option LookFail :=
  let r := bit e 2; let w := bit e 3; let x := bit e 4
  let permitted : Bool := match k with
    | .load => r
    | .store => w
    | .atomic => r && w
    | .fetch => x
  if bit e 10 then some { cause := cMigrate, level := level }
  else if !permitted then some { cause := cPerm, level := level }
  else if k == .atomic && leafLoc e == 1 then some { cause := cAtomic, level := level }
  else if k == .fetch && leafLoc e != 0 then some { cause := cPerm, level := level }
  else none

/-! ### Caches (R213) -/

/-- The entry of a cache that maps a virtual address. -/
def tlbFind (l : List TlbEntry) (asid : Byte) (va : Nat) : Option TlbEntry :=
  l.find? fun e => e.asid == asid && va / e.size == e.vpage

/-- The cache of a core with an entry most recently used, at most `n` entries; the one used least recently leaves. -/
def tlbPut (l : List TlbEntry) (n : Nat) (e : TlbEntry) : List TlbEntry :=
  (e :: l.filter fun f => f != e).take n

/-- A list with an entry at its head; where `n` entries that `same` selects stand in it already, the one that `v` chooses of
them leaves. -/
def putIn {α : Type} [DecidableEq α] (l : List α) (e : α) (n : Nat) (same : α → Bool) (v : Nat) : List α :=
  let l := l.filter fun f => f != e
  let peers := l.filter same
  if peers.length < n then e :: l
  else match peers[v % peers.length]? with
    | some f => e :: l.filter fun g => g != f
    | none => e :: l

/-- The set of a die's cache that an entry occupies: one of 512. Which one is left open (DESIGN CHOICE, log 59: a free
value). -/
def dieSetOf (e : TlbEntry) : Nat := Config.dieSet e.asid.toNat e.vpage e.size % 512

/-- The cache of a die, of 8 ways, with an entry. The victim of a full set is left open (DESIGN CHOICE, log 59: a free
value). -/
def dieTlbPut (l : List TlbEntry) (e : TlbEntry) (v : Nat) : List TlbEntry :=
  putIn l e 8 (fun f => dieSetOf f == dieSetOf e) v

/-- The walk cache with a pointer: 64 of level 1 and 256 of level 2. The victim is left open (DESIGN CHOICE, log 59: a free
value). -/
def walkPut (l : List (Nat × Byte × Nat × BitVec 64)) (e : Nat × Byte × Nat × BitVec 64) (v : Nat) :
    List (Nat × Byte × Nat × BitVec 64) :=
  putIn l e (if e.1 = 1 then 64 else 256) (fun f => f.1 == e.1) v

/-- The number of this module (R253). -/
def State.modId (s : State) : Nat := (s.die 0).modid.toNat

/-- A table entry of 8 bytes; none where the line is marked uncorrectable. -/
def State.tableEntry (s : State) (a : Nat) : Option (BitVec 64) :=
  if s.isBad (hbmKey a) 8 then none else some (BitVec.ofNat 64 (s.load (hbmKey a) 8))

/-- The walker reads a table entry through the memory-side cache, whatever it finds (R215). -/
def State.readEntry (s : State) (a : Nat) : State × Option (BitVec 64) := (s.touch (hbmKey a) true false, s.tableEntry a)

/-- The entry of a walk cache at a level. -/
def State.walkHit (s : State) (die level : Nat) (asid : Byte) (idx : Nat) : Option (BitVec 64) :=
  ((s.die die).walk.find? fun f => f.1 == level && f.2.1 == asid && f.2.2.1 == idx).map (·.2.2.2)

/-- A pointer from the walk cache, or read and checked. Where a walk stops at a pointer no leaf has given the size of a page,
and a page of 64 KiB is taken for R219 (DESIGN CHOICE, log 67). -/
def State.walkPtr (s : State) (die level : Nat) (asid : Byte) (idx table : Nat) (align : Nat) :
    State × Except LookFail (BitVec 64) :=
  match s.walkHit die level asid idx with
  | some e => (s, .ok e)
  | none =>
    let lv := BitVec.ofNat 8 level
    match s.readEntry table with
    | (s, none) => (s, .error { cause := cEcc, level := lv })
    | (s, some e) =>
      if !bit e 0 then (s, .error { cause := cInvalid, level := lv })
      else if !ptrOk e align then (s, .error { cause := cMalformed, level := lv })
      else (s.modDie die fun d => { d with walk := walkPut d.walk (level, asid, idx, e) (Config.victim s.tick) }, .ok e)

/-- The leaf at `table`, checked, as a cache entry with its level. -/
def State.walkLeaf (s : State) (level : Nat) (asid : Byte) (va table size : Nat) : State × Except LookFail (TlbEntry × Byte) :=
  let lv := BitVec.ofNat 8 level
  match s.readEntry table with
  | (s, none) => (s, .error ⟨cEcc, lv, size⟩)
  | (s, some e) =>
    if !bit e 0 then (s, .error ⟨cInvalid, lv, size⟩)
    else if !bit e 1 || !leafOk e (level == 2) s.modId (s.feature 6) (s.feature 9) then (s, .error ⟨cMalformed, lv, size⟩)
    else (s, .ok ({ asid := asid, vpage := va / size, size := size, leaf := e }, lv))

/-- The level-1 table of an address space, by its root entry. -/
def rootBase (root : BitVec 64) : Except LookFail Nat :=
  let base := fld root 63 14 * 2 ^ 14
  if !bit root 0 then .error { cause := cInvalid, level := 1 }
  else if fld root 13 1 != 0 || !hbmUsable base then .error { cause := cMalformed, level := 1 }
  else .ok base

/-- The address of the level-2 entry of an address under a level-1 pointer, and of the level-3 entry under a level-2 one. -/
def entry2 (p1 : BitVec 64) (va : Nat) : Nat := fld p1 51 8 * 256 + 8 * (va / 2 ^ 21 % 65536)
def entry3 (p2 : BitVec 64) (va : Nat) : Nat := fld p2 51 8 * 256 + 8 * (va / 2 ^ 16 % 32)
/-- The address of its level-1 entry. -/
def entry1 (base va : Nat) : Nat := base + 8 * (va / 2 ^ 37 % 2048)

/-- A level-2 entry that is a leaf, and is not held as a pointer. -/
def State.leafAt2 (s : State) (die : Nat) (asid : Byte) (va a2 : Nat) : Bool :=
  (s.walkHit die 2 asid (va / 2 ^ 21)).isNone && match s.tableEntry a2 with
    | some e => bit e 0 && bit e 1
    | none => false

/-- A walk of the table by the walker of a die (R206, R208): the state, with what it has read and cached, and the leaf entry
with its level. -/
def State.walkVa (s : State) (die : Nat) (asid : Byte) (va : Nat) : State × Except LookFail (TlbEntry × Byte) :=
  match rootBase (sgetD s.fe.rootsUsed asid.toNat 0) with
  | .error f => (s, .error f)
  | .ok base =>
    match s.walkPtr die 1 asid (va / 2 ^ 37 % 2048) (entry1 base va) (2 ^ 19) with
    | (s, .error f) => (s, .error f)
    | (s, .ok p1) =>
      let a2 := entry2 p1 va
      if s.leafAt2 die asid va a2 then s.walkLeaf 2 asid va a2 (2 ^ 21)
      else
        match s.walkPtr die 2 asid (va / 2 ^ 21) a2 256 with
        | (s, .error f) => (s, .error f)
        | (s, .ok p2) => s.walkLeaf 3 asid va (entry3 p2 va) (2 ^ 16)

/-- The addresses of the table entries that a walk would read. -/
def State.walkReads (s : State) (die : Nat) (asid : Byte) (va : Nat) : List Nat :=
  match rootBase (sgetD s.fe.rootsUsed asid.toNat 0) with
  | .error _ => []
  | .ok base =>
    let a1 := entry1 base va
    let hit1 := s.walkHit die 1 asid (va / 2 ^ 37 % 2048)
    let first := if hit1.isSome then [] else [a1]
    match hit1.or (s.tableEntry a1) with
    | none => first
    | some p1 =>
      if hit1.isNone && (!bit p1 0 || !ptrOk p1 (2 ^ 19)) then first
      else
        let a2 := entry2 p1 va
        let hit2 := s.walkHit die 2 asid (va / 2 ^ 21)
        let second := first ++ (if hit2.isSome then [] else [a2])
        match hit2.or (s.tableEntry a2) with
        | none => second
        | some p2 =>
          if hit2.isNone && (bit p2 1 || !bit p2 0 || !ptrOk p2 256) then second else second ++ [entry3 p2 va]

/-- The addresses of the table entries that a lookup for a core would read: none where a cache has the page. -/
def State.lookupReads (s : State) (c : Nat) (asid : Byte) (va : Nat) : List Nat :=
  if (tlbFind (s.core c).tlb asid va).isSome || (tlbFind (s.die (dieOf c)).dtlb asid va).isSome then []
  else s.walkReads (dieOf c) asid va

/-- A lookup for core `c`: its cache, the die's, then a walk; caches are filled with a valid entry (R213, R214). The
answer is the leaf entry, and what fails of R212. -/
def State.lookup (s : State) (c : Nat) (asid : Byte) (va : Nat) (k : AccKind) :
    State × Except LookFail TlbEntry :=
  let d := dieOf c
  let fill (s : State) (e : TlbEntry) (toDie : Bool) : State :=
    let s := s.modCore c fun q => { q with tlb := tlbPut q.tlb 64 e }
    if toDie then s.modDie d fun q => { q with dtlb := dieTlbPut q.dtlb e (Config.victim s.tick) } else s
  let test (s : State) (e : TlbEntry) (lv : Byte) : State × Except LookFail TlbEntry :=
    match leafTest e.leaf k lv with
    | some f => (s, .error { f with size := e.size })
    | none => (s, .ok e)
  match tlbFind (s.core c).tlb asid va with
  | some e => test (fill s e false) e 0
  | none =>
    match tlbFind (s.die d).dtlb asid va with
    | some e => test (fill s e true) e 0
    | none =>
      match s.walkVa d asid va with
      | (s, .error f) => (s, .error f)
      | (s, .ok (e, lv)) => test (fill s e true) e lv

/-- A lookup that no core makes (the host, a queue, a hart): the die's cache and a walk on die 0. -/
def State.lookupDie (s : State) (d : Nat) (asid : Byte) (va : Nat) (k : AccKind) : State × Except LookFail TlbEntry :=
  match tlbFind (s.die d).dtlb asid va with
  | some e =>
    match leafTest e.leaf k 0 with
    | some f => (s, .error { f with size := e.size })
    | none => (s, .ok e)
  | none =>
    match s.walkVa d asid va with
    | (s, .error f) => (s, .error f)
    | (s, .ok (e, lv)) =>
      let s := s.modDie d fun q => { q with dtlb := dieTlbPut q.dtlb e (Config.victim s.tick) }
      match leafTest e.leaf k lv with
      | some f => (s, .error { f with size := e.size })
      | none => (s, .ok e)

/-! ### Where a translated byte lies -/

/-- The key of a virtual address under a leaf. -/
def TlbEntry.key (e : TlbEntry) (va : Nat) : Nat :=
  let a := leafFrame e.leaf + va % e.size
  match leafLoc e.leaf with
  | 0 => hbmKey a
  | 1 => hostKey a
  | _ => podKey (leafModule e.leaf) a

/-- The home of a page (R230): 4,096 + a die, 8,192 the host, 8,448 + a module. -/
def TlbEntry.home (e : TlbEntry) : Nat :=
  match leafLoc e.leaf with
  | 0 => 4096 + leafFrame e.leaf / 2 ^ 39
  | 1 => 8192
  | _ => 8448 + leafModule e.leaf

/-- The ordering kind of a page, 3 taken as RC. -/
def kindOf (k : BitVec 2) : BitVec 2 := if k = 3 then 1 else k
def TlbEntry.kind (e : TlbEntry) : BitVec 2 := kindOf (e.leaf.extractLsb' 5 2)
/-- NC of a page (R210). -/
def TlbEntry.nc (e : TlbEntry) : Bool := bit e.leaf 9

/-! ### PF records (R219) -/

/-- What a PF record reports. -/
structure PfInfo where
  cause : Byte
  kind : AccKind
  level : Byte
  rep : Bool := false
  engine : Bool := false
  lanes : W := 0
  va : Nat
  pages : Nat := 1
  pc : PC
  deriving DecidableEq, Repr

/-- Post a PF record for a context, with the next record number; the number is returned. -/
def State.postPf (s : State) (c x : Nat) (asid : Byte) (p : PfInfo) : W × State :=
  let (seq, s) := s.takeSeq c
  let acc : Byte := p.kind.code + (if p.rep then 4 else 0) + (if p.engine then 8 else 0) + 16 * p.level
  let rc : Rec := { code := 0x80, b1 := p.cause, b2 := acc, gang := gidReg x, info := p.lanes, pc := BitVec.ofNat 48 p.va,
                    asid := asid, b15 := BitVec.ofNat 8 p.pages, aux := p.pc, core := gidOf c, seq := seq }
  (seq, s.post (ringOf c x) rc)

end Sys2Proof.Machine
end

