-- ==== Sys2Proof/Machine/Access.lean ====
section
/-! DEFINITION. Sys2Proof/Machine/Access.lean: buffer records (R187 to R189), the checks of a memory instruction (R190,
R191), its lines (R192), outstanding counts (R237), and sending, performing and completing an access (R193, R216, R217,
R238). -/

namespace Sys2Proof.Machine

/-! ### Buffer records (R187, R188) -/

/-- Bits `lo` to `lo + n − 1` of a record. -/
def recBits (r : BitVec 128) (lo n : Nat) : Nat := (r.extractLsb' lo n).toNat
def recBase (r : BitVec 128) : Nat := recBits r 0 48
def recKind (r : BitVec 128) : Nat := recBits r 48 2
def recStrict (r : BitVec 128) : Bool := bit r 50
def recRo (r : BitVec 128) : Bool := bit r 51
def recSwz (r : BitVec 128) : Nat := recBits r 52 2
def recFmt (r : BitVec 128) : Byte := r.extractLsb' 56 8
def recStride (r : BitVec 128) : Nat := recBits r 64 24
def recEsize (r : BitVec 128) : Nat := recBits r 88 8
def recExtent (r : BitVec 128) : Nat := recBits r 96 32

/-- A malformed record (R188). -/
def recBad (r : BitVec 128) : Bool :=
  recKind r == 3 || recSwz r == 3 || recEsize r == 0 || (recSwz r == 2 && recExtent r == 0) || tagBad (recFmt r)

/-- The record's format is MXF6. -/
def recMx (r : BitVec 128) : Bool := fmtOf (recFmt r) == 10 || fmtOf (recFmt r) == 11

/-- The first global address of a core's slice (R181). -/
def sliceBase (c : Nat) : Nat := c * 2 ^ 21

/-- A lane's place (R189): out of bounds, or its address and whether a `local` lane overruns the pinned region. -/
inductive Place where
  | oob
  | at (addr : Nat) (beyond : Bool)
  deriving DecidableEq, Repr

/-- lane_address of R189 for a region of `size` bytes at `pin` of core `c`. -/
def laneAddress (r : BitVec 128) (c pin size idx width : Nat) : Place :=
  let i := if recSwz r = 2 then idx % recExtent r else idx
  if recExtent r ≤ i then .oob
  else
    let off := i * recStride r
    let off := if recSwz r = 1 then Nat.xor off (off / 512 % 32 * 16) else off
    match recKind r with
    | 0 => .at ((recBase r + off) % 2 ^ 48) false
    | 1 => .at ((recBase r % 2 ^ 32 + off) % 2 ^ 32) false
    | _ =>
      let o := recBase r % 2 ^ 21 + off
      .at (sliceBase c + pin + o) (size < o + width)

/-- The pinned base and size of a context's crew; the plaza context has none. -/
def State.pinOf (s : State) (c x : Nat) : Nat × Nat :=
  if isPlaza x then (0, 0) else ((s.crew c (crewSlot x)).pin, (s.crew c (crewSlot x)).sram)

/-! ### Regions (R185, R186) -/

/-- The core that a global SRAM address names, and its region. -/
def coreOfAddr (a : Nat) : Nat := a / 2 ^ 21
def regionIdx (a : Nat) : Nat := a % 2 ^ 21 / 65536
/-- An address whose die field names a die (R181). -/
def sramExists (a : Nat) : Bool := a / 2 ^ 27 < 24

/-- A region that a launch slot may access (R186). -/
def State.regionOk (s : State) (launch : Byte) (a : Nat) : Bool :=
  let r := vget (s.core (coreOfAddr a)).regions (regionIdx a) (1, true, 0)
  r.2.1 || r.2.2 == launch

/-- The ordering kind of the region of an address (R230). -/
def State.regionKind (s : State) (a : Nat) : BitVec 2 :=
  kindOf (vget (s.core (coreOfAddr a)).regions (regionIdx a) (1, true, 0)).1

/-- The region check for a context; a wave's accesses are made for no launch and are not refused (log 17). -/
def State.regionFor (s : State) (c x a : Nat) : Bool := isPlaza x || s.regionOk ((s.launchOf c x).setWidth 8) a

/-! ### The checks of R190 -/

/-- The lanes of an instruction after the checks: those in bounds with their addresses, and the mask of those out of
bounds. -/
structure Placed where
  lanes : List (Nat × Nat)
  oob : W

/-- Checks 1 to 7 of R190 over (lane, index) pairs; `mx` holds for a vector load or store through an MXF6 record. -/
def checkAccess (s : State) (c x : Nat) (r : BitVec 128) (writes tagsOk mx : Bool) (width : Nat)
    (idx : List (Nat × W)) : Except Stop Placed := do
  need (!recBad r) (.code eRec)
  need tagsOk (.code eFmt)
  need (!(writes && recRo r)) (.code ePerm)
  let (pin, size) := s.pinOf c x
  let ps := idx.map fun p => (p.1, laneAddress r c pin size p.2.toNat width)
  let inb := ps.filterMap fun p => match p.2 with
    | .oob => none
    | .at a o => some (p.1, a, o)
  need (!recStrict r || inb.length == ps.length) (.code eBnd)
  need (mx || inb.all fun p => p.2.1 % width == 0) (.code eAlign)
  let sram := recKind r != 0
  need (!sram || inb.all fun p => !p.2.2 && sramExists p.2.1 && sramExists (p.2.1 + width - 1)) (.code ePerm)
  need (!sram || inb.all fun p => s.regionFor c x p.2.1 && s.regionFor c x (p.2.1 + width - 1)) (.code ePerm)
  pure { lanes := inb.map fun p => (p.1, p.2.1)
         oob := maskOf 32 fun l => ps.any fun p => p.1 == l && p.2 == .oob }

/-! ### Lines (R192) -/

/-- The bytes of the space of an access. -/
def Access.space (a : Access) : Nat := if a.dev then 2 ^ 48 else 2 ^ 32

/-- The bytes that a lane covers: through an MXF6 record lane 31 stores one (R198). -/
def Access.laneWidth (a : Access) (l : Nat) : Nat := if a.mxf6 && a.op == .store && l == 31 then 1 else a.width

/-- Insert into a rising list of line bases. -/
def insLine (b : Nat) : List Nat → List Nat := insNat b

/-- Byte `i` of a lane lies at this address. -/
def Access.byteAddr (a : Access) (l : LaneAcc) (i : Nat) : Nat := (l.addr + i) % a.space

/-- The bases of the lines that hold a lane's bytes. -/
def Access.laneLines (a : Access) (l : LaneAcc) : List Nat :=
  (List.range (a.laneWidth l.lane)).foldl (fun acc i => insLine (a.byteAddr l i / 128 * 128) acc) []

/-- The lines of an access, in rising order, with the lanes of each. -/
def Access.mkLines (s : State) (a : Access) : List LineAcc :=
  let bases := a.lanes.foldl (fun acc l => (a.laneLines l).foldl (fun acc b => insLine b acc) acc) []
  bases.map fun b =>
    let m := maskOf 32 fun i => a.lanes.any fun l => l.lane == i && (a.laneLines l).contains b
    if a.dev then { base := b, lanes := m }
    else { base := b, key := sramKey b, kind := s.regionKind b, home := coreOfAddr b, lanes := m, st := .sent }

/-! ### Counts (R237) -/

/-- A home lies within the unit of scope `sc` that holds core `c` (R230). -/
def homeWithin (c home sc : Nat) : Bool :=
  let die := if home < 4096 then some (home / 64) else if home < 8192 then some (home - 4096) else none
  match sc with
  | 0 => home == c
  | 1 => home < 4096 && home / 4 == c / 4
  | 2 => die == some (dieOf c)
  | 3 => home < 8448
  | _ => true

/-- The place of a die in the grid of 6 columns and 4 rows (R6). -/
def dieCol (d : Nat) : Nat := d % 6
def dieRow (d : Nat) : Nat := d / 6

/-- Two dies share an edge of the grid (R10). -/
def adjacent (a b : Nat) : Bool :=
  a < 24 && b < 24 && ((dieRow a == dieRow b && (a + 1 == b || b + 1 == a)) || a + 6 == b || b + 6 == a)

/-- The die after `a` on the way to die `b`: column by column, then row by row (R253). -/
def nextDie (a b : Nat) : Nat :=
  if dieCol a < dieCol b then a + 1 else if dieCol b < dieCol a then a - 1
  else if a < b then a + 6 else if b < a then a - 6 else a

/-- The bridge between adjacent dies (R10): 4,096 + twice the lower die, and one more where they lie in one column. -/
def bridgeOf (a b : Nat) : Nat := 4096 + 2 * min a b + (if dieCol a = dieCol b then 1 else 0)

/-- The 38 bridges of a module. -/
def bridgesAll : List Nat :=
  (List.range 24).flatMap fun a => ((List.range 24).filter fun b => a < b && adjacent a b).map (bridgeOf a)

/-! ### Routes over the meshes (R253, R256) -/

/-- The column and row of a core's routers on the meshes of its die. -/
def meshCol (c : Nat) : Nat := 2 * (c % 64 / 4 % 4) + c % 2
def meshRow (c : Nat) : Nat := 2 * (c % 64 / 16) + c / 2 % 2
/-- The core of a die at a column and row. -/
def meshAt (d col row : Nat) : Nat := 64 * d + 16 * (row / 2) + 4 * (col / 2) + 2 * (row % 2) + col % 2

/-- The core whose router a packet reaches next on its way from core `a` to core `b`: along its row and then its column, and to
another die straight on to the edge that faces the next die. Where on that edge a bridge attaches is the implementation's. -/
def nextHop (a b : Nat) : Nat :=
  let d := dieOf a
  let x := meshCol a
  let y := meshRow a
  let e := nextDie d (dieOf b)
  if e = d then
    if x < meshCol b then meshAt d (x + 1) y else if meshCol b < x then meshAt d (x - 1) y
    else if y < meshRow b then meshAt d x (y + 1) else if meshRow b < y then meshAt d x (y - 1) else a
  else if e = d + 1 then (if x = 7 then meshAt e 0 y else meshAt d (x + 1) y)
  else if e + 1 = d then (if x = 0 then meshAt e 7 y else meshAt d (x - 1) y)
  else if d < e then (if y = 7 then meshAt e x 0 else meshAt d x (y + 1))
  else (if y = 0 then meshAt e x 7 else meshAt d x (y - 1))

/-- The cores whose routers a packet passes from core `a` to core `b`, both among them; `n` bounds the hops. -/
def route : Nat → Nat → Nat → List Nat
  | 0, a, _ => [a]
  | n + 1, a, b => if a = b then [a] else a :: route n (nextHop a b) b

/-- A packet from core `a` to core `b` leaves on a mesh, 0 for requests and 1 for replies: it will send a wake signal to the
routers of its route (R256). Router 2c of the module is that of core c on the request mesh, and router 2c + 1 that on the
reply mesh. -/
def State.wakeRoute (s : State) (mesh a b : Nat) : State :=
  { s with wakes := (route 128 a b).foldl (fun l k => insNat (2 * k + mesh) l) s.wakes }

/-- The die of an Ethernet port: one on each die of the edge of the grid (R13), in the order of their numbers (log 66). -/
def portDie (p : Nat) : Nat := [0, 1, 2, 3, 4, 5, 6, 11, 12, 17, 18, 19, 20, 21, 22, 23].getD p 0

/-- The Ethernet port through which a die's traffic to a module leaves (R253). -/
def State.portOf (s : State) (d m : Nat) : Nat := (vget (s.die d).podRoute m 0).toNat

/-- The memory controller of a die, and what lies behind the links of die 0, by the core at whose router they attach (log 66). -/
def hbmCore (d : Nat) : Nat := 64 * d + Config.hbmRouter d % 64
def hostCore : Nat := Config.hostRouter % 64

/-- The object table of a die, by the core at whose router it attaches (log 66). -/
def tableCore (d : Nat) : Nat := 64 * d + Config.tableRouter d % 64

/-- The core at whose router a packet of core `c` leaves the meshes for a home, or of a packet from there arrives: host traffic
routes to die 0, and that of another module to the port that the die's table names for it (R253). -/
def State.homeCore (s : State) (c home : Nat) : Nat :=
  if home < 4096 then home
  else if home < 8192 then hbmCore (home - 4096)
  else if home < 8448 then hostCore
  else
    let p := s.portOf (dieOf c) (home - 8448)
    64 * portDie p + Config.portRouter p % 64

/-- A request leaves a core for a home, and its reply leaves the home (R256); within the core's own SRAM no packet does. -/
def State.wakeHome (s : State) (c home : Nat) : State := if home = c then s else s.wakeRoute 0 c (s.homeCore c home)
def State.wakeReply (s : State) (c home : Nat) : State := if home = c then s else s.wakeRoute 1 (s.homeCore c home) c

/-- The home of a byte by its key (R230). -/
def keyHome (k : Nat) : Nat :=
  if k < 2 ^ 64 then coreOfAddr k else if k < 2 ^ 65 then 4096 + (k - 2 ^ 64) / 2 ^ 39 else if k < 3 * 2 ^ 64 then 8192
  else 8448 + (k / 2 ^ 64 - 3)

/-- An engine of a core reads or writes bytes of one home: its request and the reply. -/
def State.wakeTrip (s : State) (c : Nat) (ks : List Nat) : State :=
  match ks with
  | [] => s
  | k :: _ => (s.wakeHome c (keyHome k)).wakeReply c (keyHome k)

/-- The packets of lines leave for their homes. -/
def State.wakeLines (s : State) (c : Nat) (ls : List LineAcc) : State := ls.foldl (fun s l => s.wakeHome c l.home) s

/-- The die bridge or Ethernet port through which an access of a core to a home leaves its die, if it does (R237, R253): the
first bridge on the way to a home on another die, or 8,192 + the port that the die's pod route table names for another
module. The home of a HOST page is the module (R230), so no unit takes over the count of its accesses, though they route to
die 0. -/
def State.exitUnit (s : State) (c home : Nat) : Option Nat :=
  let d := dieOf c
  if 8448 ≤ home then some (8192 + s.portOf d (home - 8448))
  else
    let die := if home < 4096 then home / 64 else home - 4096
    if home < 8192 && die != d then some (bridgeOf d (nextDie d die)) else none

/-- Key of a bridge's count. -/
def bridgeKey (unit c x path sc : Nat) : Nat := ((unit * 2048 + c) * 128 + x) * 32 + 5 * path + sc

/-- Change the counts of path `p` for one access to a home, at every scope whose unit holds the home. -/
def State.countHome (s : State) (c x p home : Nat) (f : Nat → Nat) : State :=
  (List.range 5).foldl (fun s sc => if homeWithin c home sc then s.modCount c x (5 * p + sc) f else s) s

/-- Change a bridge's counts in the same way. -/
def State.countBridge (s : State) (unit c x p home : Nat) (f : Nat → Nat) : State :=
  (List.range 5).foldl (fun s sc =>
    if homeWithin c home sc then
      let k := bridgeKey unit c x p sc
      let n := f (sgetD s.bridges k 0)
      { s with bridges := if n = 0 then sdel s.bridges k else sput s.bridges k n }
    else s) s

/-- Some bridge or port holds a count of path `p` for a gang (R240). -/
def State.bridgeHolds (s : State) (c x p : Nat) : Bool :=
  s.bridges.any fun e => e.1 / 32 % 2 ^ 18 == c * 128 + x && e.1 % 32 / 5 == p && e.2 != 0

/-- The wait of R240 for the paths of a mask at a scope is over. -/
def State.fenceDone (s : State) (c x : Nat) (paths : BitVec 6) (sc : Nat) : Bool :=
  (List.range 6).all fun p =>
    !bit paths p || (vget (s.gang c x).counts (5 * p + sc) 0 == 0 && (sc < 3 || !s.bridgeHolds c x p))

/-! ### Sending (R214, R217, R238) -/

def State.acc (s : State) (c n : Nat) : Option Access := sget (s.core c).accs n
def State.setAcc (s : State) (c n : Nat) (a : Access) : State := s.modCore c fun k => { k with accs := sput k.accs n a }

/-- The access type of R219. -/
def Access.kind (a : Access) : AccKind :=
  match a.op with
  | .load => .load
  | .store => .store
  | .atomic _ => .atomic

/-- Count the lines of a list on the LS path. -/
def State.countLines (s : State) (c x : Nat) (ls : List LineAcc) : State :=
  ls.foldl (fun s l => s.countHome c x 0 l.home (· + 1)) s

/-- The first address of the 64 KiB unit of an address. -/
def pageOf (a : Nat) : Nat := a / 65536 * 65536

/-- Look up the lines of an access that are not translated, page by page in rising order: the state, the lines with
those translated marked as sent, and the failures (R212, R214). -/
def State.lookupLines (s : State) (c : Nat) (asid : Byte) (k : AccKind) :
    List LineAcc → State × List LineAcc × List (Nat × LookFail)
  | [] => (s, [], [])
  | l :: rest =>
    if l.st != .look && l.st != .failed then
      let (s, ls, fs) := s.lookupLines c asid k rest
      (s, l :: ls, fs)
    else
      match s.lookup c asid l.base k with
      | (s, .ok e) =>
        let (s, ls, fs) := s.lookupLines c asid k rest
        let l' := { l with key := e.key l.base, kind := e.kind, home := e.home, nc := e.nc, st := .sent }
        (s, { l' with page := e.vpage * e.size, psize := e.size } :: ls, fs)
      | (s, .error f) =>
        let (s, ls, fs) := s.lookupLines c asid k rest
        (s, { l with st := .failed } :: ls, (l.base, f) :: fs)

/-- The lanes of the lines whose lookups failed. -/
def failedLanes (ls : List LineAcc) : W := ls.foldl (fun m l => if l.st == .failed then m ||| l.lanes else m) 0

/-- Split the lines newly translated into the part of the finished lanes, which is sent in its place, and that of the
unfinished ones, which is looked up again (R217) and stands behind all, so that every line on its way keeps its number. The
status with each line is the one that it had before. -/
def splitLines (unf : W) (l : List (LineAcc × LineSt)) : List LineAcc :=
  let cut (p : LineAcc × LineSt) : Bool :=
    p.1.st == .sent && (p.2 == .look || p.2 == .failed) && p.1.lanes &&& unf != 0 && p.1.lanes &&& ~~~unf != 0
  let kept := l.map fun p =>
    if cut p then { p.1 with lanes := p.1.lanes &&& ~~~unf }
    else if p.1.st == .sent && (p.2 == .look || p.2 == .failed) && p.1.lanes &&& unf != 0 then { p.1 with st := .failed }
    else p.1
  kept ++ (l.filter cut).map fun p => { p.1 with lanes := p.1.lanes &&& unf, st := .failed }

/-- The result of looking up an access: the state with its finished lanes sent and counted, the unfinished lanes, and
the failures in rising order of page. -/
def State.translate (s : State) (c n : Nat) (a : Access) : State × W × List (Nat × LookFail) :=
  let (s, ls, fs) := s.lookupLines c (s.asidOf c a.ctx) a.kind a.lines
  let unf := failedLanes ls
  let was := a.lines.map (·.st)
  let pairs := ls.zip was
  let ls' := splitLines unf pairs
  let fresh := (pairs.filterMap fun p =>
    if p.1.st == .sent && (p.2 == .look || p.2 == .failed) && p.1.lanes &&& ~~~unf != 0 then some p.1 else none)
  (((s.setAcc c n { a with lines := ls' }).countLines c a.ctx fresh).wakeLines c fresh, unf, fs)

/-- The first address of the page of a failed lookup. -/
def failPage (f : Nat × LookFail) : Nat := f.1 / f.2.size * f.2.size

/-- Distinct pages of failures, as a count (R219). -/
def failPages (fs : List (Nat × LookFail)) : Nat := (fs.foldl (fun acc f => insNat (failPage f) acc) []).length

/-- The failure on the lowest page: the first one (R219). -/
def firstFail : List (Nat × LookFail) → Option (Nat × LookFail)
  | [] => none
  | f :: r => match firstFail r with
    | some g => if failPage g < failPage f then some g else some f
    | none => some f

/-- The lowest address of an unfinished lane on the page of a failure (R219). -/
def lowestOn (a : Access) (unf : W) (f : Nat × LookFail) : Nat :=
  let xs := (a.lanes.filter fun l => bit unf l.lane).flatMap fun l =>
    ((List.range (a.laneWidth l.lane)).map (a.byteAddr l)).filter fun b => b / f.2.size == f.1 / f.2.size
  xs.foldl min (failPage f + f.2.size - 1)

/-- The lanes that a record reports: a line fill has none (R202). -/
def AccDst.lanes (d : AccDst) (m : W) : W :=
  match d with
  | .prm _ => 0
  | _ => m

/-- Post the record of a failed access and park the gang on it (R217). -/
def State.pageFault (s : State) (c x n : Nat) (a : Access) (unf : W) (fs : List (Nat × LookFail)) (rep : Bool) : State :=
  match firstFail fs with
  | none => s
  | some f =>
    let va := lowestOn a unf f
    let m := a.dst.lanes unf
    let (seq, s) := s.postPf c x (s.asidOf c x)
      { cause := f.2.cause, kind := a.kind, level := f.2.level, rep := rep, lanes := m, va := va, pages := failPages fs,
        pc := (s.gang c x).pc }
    s.modGang c x fun g =>
      { g.modGroup (fun q => { q with park := some (.pageFault, 0) }) with
        look := none, pf := some { seq := seq, lanes := m, what := .access n, va := BitVec.ofNat 48 va } }

/-- The destination code that the window records for an access. -/
def AccDst.code : AccDst → Byte
  | .v first _ => BitVec.ofNat 8 first
  | .s i => BitVec.ofNat 8 (64 + i)
  | _ => 0x7f

/-- An acquire of the gang that issued before access `n`, on a location that is not UO, has not returned its value (R233,
R238). -/
def State.acqBefore (s : State) (c x n : Nat) : Bool :=
  (s.core c).accs.any fun p => p.1 < n && p.2.ctx == x && p.2.acq && p.2.lines.any fun l => l.kind != 2 && l.st != .done

/-- An acquire that issued before the gang's newest access has not returned its value. -/
def State.acqAhead (s : State) (c x : Nat) : Bool :=
  s.acqBefore c x (((s.core c).accs.filter fun p => p.2.ctx == x).foldl (fun m p => max m p.1) 0)

/-- A memory instruction whose lanes are all sent retires, or waits on as the second fence of a strong access; a `prm` waits
for its line (R204). One that has come to know only now that its locations are not UO waits for an acquire that issued before it:
it holds its lines back, and its gang parks (R238). -/
def State.sentAll (s : State) (c x : Nat) (a : Access) : State :=
  let s := s.modGang c x fun g => { g with look := none, pf := none }
  let waits (k : ParkKind) (i : Byte) : State := s.modGang c x fun g => g.modGroup fun q => { q with park := some (k, i) }
  if a.awaited then waits .engine 4
  else if a.strong then waits .fence 1
  else if a.lines.any (fun l => l.kind != 2) && s.acqAhead c x then waits .engine 9
  else State.retire c x { s := s, dest := a.dst.code }

/-- The cached pages of a core on which the lines of a list lie, without repeats. -/
def State.hitPages (s : State) (c : Nat) (asid : Byte) (ls : List LineAcc) : List TlbEntry :=
  ls.foldl (fun acc l => match tlbFind (s.core c).tlb asid l.base with
    | some e => if acc.contains e then acc else e :: acc
    | none => acc) []

/-- Whether every page of an access hits the core's cache and passes, on at most 4 pages: lines of one page share a lookup
(R212, R214). -/
def State.allHit (s : State) (c : Nat) (asid : Byte) (k : AccKind) (ls : List LineAcc) : Bool :=
  (s.hitPages c asid (ls.filter fun l => l.st == .look)).length ≤ 4 && ls.all fun l => l.st != .look ||
    match tlbFind (s.core c).tlb asid l.base with
    | some e => (leafTest e.leaf k 0).isNone
    | none => false

/-- Units that hold, or will hold, a count of earlier stores of a gang: a release marks them (R238). -/
def State.markUnits (s : State) (c x : Nat) : List Nat :=
  (s.core c).accs.foldl (fun acc p =>
    if p.2.ctx != x || p.2.op == .load then acc
    else p.2.lines.foldl (fun acc l =>
      match l.bridge.or (s.exitUnit c l.home) with
      | some u => if l.st == .sent || l.st == .performed then insNat u acc else acc
      | none => acc) acc) []

/-- Line `e` of an earlier access `b` of the gang holds back line `l` of access `a` (R233, R235, R236, R238): marks and
shared locations order lines of which neither is UO, and SO orders SO. -/
def lineHolds (c : Nat) (a b : Access) (l e : LineAcc) : Bool :=
  (l.kind == 0 && e.kind == 0) ||
  (l.kind != 2 && e.kind != 2 && ((a.rel && homeWithin c e.home a.scope) || b.acq || e.key == l.key))

/-- An earlier line holds back line `l` of access `n`, until it is acknowledged or has returned its value (R238). -/
def State.heldBack (s : State) (c n : Nat) (a : Access) (l : LineAcc) : Bool :=
  (s.core c).accs.any fun p =>
    p.1 < n && p.2.ctx == a.ctx && p.2.lines.any fun e =>
      e.st != .done && e.st != .look && e.st != .failed && lineHolds c a p.2 l e

/-- A release on a location that is not UO waits for the reports of the units it has marked (R238). -/
def Access.reportsDue (a : Access) (l : LineAcc) : Bool := a.rel && l.kind != 2 && !(a.marked.all a.reported.contains)

/-- A local line of an access is held back: its instruction takes no frames yet (R184). -/
def State.heldAtHome (s : State) (c n : Nat) (a : Access) : Bool :=
  a.lines.any fun l => l.home == c && l.st == .sent && (s.heldBack c n a l || a.reportsDue l)

/-- Send an access: its destination goes empty, and its lines leave or are looked up. The result retires the
instruction, or parks it while lookups last (R214). -/
def State.send (s : State) (c x : Nat) (a : Access) : Done :=
  let n := (s.core c).nextAcc
  let a := { a with lines := a.mkLines s, slot := s.slotOf c x, binds := (s.gang c x).binds
                    marked := if a.rel && 3 ≤ a.scope then s.markUnits c x else [] }
  let a := { a with place := if s.heldAtHome c n a then none else some n }
  let s := s.modCore c fun k => { k with nextAcc := n + 1 }
  let s := match a.dst with
    | .v first cnt => s.emptyV c x first cnt
    | .s i => s.emptyS c x i
    | _ => s
  let after (s : State) : Done :=
    if a.strong then { s := s, parks := some (.fence, 1) } else { s := s, dest := a.dst.code }
  if a.lines.isEmpty && a.dst == .none then after s
  else if !a.dev then after (((s.setAcc c n a).countLines c x a.lines).wakeLines c a.lines)
  else if s.allHit c (s.asidOf c x) a.kind a.lines then after (s.translate c n a).1
  else { s := (s.setAcc c n a).modGang c x fun g => { g with look := some (.access n) }, parks := some (.pageFault, 0) }

/-- An acquire of the gang on a location that is not UO has not returned its value (R233, R238). -/
def State.acqPending (s : State) (c x : Nat) : Bool :=
  (s.core c).accs.any fun p => p.2.ctx == x && p.2.acq && p.2.lines.any fun l => l.kind != 2 && l.st != .done

/-- Some line of an access is known, as it issues, to lie on a location that is not UO: its region tells, or a cached leaf
(R230). -/
def Access.ordered (a : Access) (s : State) (c : Nat) : Bool :=
  (a.mkLines s).any fun l =>
    if a.dev then match tlbFind (s.core c).tlb (s.asidOf c a.ctx) l.base with
      | some e => e.kind != 2
      | none => false
    else l.kind != 2

/-- The issue of an access does not wait. A later access is not sent while an acquire's value has not returned, where neither
is UO; one whose pages must still be looked up is held back once they are known. A full queue takes none (R184, R238). -/
def State.mayIssueMem (s : State) (c x : Nat) (a : Access) : Bool :=
  let k := s.core c
  let slot := s.slotOf c x
  !(a.ordered s c && s.acqPending c x) &&
  (k.accs.filter fun p => p.2.slot == slot && p.2.lines.any fun l => l.home == c && l.st == .sent).length < 8

/-! ### Performing a line (R192, R193, R216) -/

/-- A line waits for its turn in the queue of its issue slot (R184): its instruction has taken no frames yet, or one that took
its frames before it has a local line that has not gone. -/
def State.queuedBehind (s : State) (c : Nat) (a : Access) (l : LineAcc) : Bool :=
  !a.dev && l.home == c && match a.place with
    | none => true
    | some n => (s.core c).accs.any fun p =>
        p.2.slot == a.slot && !p.2.dev && (p.2.place.any fun m => m < n) && p.2.lines.any fun e => e.home == c && e.st == .sent

/-- The memory unit lets a line go to its home. -/
def State.mayLeave (s : State) (c n : Nat) (a : Access) (l : LineAcc) : Bool :=
  l.st == .sent && !s.heldBack c n a l && !a.reportsDue l && !s.queuedBehind c a l

/-- The instructions that R238 has held back and lets go now take their places in the queues of their slots, behind those that
have taken theirs (R184). -/
def State.takePlaces (s : State) (c : Nat) (k : Core) : Core :=
  k.accs.foldl (fun k p =>
    if p.2.place.isNone && !s.heldAtHome c p.1 p.2 then
      { k with accs := sput k.accs p.1 { p.2 with place := some k.nextAcc }, nextAcc := k.nextAcc + 1 }
    else k) k

/-- The lane value of a load. -/
def loadValue (conv : LoadConv) (width data : Nat) : W :=
  match conv with
  | .zext => BitVec.ofNat 32 data
  | .sext => if width = 1 then (BitVec.ofNat 8 data).signExtend 32 else (BitVec.ofNat 16 data).signExtend 32
  | .f16 => (widen (fp16.dec data)).1

/-- The new word of an atomic (R199, R200). -/
def atomNew (op : AtomOp) (old d d2 : W) : W :=
  match op with
  | .add => old + d
  | .fadd => (opFadd .ne old d).1
  | .min => minS old d
  | .max => maxS old d
  | .and => old &&& d
  | .or => old ||| d
  | .xchg => d
  | .cas => if old = d then d2 else old

/-- The bytes of a lane that lie in a line: (byte index, key). -/
def Access.bytesIn (a : Access) (ln : LineAcc) (l : LaneAcc) : List (Nat × Nat) :=
  (List.range (a.laneWidth l.lane)).filterMap fun i =>
    let b := a.byteAddr l i
    if b / 128 * 128 = ln.base then some (i, ln.key + (b - ln.base)) else none

/-- A number with byte `i` set. -/
def setByteAt (x i : Nat) (b : Byte) : Nat := x - x / 256 ^ i % 256 * 256 ^ i + b.toNat * 256 ^ i

/-- A higher lane of a store has stored a byte in its place already, when the line was split (R217): its value remains (R192). -/
def Access.stored (a : Access) (base : Nat) (l : LaneAcc) (b : Nat) : Bool :=
  a.lines.any fun e => e.base == base && (e.st == .performed || e.st == .done) && a.lanes.any fun h =>
    l.lane < h.lane && bit e.lanes h.lane && (List.range (a.laneWidth h.lane)).any fun i => a.byteAddr h i == b

/-- Perform one lane's part of a line: the state, the lane with its data, and whether a bad word was read. -/
def performLane (s : State) (a : Access) (ln : LineAcc) (l : LaneAcc) : State × LaneAcc × Bool :=
  let bs := a.bytesIn ln l
  match a.op with
  | .load =>
    (s, { l with data := bs.foldl (fun d p => setByteAt d p.1 (memRead s.mem p.2)) l.data },
     bs.any fun p => s.isBad p.2 1)
  | .store =>
    let bs := bs.filter fun p => !a.stored ln.base l (a.byteAddr l p.1)
    ({ s with mem := bs.foldl (fun m p => memWrite m p.2 (BitVec.ofNat 8 (l.data / 256 ^ p.1))) s.mem }, l, false)
  | .atomic op =>
    match bs with
    | [] => (s, l, false)
    | (_, k) :: _ =>
      let old : W := BitVec.ofNat 32 (s.load k 4)
      if s.isBad k 4 then (s, { l with data := old.toNat }, true)
      else (s.store k 4 (atomNew op old (BitVec.ofNat 32 l.data) (BitVec.ofNat 32 l.data2)).toNat, { l with data := old.toNat }, false)

/-- Perform the lanes of a line in ascending order. -/
def performLanes (a : Access) (ln : LineAcc) : State → List LaneAcc → State × List LaneAcc × Bool
  | s, [] => (s, [], false)
  | s, l :: rest =>
    if bit ln.lanes l.lane then
      let (s, l', bad) := performLane s a ln l
      let (s, ls, bad') := performLanes a ln s rest
      (s, l' :: ls, bad || bad')
    else
      let (s, ls, bad) := performLanes a ln s rest
      (s, l :: ls, bad)

/-- Clear the marks of the words of a line that a store has covered whole (R193). -/
def clearCovered (s : State) (a : Access) (ln : LineAcc) : State :=
  let keys := (a.lanes.filter fun l => bit ln.lanes l.lane).flatMap fun l => (a.bytesIn ln l).map (·.2)
  { s with bad := s.bad.filter fun w => !((List.range (protSize w)).all fun i => keys.contains (w + i)) }

/-- The lanes of a line whose other lines have all been performed. -/
def Access.lanesReady (a : Access) (idx : Nat) (ln : LineAcc) : W :=
  maskOf 32 fun i => bit ln.lanes i &&
    !((List.range a.lines.length).any fun j => j != idx &&
      match a.lines[j]? with
      | some e => bit e.lanes i && (e.st == .look || e.st == .failed || e.st == .sent)
      | none => false)

/-- Lane values written into the varying destination of a load or atomic (R217). -/
def State.writeLoaded (s : State) (c : Nat) (a : Access) (m : W) : State :=
  match a.dst with
  | .v first n =>
    let data (l : Nat) : Nat := ((a.lanes.find? fun q => q.lane == l).map (·.data)).getD 0
    (List.range n).foldl (fun s j =>
      let val := Lanes.of fun l =>
        let d := data l
        if 4 < a.width then BitVec.ofNat 32 (d / 2 ^ (32 * j))
        else if a.mxf6 && l == 31 then BitVec.ofNat 32 (d % 256)
        else loadValue a.conv a.width d
      s.laneV c a.ctx a.binds (first + j) m val) s
  | _ => s

/-- The bridge or port that counts a line from its acceptance on (R237): that of a store or atomic that leaves the die. -/
def State.lineUnit (s : State) (c : Nat) (a : Access) (l : LineAcc) : Option Nat :=
  if a.op == .load then none else s.exitUnit c l.home

/-- The exit bridge or port accepts a line of a store or atomic: the gang stops counting it, and the unit begins (R237). -/
def bridgeAccept (core acc line : Nat) (s : State) : State :=
  match s.acc core acc with
  | none => s
  | some a =>
    match a.lines[line]? with
    | none => s
    | some ln =>
      match s.lineUnit core a ln with
      | none => s
      | some u =>
        if ln.bridge.isSome || !s.mayLeave core acc a ln then s
        else
          ((s.countHome core a.ctx 0 ln.home (· - 1)).countBridge u core a.ctx 0 ln.home (· + 1)).setAcc core acc
            { a with lines := a.lines.set line { ln with bridge := some u } }

/-- The memory-side cache of its home die sees a performed line: an access that misses allocates it, but for NC (R210), and
for one with the stream mark: R201 says of every access that the mark keeps a missing line out, where R215 names stores alone (DEDUCED, log
68). -/
def State.touchLine (s : State) (a : Access) (l : LineAcc) : State := s.touch l.key (!l.nc && !a.stream) (a.op != .load)

/-- ACCESS_PERFORMED_AT_HOME: line `line` of access `acc` of a core is performed, if nothing holds it back and the bridge or
port on its way has accepted it. -/
def execAccessPerformedAtHome (core acc line : Nat) (s : State) : Host.Outcome State Fault Refusal :=
  match s.acc core acc with
  | none => .next s
  | some a =>
    match a.lines[line]? with
    | none => .next s
    | some ln =>
      if !s.mayLeave core acc a ln || ((s.lineUnit core a ln).isSome && ln.bridge.isNone) then .next s
      else
        let (s, lanes, bad) := performLanes a ln s a.lanes
        let s := (if a.op == .store then clearCovered s a ln else s).touchLine a ln
        let a := { a with lanes := lanes, poison := a.poison || bad,
                          lines := a.lines.set line { ln with st := .performed } }
        let s := s.wakeReply core ln.home
        .next ((s.setAcc core acc a).writeLoaded core a (a.lanesReady line ln))

/-- ACCESS_ACK: the count of a performed line falls, at the gang or at the unit that took it over (R237); a store whose
lines are all acknowledged is over. -/
def execAccessAck (core acc line : Nat) (s : State) : Host.Outcome State Fault Refusal :=
  match s.acc core acc with
  | none => .next s
  | some a =>
    match a.lines[line]? with
    | none => .next s
    | some ln =>
      if ln.st != .performed then .next s
      else
        let s := match ln.bridge with
          | some u => s.countBridge u core a.ctx 0 ln.home (· - 1)
          | none => s.countHome core a.ctx 0 ln.home (· - 1)
        let a := { a with lines := a.lines.set line { ln with st := .done } }
        if a.dst == .none && a.lines.all fun l => l.st == .done then
          .next ((s.modCore core fun k => { k with accs := sdel k.accs acc }).completed core a.ctx)
        else .next (s.setAcc core acc a)

/-- BRIDGE_COUNT_REPORT: a unit that a release has marked and whose count for the gang is zero reports it (R238). -/
def execBridgeCountReport (core acc unit : Nat) (s : State) : Host.Outcome State Fault Refusal :=
  match s.acc core acc with
  | none => .next s
  | some a =>
    let earlier := (s.core core).accs.any fun p => p.1 < acc && p.2.ctx == a.ctx && p.2.op != .load &&
      p.2.lines.any fun l => l.bridge.or (s.exitUnit core l.home) == some unit && (l.st == .sent || l.st == .performed)
    if a.marked.contains unit && !a.reported.contains unit && !earlier &&
        (List.range 5).all fun sc => sgetD s.bridges (bridgeKey unit core a.ctx 0 sc) 0 == 0 then
      .next (s.setAcc core acc { a with reported := a.reported ++ [unit] })
    else .next s

/-- Every line of an access has been acknowledged. -/
def Access.allDone (a : Access) : Bool := a.lines.all fun l => l.st == .done

/-- A codebook from its 32 bytes, entry `i` at bytes 2i and 2i + 1 (R150). -/
def codebookOf (v : Nat) : Vector (BitVec 16) 16 := Vector.ofFn fun i : Fin 16 => BitVec.ofNat 16 (v / 2 ^ (16 * i.val))

/-- No `cbld` of codebook `i` that issued before access `n` on the core, for the same crew, has still to write (R150). -/
def State.cbFirst (s : State) (c x n i : Nat) : Bool :=
  !(s.core c).accs.any fun p => p.1 < n && p.2.dst == .cb i && !p.2.given && !(p.2.allDone && p.2.poison) &&
    crewSlot p.2.ctx == crewSlot x

/-- Write codebook `i` of a context's crew in full. The plaza context has no crew (log 14). -/
def State.writeCb (s : State) (c x i v : Nat) : State :=
  s.modCrew c (crewSlot x) fun w => { w with cbs := vput w.cbs i (codebookOf v) }

/-- LOAD_COMPLETION: the destination of a load or atomic whose data have returned becomes full, or poisoned with cause
3 (R102, R191, R193). The data of a `cbld` are written into the codebook when they arrive, behind those of the `cbld`s of
that codebook that issued before it (R150, R151). -/
def execLoadCompletion (core acc : Nat) (s : State) : Host.Outcome State Fault Refusal :=
  match s.acc core acc with
  | none => .next s
  | some a =>
    if let .cb i := a.dst then
      if a.allDone && !a.given && !a.poison && s.cbFirst core a.ctx acc i then
        .next ((s.setAcc core acc { a with given := true }).writeCb core a.ctx i (a.lanes.headD { lane := 0, addr := 0 }).data)
      else .next s
    else if !a.allDone || a.awaited then .next s
    else
      let s := s.modCore core fun k => { k with accs := sdel k.accs acc }
      if a.cancelled then .next (s.completed core a.ctx) else
      let s := match a.dst with
        | .v first n =>
          (List.range n).foldl (fun (s : State) (j : Nat) =>
            if a.poison then s.poisonV core a.ctx a.binds (first + j) 3
            else s.fillV core a.ctx a.binds (first + j) a.oob (Lanes.splat 0) a.tag) s
        | .s i =>
          if a.poison then s.poisonS core a.ctx i 3
          else s.fillS core a.ctx i (match a.lanes with
            | l :: _ => loadValue a.conv a.width l.data
            | [] => 0)
        | _ => s
      .next (s.completed core a.ctx)

end Sys2Proof.Machine
end

