-- ==== Sys2Proof/Machine/Mem.lean ====
section
/-! DEFINITION. Sys2Proof/Machine/Mem.lean: the memory instructions of MAJ 0C to 0F (R197 to R201), the record and
codebook instructions (R194, R195, R150), `prm` (R204) and the fences (R239, R240). -/

namespace Sys2Proof.Machine

/-! ### What a memory instruction does -/

/-- A memory instruction: its operation, width and conversion; whether it is uniform (R200); how many registers from D
it reads or fills; the tags that its data must have; the destination tag from the record's FMT; whether an MXF6 record
is accepted; and whether it narrows its data to FP16. -/
structure MemIns where
  op : AccOp
  width : Nat
  conv : LoadConv := .zext
  uni : Bool := false
  n : Nat := 1
  data : List (List Nat) := []
  recTag : Bool := false
  tag : Byte := 0
  mxOk : Bool := true
  narrow : Bool := false

/-- The instruction fills D. -/
def MemIns.fills (m : MemIns) : Bool := m.op != .store
/-- The instruction reads D. -/
def MemIns.reads (m : MemIns) : Bool := m.op != .load
def MemIns.isAtomic (m : MemIns) : Bool := m.reads && m.fills

/-- The operand code of the first register of D. -/
def MemIns.dCode (m : MemIns) (f : MR) : Nat := if m.uni then 64 + f.d.toNat else f.d.toNat

/-- Checks and operands of an MR word (R35, R197 to R200). -/
def MemIns.form (m : MemIns) (f : MR) : Form :=
  let cls : SrcCls := if m.uni then .u else .any
  { legal := mrLegal cls m.uni f && (!m.uni || m.n == 1 || f.d.toNat < 31)
    fb := mrFallback (m.op == .load) m.isAtomic f
    names := vName cls f.x ++ (if m.uni then [] else [(f.d.toNat, m.n)])
    wide := m.uni && m.fills
    srcs := t3Src cls f.x f.bx ++ (if m.reads then (List.range m.n).map fun j =>
      { cls := if m.uni then .u else .vt, code := m.dCode f + j, blk := f.bd == 1 } else [])
    dests := if !m.fills then [] else if m.uni then sDest (f.d.setWidth 5)
      else (List.range (if m.isAtomic then 1 else m.n)).map fun j => f.d.toNat + j }

/-- Data of a lane: registers of the run, lowest first. -/
def laneData (ds : List Lanes) (l : Nat) : Nat := ds.foldr (fun x acc => (x.lane l).toNat + 2 ^ 32 * acc) 0

/-- ORD after row 7 of R40: 0 plain, 1 acquire or release, 2 strong, 3 stream. -/
def MemIns.ord (m : MemIns) (f : MR) : Nat := if m.isAtomic && f.ord == 3 then 0 else f.ord.toNat

/-- The access of an instruction whose checks have passed, and the flags of its data. -/
def MemIns.access (m : MemIns) (f : MR) (s : State) (c x : Nat) (r : BitVec 128) (p : Placed) (vs : List Val) :
    Access × BitVec 14 :=
  let ds := (vs.drop 1).map Val.lanes
  let rm := (s.gang c x).rmode.toNat
  let d (l : Nat) : Nat × BitVec 14 :=
    if m.narrow then
      let e := convElem fp16 rm ((ds.headD (Lanes.splat 0)).lane l) (.fin false 0 0)
      (e.1, e.2.1)
    else if m.isAtomic then (((ds.headD (Lanes.splat 0)).lane l).toNat, 0)
    else (laneData ds l, 0)
  let d2 (l : Nat) : Nat := if m.isAtomic then ((ds.getD 1 (Lanes.splat 0)).lane l).toNat else 0
  let lanes : List LaneAcc := p.lanes.map fun q => { lane := q.1, addr := q.2, data := (d q.1).1, data2 := d2 q.1 }
  let fl := p.lanes.foldl (fun acc q => acc ||| (d q.1).2) (if p.oob = 0 then 0 else fOob)
  ({ ctx := x, pc := (s.gang c x).pc, op := m.op, dev := recKind r == 0, width := m.width, conv := m.conv,
     dst := if !m.fills then .none else if m.uni then .s f.d.toNat else .v f.d.toNat (if m.isAtomic then 1 else m.n),
     tag := if m.recTag then recFmt r else m.tag, lanes := lanes, oob := p.oob, mxf6 := !m.uni && !m.isAtomic && recMx r,
     lines := [], stream := m.ord f == 3, acq := m.ord f == 1 && m.op != .store, rel := m.ord f == 1 && m.op != .load,
     strong := m.ord f == 2, scope := if f.ord == 0 then 0 else f.scope.toNat }, fl)

/-- Issue a memory instruction: the checks of R190, the queue and the acquire (R184, R238), the fence before a strong
access, then the access. -/
def MemIns.body (m : MemIns) (f : MR) (s : State) (c x : Nat) (vs : List Val) : Except Stop Done := do
  let g := s.gang c x
  let r := vget g.recs f.rc.toNat 0
  let ix := (vs[0]?.map Val.lanes).getD (Lanes.splat 0)
  let idx : List (Nat × W) := if m.uni then [(0, uVal vs 0)] else (activeList g.lanes).map fun l => (l, ix.lane l)
  let tagsOk := (m.uni || m.isAtomic || m.mxOk || !recMx r) && ((vs.drop 1).zip m.data).all fun p => tagOk p.2 p.1
  let p ← checkAccess s c x r m.reads tagsOk (!m.uni && !m.isAtomic && recMx r) m.width idx
  let (a, fl) := m.access f s c x r p vs
  need (s.mayIssueMem c x a) (.park .engine 2)
  need (!a.strong || s.fenceDone c x 1 a.scope) (.park .fence 0)
  pure ((s.modGang c x fun g => g.raise fl).send c x a)

/-- The issuing group waits in the fence behind its strong access (R238). -/
def State.inSecondFence (s : State) : Bool :=
  match s.issuer with
  | some (c, x) => (s.gang c x).parkArg .fence == some 1
  | none => false

/-- The issuing group has sent its access and waits for an acquire that issued before it (R238). -/
def State.behindAcquire (s : State) : Bool :=
  match s.issuer with
  | some (c, x) => (s.gang c x).parkArg .engine == some 9
  | none => false

/-- A memory instruction whose access is sent retires once `ok` holds, and parks until then. -/
def MemIns.finish (m : MemIns) (f : MR) (s : State) (ok : State → Nat → Nat → Bool) (k : ParkKind) (i : Byte) :
    Host.Outcome State Fault Refusal :=
  Machine.issue s { legal := true, fb := false } fun s c x _ => do
    need (ok s c x) (.park k i)
    pure { s := s, dest := if m.fills then BitVec.ofNat 8 (m.dCode f) else 0x7f }

/-- A memory instruction. -/
def MemIns.issue (m : MemIns) (f : MR) (s : State) : Host.Outcome State Fault Refusal :=
  if s.inSecondFence then m.finish f s (fun s c x => s.fenceDone c x 1 f.scope.toNat) .fence 1
  else if s.behindAcquire then m.finish f s (fun s c x => !s.acqAhead c x) .engine 9
  else Machine.issue s (m.form f) (m.body f)

/-! ### Vector memory (R197 to R199) -/

def execVldB8 (f : MR) (s : State) : Host.Outcome State Fault Refusal :=
  MemIns.issue { op := .load, width := 1, mxOk := false } f s
def execVldI8 (f : MR) (s : State) : Host.Outcome State Fault Refusal :=
  MemIns.issue { op := .load, width := 1, conv := .sext, mxOk := false } f s
def execVldH16 (f : MR) (s : State) : Host.Outcome State Fault Refusal :=
  MemIns.issue { op := .load, width := 2, mxOk := false } f s
def execVldI16 (f : MR) (s : State) : Host.Outcome State Fault Refusal :=
  MemIns.issue { op := .load, width := 2, conv := .sext, mxOk := false } f s
def execVldW32 (f : MR) (s : State) : Host.Outcome State Fault Refusal :=
  MemIns.issue { op := .load, width := 4, recTag := true } f s
def execVldX2 (f : MR) (s : State) : Host.Outcome State Fault Refusal :=
  MemIns.issue { op := .load, width := 8, n := 2, recTag := true, mxOk := false } f s
def execVldX4 (f : MR) (s : State) : Host.Outcome State Fault Refusal :=
  MemIns.issue { op := .load, width := 16, n := 4, recTag := true, mxOk := false } f s
def execVldF16 (f : MR) (s : State) : Host.Outcome State Fault Refusal :=
  MemIns.issue { op := .load, width := 2, conv := .f16, tag := tagF32, mxOk := false } f s
def execVstB8 (f : MR) (s : State) : Host.Outcome State Fault Refusal :=
  MemIns.issue { op := .store, width := 1, mxOk := false } f s
def execVstH16 (f : MR) (s : State) : Host.Outcome State Fault Refusal :=
  MemIns.issue { op := .store, width := 2, mxOk := false } f s
def execVstW32 (f : MR) (s : State) : Host.Outcome State Fault Refusal :=
  MemIns.issue { op := .store, width := 4 } f s
def execVstX2 (f : MR) (s : State) : Host.Outcome State Fault Refusal :=
  MemIns.issue { op := .store, width := 8, n := 2, mxOk := false } f s
def execVstX4 (f : MR) (s : State) : Host.Outcome State Fault Refusal :=
  MemIns.issue { op := .store, width := 16, n := 4, mxOk := false } f s
def execVstF16 (f : MR) (s : State) : Host.Outcome State Fault Refusal :=
  MemIns.issue { op := .store, width := 2, data := [fmtF32], mxOk := false, narrow := true } f s
def execVatomAdd (f : MR) (s : State) : Host.Outcome State Fault Refusal :=
  MemIns.issue { op := .atomic .add, width := 4, data := [fmtRaw] } f s
def execVatomFadd (f : MR) (s : State) : Host.Outcome State Fault Refusal :=
  MemIns.issue { op := .atomic .fadd, width := 4, data := [fmtF32], tag := tagF32 } f s
def execVatomMinI32 (f : MR) (s : State) : Host.Outcome State Fault Refusal :=
  MemIns.issue { op := .atomic .min, width := 4, data := [fmtRaw] } f s
def execVatomMaxI32 (f : MR) (s : State) : Host.Outcome State Fault Refusal :=
  MemIns.issue { op := .atomic .max, width := 4, data := [fmtRaw] } f s
def execVatomAnd (f : MR) (s : State) : Host.Outcome State Fault Refusal :=
  MemIns.issue { op := .atomic .and, width := 4 } f s
def execVatomOr (f : MR) (s : State) : Host.Outcome State Fault Refusal :=
  MemIns.issue { op := .atomic .or, width := 4 } f s
def execVatomXchg (f : MR) (s : State) : Host.Outcome State Fault Refusal :=
  MemIns.issue { op := .atomic .xchg, width := 4 } f s
def execVatomCas (f : MR) (s : State) : Host.Outcome State Fault Refusal :=
  MemIns.issue { op := .atomic .cas, width := 4, n := 2 } f s

/-! ### Uniform memory (R200) -/

def execSldW (f : MR) (s : State) : Host.Outcome State Fault Refusal :=
  MemIns.issue { op := .load, width := 4, uni := true } f s
def execSldH (f : MR) (s : State) : Host.Outcome State Fault Refusal :=
  MemIns.issue { op := .load, width := 2, uni := true } f s
def execSldB (f : MR) (s : State) : Host.Outcome State Fault Refusal :=
  MemIns.issue { op := .load, width := 1, uni := true } f s
def execSstW (f : MR) (s : State) : Host.Outcome State Fault Refusal :=
  MemIns.issue { op := .store, width := 4, uni := true } f s
def execSstH (f : MR) (s : State) : Host.Outcome State Fault Refusal :=
  MemIns.issue { op := .store, width := 2, uni := true } f s
def execSstB (f : MR) (s : State) : Host.Outcome State Fault Refusal :=
  MemIns.issue { op := .store, width := 1, uni := true } f s
def execSatomAdd (f : MR) (s : State) : Host.Outcome State Fault Refusal :=
  MemIns.issue { op := .atomic .add, width := 4, uni := true } f s
def execSatomCas (f : MR) (s : State) : Host.Outcome State Fault Refusal :=
  MemIns.issue { op := .atomic .cas, width := 4, uni := true, n := 2 } f s

/-! ### Records and codebooks (R194, R195, R150) -/

/-- The awaited read of the issuing instruction: its number and itself. -/
def State.awaited (s : State) (c x : Nat) : Option (Nat × Access) :=
  (s.core c).accs.find? fun p => p.2.ctx == x && p.2.pc == (s.gang c x).pc && p.2.awaited

/-- Read `n` bytes at a global address for `brld` or `cbld`: the read is sent and the gang parks until it is complete, and
until `ready` holds of it; then `use` takes the number it holds. The INFO of its E_POISON is 0: R402 puts an operand code
there, and no operand register is poisoned (DESIGN CHOICE, log 58). -/
def readSram (n : Nat) (dst : AccDst) (ready : Access → Bool) (use : State → Nat → State) (s : State) (c x : Nat) (a : W) :
    Except Stop Done := do
  match s.awaited c x with
  | some (k, acc) =>
    need (acc.allDone && (acc.poison || ready acc)) (.park .engine 3)
    need (!acc.poison) (.fault ePoison 3 0 0 0)
    let v := (acc.lanes.headD { lane := 0, addr := 0 }).data
    pure (done (use (s.modCore c fun q => { q with accs := sdel q.accs k }) v))
  | none =>
    let addr := a.toNat
    need (addr % n == 0) (.code eAlign)
    need (sramExists addr && s.regionFor c x addr) (.code ePerm)
    let acc : Access := { ctx := x, pc := (s.gang c x).pc, op := .load, dev := false, width := n, dst := dst,
                          lanes := [{ lane := 0, addr := addr }], lines := [] }
    need (s.mayIssueMem c x acc) (.park .engine 2)
    pure { s.send c x acc with parks := some (.engine, 3) }

/-- `brld` (R194). -/
def execBrld (f : EX) (s : State) : Host.Outcome State Fault Refusal :=
  let n := f.d.toNat % 16
  issue s (exForm (.low 4) .read .zero f) fun s c x vs =>
    readSram 16 (.buf n) (fun _ => true) (fun s v => s.modGang c x fun g => { g with recs := vput g.recs n (BitVec.ofNat 128 v) })
      s c x (uVal vs 0)

/-- BRSET's new record for a selector (R195). -/
def brsetField (r : BitVec 128) (sel : Nat) (a : W) : BitVec 128 :=
  let put (lo n : Nat) (v : Nat) : BitVec 128 :=
    (r &&& ~~~(BitVec.ofNat 128 ((2 ^ n - 1) * 2 ^ lo))) ||| BitVec.ofNat 128 (v % 2 ^ n * 2 ^ lo)
  match sel with
  | 0 => put 0 32 a.toNat
  | 1 => put 32 16 a.toNat
  | 2 => put 96 32 a.toNat
  | 3 => put 64 24 a.toNat
  | 4 => put 56 8 a.toNat
  | 5 => put 48 6 a.toNat
  | 6 => put 88 8 a.toNat
  | _ => put 0 48 ((r.extractLsb' 0 48) + a.signExtend 48).toNat

/-- `brset` (R195). -/
def execBrset (f : EX) (s : State) : Host.Outcome State Fault Refusal :=
  issue s (exForm (.low 4) .read (.idx 8) f) fun s c x vs =>
    let n := f.d.toNat % 16
    pure (done (s.modGang c x fun g =>
      { g with recs := vput g.recs n (brsetField (vget g.recs n 0) f.b.toNat (uVal vs 0)) }))

/-- `cbld` (R150): LOAD_COMPLETION writes the codebook, and the gang goes on. In the plaza context there is no crew, and its
codebooks are free values (log 14). -/
def execCbld (f : EX) (s : State) : Host.Outcome State Fault Refusal :=
  let n := f.d.toNat % 8
  issue s (exForm (.low 3) .read .zero f) fun s c x vs =>
    readSram 32 (.cb n) (·.given) (fun s _ => s) s c x (uVal vs 0)

/-! ### Parameter windows (R202 to R204) -/

/-- The cached line of a launch, as an index of the list. -/
def Core.pline (k : Core) (launch : Byte) (win line : Nat) : Option PLine :=
  k.pcache.find? fun l => l.launch == launch && l.win == win && l.off == line

/-- The cache with a line most recently used, at most 256 lines. -/
def plinePut (l : List PLine) (e : PLine) : List PLine := (e :: l.filter fun f => f != e).take 256

/-- The virtual address of a line of a window: `line` is window × 1,024 + line. -/
def State.lineVa (s : State) (c x line : Nat) : Nat :=
  (vget (s.crew c (crewSlot x)).wins (line / 1024) (0, 0)).1 + 64 * (line % 1024)

/-- A line fill of a context is under way. -/
def State.fillOf (s : State) (c x line : Nat) : Bool := (s.core c).accs.any fun p => p.2.ctx == x && p.2.dst == .prm line

/-- The LS read of a missing line (R202, R229): counted, ordered and translated as a plain load of its 64 bytes. The gang
parks until PARAM_LINE_FILL. -/
def askLine (s : State) (c x line : Nat) : Except Stop Done := do
  let a : Access := { ctx := x, pc := (s.gang c x).pc, op := .load, dev := true, width := 64, dst := .prm line,
                      lanes := [{ lane := 0, addr := s.lineVa c x line }], lines := [] }
  need (!s.fillOf c x line) (.park .engine 4)
  need (s.mayIssueMem c x a) (.park .engine 2)
  let d := s.send c x a
  pure { d with parks := some (d.parks.getD (.engine, 4)) }

/-- `prm` (R204). Word 0 of pw0 of a stream launch is its stream id (R392). -/
def execPrm (f : EX) (s : State) : Host.Outcome State Fault Refusal :=
  issue s (exForm .dest (.idx 4) .read f) fun s c x vs => do
    let n := f.a.toNat
    let size := s.winSize c x n
    let o := 4 * (uVal vs 0).toNat
    let flag (fl : BitVec 14) : Done := doneS (s.modGang c x fun g => g.raise fl) c x f.d.toNat 0
    if size = 0 then pure (flag fPwunb)
    else if size < o + 4 then pure (flag fPwoob)
    else
      let w := s.crew c (crewSlot x)
      match (if n = 0 && o = 0 then w.stream else none) with
      | some id => pure (doneS s c x f.d.toNat id)
      | none =>
        match (s.core c).pline (w.launch.setWidth 8) n (o / 64) with
        | some l =>
          let s := s.modCore c fun k => { k with pcache := plinePut k.pcache l }
          pure (doneS s c x f.d.toNat (BitVec.ofNat 32 (leNat ((l.bytes.drop (o % 64)).take 4))))
        | none => askLine s c x (n * 1024 + o / 64)

/-! ### `isync` and the fences (R90, R239, R240) -/

/-- `isync` (R90, R249): nothing is fetched ahead in the model, so the next instruction is always fetched anew. A store that
happens before the `isync` through an acquire of the gang is observed: the gang waits for the acquire's value. -/
def execIsync (f : EX) (s : State) : Host.Outcome State Fault Refusal :=
  issue s (exForm .zero .zero .zero f) fun s c x _ => do
    need (!s.acqPending c x) (.park .engine 2)
    pure (done s)

/-- Wait for the counts of a set of paths at a scope. -/
def issueFence (s : State) (fb : Bool) (setA : BitVec 6) (scope : BitVec 3) : Host.Outcome State Fault Refusal :=
  issue s { legal := true, fb := fb } fun s c x _ => do
    need (s.fenceDone c x setA (min scope.toNat 4)) (.park .fence 0)
    pure (done s)

def execFence (f : FenceF) (s : State) : Host.Outcome State Fault Refusal :=
  issueFence s (f.rest != 0 || 4 < f.scope.toNat) 1 f.scope
def execFenceX (f : FenceXF) (s : State) : Host.Outcome State Fault Refusal :=
  issueFence s (f.rest != 0 || 4 < f.scope.toNat) f.setA f.scope

end Sys2Proof.Machine
end

