-- ==== Sys2Proof/Machine/BarrierOps.lean ====
section
/-! DEFINITION. Sys2Proof/Machine/BarrierOps.lean: barriers (R325 to R331): ids, the table's handling of a command, the
notices, and the barrier instructions. -/

namespace Sys2Proof.Machine

/-! ### Ids (R325) -/

def barScope (id : W) : Nat := id.toNat % 8
def barIndex (id : W) : Nat := id.toNat / 8 % 64
def barModule (id : W) : Nat := id.toNat / 2 ^ 16 % 256

/-- The number of entries of a table. -/
def barSize (scope : Nat) : Nat :=
  match scope with
  | 0 => 32
  | 1 => 16
  | 2 => 64
  | 3 => 64
  | _ => 16

/-- An id that no barrier instruction refuses. -/
def barIdOk (id : W) : Bool :=
  barScope id ≤ 4 && barIndex id < barSize (barScope id) && id.toNat / 2 ^ 9 % 2 ^ 7 == 0 && id.toNat / 2 ^ 24 == 0 &&
    (barScope id == 4 || barModule id == 0)

/-- The key of the entry that an id names for a core. -/
def barKey (c : Nat) (id : W) : Nat :=
  let unit := match barScope id with
    | 0 => c
    | 1 => c / 4
    | 2 => dieOf c
    | 3 => 0
    | _ => barModule id
  (barScope id * 4096 + unit) * 64 + barIndex id

/-! ### At the table (R327 to R329, R331) -/

/-- The token names a phase that has completed. -/
def phasePassed (p tok : BitVec 16) : Bool := let d := (p - tok).toNat; 1 ≤ d && d ≤ 2 ^ 15

/-- Put a command back with the table's answer. -/
def State.answerBar (s : State) (id : Nat) (m : BarCmd) (code : Nat) (ph : BitVec 16 := 0) : State :=
  { s with barCmds := sput s.barCmds id { m with there := true, ans := some (code, ph) } }

/-- A command waits at the table. -/
def State.holdBar (s : State) (id : Nat) (m : BarCmd) : State :=
  { s with barCmds := sput s.barCmds id { m with there := true } }

/-- A parked `bar.wait` or `bar.sync` on an entry. -/
def State.barWaiter (s : State) (key : Nat) : Bool :=
  s.barCmds.any fun p => p.2.key == key && p.2.there && p.2.ans.isNone && (p.2.op == 3 || p.2.op == 4)

/-- A member arrives in the current phase, which completes behind all the arrivals of the cycle (R329). -/
def Barrier.arrive (b : Barrier) (c x : Nat) : Barrier :=
  { b with arrivals := b.arrivals + 1,
           members := b.members.map fun (m : Member) => if m.core == c && m.ctx == x then { m with arrived := true } else m }

/-- A member has arrived in the current phase. -/
def Barrier.hasArrived (b : Barrier) (c x : Nat) : Bool := b.members.any fun m => m.core == c && m.ctx == x && m.arrived

/-- A member leaves, behind the arrivals of the cycle and the phase that they complete (R329). -/
def Barrier.leave (b : Barrier) (c x : Nat) : Barrier :=
  let b := b.complete
  ({ b with members := b.members.filter fun m => !(m.core == c && m.ctx == x), expected := b.expected - 1 }).complete.strandCheck

/-- The table acts on a command (R331), or keeps it waiting. -/
def State.tableStep (s : State) (id : Nat) : State :=
  match sget s.barCmds id with
  | none => s
  | some m =>
    if m.ans.isSome then s
    else
      let c := m.core; let x := m.ctx
      match sget s.barriers m.key with
      | none =>
        if m.op != 0 then s.answerBar id m 3
        else if m.arg = 0 || 2 ^ 24 ≤ m.arg.toNat then s.answerBar id m 3
        else (s.putBarrier m.key { owner := s.launchOf c x, expected := m.arg.toNat }).answerBar id m 0
      | some b =>
        if m.op = 0 then s.answerBar id m 1
        else if b.owner != s.launchOf c x then s.answerBar id m 2
        else if b.stranded && 1 ≤ m.op && m.op ≤ 4 then s.answerBar id m 4
        else
          match m.op with
          | 1 =>
            let b := b.complete
            let b := if b.isMember c x then b else { b with members := b.members ++ [{ core := c, ctx := x, arrived := false }] }
            (s.putBarrier m.key b).answerBar id m 0
          | 2 =>
            if !b.isMember c x then s.answerBar id m 2
            else if b.hasArrived c x then s.holdBar id m
            else (s.putBarrier m.key (b.arrive c x)).answerBar id m 0 b.phase
          | 3 =>
            if !b.isMember c x then s.answerBar id m 2
            else if phasePassed b.phase (m.arg.setWidth 16) then s.answerBar id m 0
            else s.holdBar id m
          | 4 =>
            if !b.isMember c x then s.answerBar id m 2
            else if b.hasArrived c x then s.holdBar id m
            else (s.putBarrier m.key (b.arrive c x)).holdBar id { m with op := 3, arg := b.phase.setWidth 32 }
          | 5 =>
            if b.isMember c x then (s.putBarrier m.key (b.leave c x)).answerBar id m 0 else s.answerBar id m 0
          | _ =>
            if !b.stranded && s.barWaiter m.key then s.answerBar id m 3
            else { s with barriers := sdel s.barriers m.key }.answerBar id m 0

/-- BARRIER_ARRIVAL_AT_TABLE: a command reaches its table. -/
def execBarrierArrivalAtTable (cmd : Nat) (s : State) : Host.Outcome State Fault Refusal := .next (s.tableStep cmd)

/-- The command of a context. -/
def State.barCmd (s : State) (c x : Nat) : Option (Nat × BarCmd) :=
  s.barCmds.find? fun p => p.2.core == c && p.2.ctx == x

/-- BARRIER_PHASE_NOTIFY: the notice of a completed phase reaches a member whose command waits (R327). -/
def execBarrierPhaseNotify (core ctx : Nat) (s : State) : Host.Outcome State Fault Refusal :=
  match s.barCmd core ctx with
  | none => .next s
  | some (id, m) => .next (if m.there then s.tableStep id else s)

/-! ### The instructions (R330) -/

/-- What `bar.arr` and `bar.sync` check before their fence: the entry is in use by this launch and the gang is a
member. -/
def memberCheck (s : State) (c x key : Nat) (i : BitVec 5) (id : W) : Except Stop Unit :=
  match sget s.barriers key with
  | none => .error (.res i)
  | some b => do
    need (b.owner == s.launchOf c x) (.code ePerm)
    need (!b.stranded) (.info eBstr id)
    need (b.isMember c x) (.code ePerm)

/-- The fault of an answer; operand `i` holds what E_RES refuses: the id, or the count of a `bar.init`. -/
def barStop (i : BitVec 5) (id : W) (code : Nat) : Stop :=
  match code with
  | 2 => .code ePerm
  | 3 => .res i
  | _ => .info eBstr id

/-- Send a barrier command, or take up its answer. `arrives` holds for those that wait on every path first. -/
def barBody (op : Nat) (arrives : Bool) (i : BitVec 5) (s : State) (c x : Nat) (id arg : W) (give : State → Nat → BitVec 16 → Done) :
    Except Stop Done := do
  notPlaza x
  match s.barCmd c x with
  | some (k, m) =>
    match m.ans with
    | none => .error (.park .barrier (BitVec.ofNat 8 (barIndex id)))
    | some (code, ph) => do
      let s := { s with barCmds := sdel s.barCmds k }
      need (code ≤ 1) (barStop i id code)
      pure (give s code ph)
  | none => do
    need (barIdOk id) (.code ePerm)
    if arrives then do
      memberCheck s c x (barKey c id) i id
      need (s.fenceDone c x 0x3f (barScope id)) (.park .fence 0)
    let m : BarCmd := { core := c, ctx := x, op := op, key := barKey c id, id := id, arg := arg }
    pure { s := { s with barCmds := sput s.barCmds s.nextId m, nextId := s.nextId + 1 },
           parks := some (.barrier, BitVec.ofNat 8 (barIndex id)) }

/-- `done`, with the run ended (R66). -/
def doneEnd (s : State) : Done := { s := s, ends := some {} }

def execBarInit (f : EX) (s : State) : Host.Outcome State Fault Refusal :=
  issue s (exForm .dest .read .read f true) fun s c x vs =>
    barBody 0 false f.b s c x (uVal vs 0) (uVal vs 1) fun s code _ => doneS s c x f.d.toNat (BitVec.ofNat 32 code)
def execBarJoin (f : EX) (s : State) : Host.Outcome State Fault Refusal :=
  issue s (exForm .zero .read .zero f true) fun s c x vs => barBody 1 false f.a s c x (uVal vs 0) 0 fun s _ _ => done s
def execBarArr (f : EX) (s : State) : Host.Outcome State Fault Refusal :=
  issue s (exForm .dest .read .zero f true) fun s c x vs =>
    barBody 2 true f.a s c x (uVal vs 0) 0 fun s _ ph => doneS s c x f.d.toNat (ph.setWidth 32)
def execBarWait (f : EX) (s : State) : Host.Outcome State Fault Refusal :=
  issue s (exForm .zero .read .read f true) fun s c x vs =>
    barBody 3 false f.a s c x (uVal vs 0) (uVal vs 1) fun s _ _ => doneEnd s
def execBarSync (f : EX) (s : State) : Host.Outcome State Fault Refusal :=
  issue s (exForm .zero .read .zero f true) fun s c x vs => barBody 4 true f.a s c x (uVal vs 0) 0 fun s _ _ => doneEnd s
def execBarLeave (f : EX) (s : State) : Host.Outcome State Fault Refusal :=
  issue s (exForm .zero .read .zero f true) fun s c x vs => barBody 5 false f.a s c x (uVal vs 0) 0 fun s _ _ => done s
def execBarFree (f : EX) (s : State) : Host.Outcome State Fault Refusal :=
  issue s (exForm .zero .read .zero f true) fun s c x vs => barBody 6 false f.a s c x (uVal vs 0) 0 fun s _ _ => done s

end Sys2Proof.Machine
end

