-- ==== Sys2Proof/Machine/Convert.lean ====
section
/-! DEFINITION. Sys2Proof/Machine/Convert.lean: the conversions of MAJ 07 (R152 to R159). -/

namespace Sys2Proof.Machine

/-! ### Scalar conversions (R153) -/

def opF32I32 (rm : Rnd) (a : W) : W × BitVec 14 := intToF32 rm (sgn a)
def opF32N32 (rm : Rnd) (a : W) : W × BitVec 14 := intToF32 rm (uns a)
def opI32F32 (rm : Rnd) (a : W) : W × BitVec 14 := f32ToInt rm (-(2 ^ 31)) (2 ^ 31 - 1) a
def opN32F32 (rm : Rnd) (a : W) : W × BitVec 14 := f32ToInt rm 0 (2 ^ 32 - 1) a

def execVcvtF32I3216 (f : H) (s : State) : Host.Outcome State Fault Refusal := issueH1 s f fmtRaw f32Tag (opF32I32 s.rnd)
def execVcvtF32I32 (f : T3) (s : State) : Host.Outcome State Fault Refusal := issueV1 s f fmtRaw f32Tag (opF32I32 s.rnd)
def execVcvtI32F32 (f : T3) (s : State) : Host.Outcome State Fault Refusal := issueV1 s f fmtF32 rawTag (opI32F32 s.rnd)
def execVcvtF32N32 (f : T3) (s : State) : Host.Outcome State Fault Refusal := issueV1 s f fmtRaw f32Tag (opF32N32 s.rnd)
def execVcvtN32F32 (f : T3) (s : State) : Host.Outcome State Fault Refusal := issueV1 s f fmtF32 rawTag (opN32F32 s.rnd)

/-! ### Packed conversions (R155, R157, R159) -/

/-- The form of a conversion from `n` consecutive varying registers from A on (R34). A t in A is of no accepted class
and raises E_TMP (R29). D is read where half of it is kept (R125). -/
def convForm (m : SrcCls) (n : Nat) (keep : Bool) (f : T3) : Form :=
  let run := (List.range n).map fun i => (f.a.toNat + i)
  { t3Form .v .vt m f with
    names := (if f.a.toNat < 64 then [(f.a.toNat, n)] else []) ++ (if f.w == 0 then [(f.d.toNat, 1)] else [])
    srcs :=
      (if f.a.toNat < 64 then run.map fun i => { cls := SrcCls.vt, code := i, blk := f.ba == 1 }
       else [{ cls := .code 0, code := f.a.toNat, blk := false }]) ++
      (if keep && f.w == 0 then [{ cls := SrcCls.vt, code := f.d.toNat, blk := true }] else []) }

/-- The elements of one source register in ascending lane order, the residual passing through inactive lanes (R157). -/
def convRun (el : W → Fp → Nat × BitVec 14 × Fp) (m : W) (x : Lanes) : List Nat → Fp → List Nat × BitVec 14
  | [], _ => ([], 0)
  | l :: r, carry =>
    if bit m l then
      let (q, fl, carry) := el (x.lane l) carry
      let (qs, fs) := convRun el m x r carry
      (q :: qs, fl ||| fs)
    else
      let (qs, fs) := convRun el m x r carry
      (0 :: qs, fs)

/-- Pack `n` sources into elements of `w` bits; `half` is the half written of a half target, or none for a whole
lane. -/
def convPack (f : T3) (n w : Nat) (hf : Option Nat) (tag : Byte) (el : W → Fp → Nat × BitVec 14 × Fp)
    (s : State) (c x : Nat) (vs : List Val) : Except Stop Done := do
  needTags (List.replicate n fmtF32) (vs.take n)
  let m := (s.gang c x).lanes
  let runs := (vs.take n).map fun v => convRun el m v.lanes (List.range 32) (.fin false 0 0)
  let old := srcLanes vs n
  let res := Lanes.of fun l =>
    let bits := (List.range n).foldl (fun acc j => acc + ((runs.getD j ([], 0)).1.getD l 0) * 2 ^ (w * j)) 0
    match hf with
    | none => BitVec.ofNat 32 bits
    | some h =>
      let kept := if h = 0 then old.lane l &&& 0xffff0000 else old.lane l &&& 0x0000ffff
      kept ||| BitVec.ofNat 32 (bits * 2 ^ (16 * h))
  let fl := runs.foldl (fun a r => a ||| r.2) 0
  pure (giveV s c x f m (res, fl) tag)

/-- TGT, HALF of a mode byte (R154). -/
def modeTgt (mode : BitVec 7) : Nat := mode.toNat / 8 % 4
def modeHalf (mode : BitVec 7) : Nat := mode.toNat / 32 % 2

def execVcvp2 (f : T3) (s : State) : Host.Outcome State Fault Refusal :=
  let mode := f.b.toNat
  let keep := 2 ≤ modeTgt f.b
  issue s (convForm .mode2 2 keep f) fun s c x vs =>
    match modeTgt f.b with
    | 0 => convPack f 2 16 none tagBf (convElem bf16 mode) s c x vs
    | 1 => convPack f 2 16 none tagF16 (convElem fp16 mode) s c x vs
    | 2 => convPack f 2 8 (some (modeHalf f.b)) 4 (convElem e4m3 mode) s c x vs
    | _ => convPack f 2 8 (some (modeHalf f.b)) 5 (convElem e5m2 mode) s c x vs

def execVcvp4 (f : T3) (s : State) : Host.Outcome State Fault Refusal :=
  let mode := f.b.toNat
  let keep := modeTgt f.b = 2
  issue s (convForm .mode4 4 keep f) fun s c x vs =>
    match modeTgt f.b with
    | 0 => convPack f 4 8 none 4 (convElem e4m3 mode) s c x vs
    | 1 => convPack f 4 8 none 5 (convElem e5m2 mode) s c x vs
    | _ => convPack f 4 4 (some (modeHalf f.b)) 6 (convElem e2m1 mode) s c x vs

/-- Codebook `n` of the crew of a context; the plaza context has none, and its entries are free (log 14). -/
def State.codebook (s : State) (c x n : Nat) : List (BitVec 16) :=
  if isPlaza x then (List.range 16).map (Config.plazaCodebook s.tick n)
  else (vget (s.crew c (crewSlot x)).cbs n (Vector.replicate 16 0)).toList

def execVcvq (f : T3) (s : State) : Host.Outcome State Fault Refusal :=
  let mode := f.b.toNat
  let cbn := mode / 64 % 2 * 4 + modeTgt f.b
  issue s (convForm .modeq 4 true f) fun s c x vs =>
    convPack f 4 4 (some (modeHalf f.b)) (BitVec.ofNat 8 (7 + 16 * cbn)) (vcvqElem (s.codebook c x cbn) mode) s c x vs

/-! ### Unpacking (R158) -/

/-- The source format that `vunpk` settles on: of a varying source its tag, which F may only repeat; of another F, 0
reading as BF16×2. -/
def unpkFmt (fsel : Nat) (v : Val) : Option Nat :=
  match v with
  | .v _ t => if fmtOf t < 2 || (fsel != 0 && fsel != fmtOf t) then none else some (fmtOf t)
  | _ => some (if fsel = 0 then 2 else fsel)

def execVunpk (f : T3) (s : State) : Host.Outcome State Fault Refusal :=
  issue s (t3Form .v .any .unpk f) fun s c x vs => do
    let j := f.b.toNat % 8
    let src := vs.headD (.s 0)
    match unpkFmt (f.b.toNat / 8) src with
    | none => .error (.code eFmt)
    | some fm => do
      need (j < elemCount fm) (.code eFmt)
      let cbn := match src with
        | .v _ t => t.toNat / 16 % 8
        | _ => 0
      let cb := s.codebook c x cbn
      let m := (s.gang c x).lanes
      let a := src.lanes
      let blk := laneBits a / 2 ^ (200 * j) % 2 ^ 200
      let res := runLanes m fun l =>
        if fm = 10 || fm = 11 then widen (mxElem fm blk l) else unpackLane fm cb (a.lane l) j
      let tag := if fm = 8 || fm = 9 || fm = 12 || fm = 13 then tagRaw else tagF32
      pure (giveV s c x f m res tag)

end Sys2Proof.Machine
end

