-- ==== Sys2Proof/Machine/Graph.lean ====
section
/-! DEFINITION. Sys2Proof/Machine/Graph.lean: the copy engine (R320) and the graph instructions (R323, R324) but for
`gn.mx`. -/

namespace Sys2Proof.Machine

/-! ### Lines of an engine (R186, R218) -/

/-- Why an engine's access stops: a lookup that fails at an address, or a refusal. -/
inductive EngStop where
  | page (va : Nat) (f : LookFail)
  | refused
  deriving DecidableEq, Repr

/-- The keys of `n` device bytes from `va`, with their translations. -/
def State.devKeys (s : State) (c : Nat) (asid : Byte) (k : AccKind) : Nat → Nat → State × Except EngStop (List Nat)
  | 0, _ => (s, .ok [])
  | n + 1, va =>
    match s.lookup c asid (va % 2 ^ 48) k with
    | (s, .error f) => (s, .error (.page (va % 2 ^ 48) f))
    | (s, .ok e) =>
      match s.devKeys c asid k n (va + 1) with
      | (s, .error f) => (s, .error f)
      | (s, .ok ks) => (s, .ok (e.key (va % 2 ^ 48) :: ks))

/-- The keys of `n` SRAM bytes from a global address, for a launch, or for a wave where `launch` is none. -/
def State.sramKeys (s : State) (launch : Option Byte) (a n : Nat) : Except EngStop (List Nat) :=
  let ks := (List.range n).map fun i => (a + i) % 2 ^ 32
  if ks.all fun k => sramExists k && (match launch with
      | some l => s.regionOk l k
      | none => true)
  then .ok (ks.map sramKey) else .error .refused

/-- The keys of one element. -/
def State.engineKeys (s : State) (c : Nat) (launch : Option Byte) (asid : Byte) (k : AccKind) (dev : Bool) (a n : Nat) :
    State × Except EngStop (List Nat) :=
  if dev then s.devKeys c asid k n a else (s, s.sramKeys launch a n)

/-- Write bytes at keys that need not be consecutive. -/
def State.putKeys (s : State) (l : List (Nat × Byte)) : State :=
  { s with mem := l.foldl (fun m p => memWrite m p.1 p.2) s.mem
           msc := l.foldl (fun m p => mscLine m p.1 true true) s.msc }

/-- An engine reads bytes at keys: the memory-side caches see it (R215). -/
def State.seeKeys (s : State) (ks : List Nat) : State :=
  { s with msc := ks.foldl (fun m k => mscLine m k true false) s.msc, turns := ks.foldl noteRead s.turns }

/-- Mark the words of keys as uncorrectable. -/
def State.markKeys (s : State) (ks : List Nat) : State :=
  { s with bad := ks.foldl (fun l k => insNat (protWord k) l) s.bad }

/-- Bytes written so far in marked words, and the state with the words that they cover clean (R193). -/
def State.cover (s : State) (cov ks : List Nat) : State × List Nat :=
  let cov := cov ++ ks.filter fun k => s.bad.contains (protWord k)
  let s := { s with bad := s.bad.filter fun w => !((List.range (protSize w)).all fun i => cov.contains (w + i)) }
  (s, cov.filter fun k => s.bad.contains (protWord k))

/-! ### The copy engine (R320) -/

/-- The launch slot for which a node's accesses are checked. -/
def State.launchFor (s : State) (c x : Nat) : Option Byte :=
  if isPlaza x then none else some ((s.launchOf c x).setWidth 8)

/-- The copy command of a node. -/
def State.copyCmd (s : State) (c q n : Nat) : Option (Node × CopyCmd) :=
  match sget (s.nodes c q) n with
  | some nd =>
    match nd.kind with
    | .copy cmd => some (nd, cmd)
    | _ => none
  | none => none

def State.setCopy (s : State) (c q n : Nat) (cmd : CopyCmd) : State := s.modNode c q n fun d => { d with kind := .copy cmd }

/-- A record that does not wrap ends before element `n`. -/
def shortOf (r : BitVec 128) (n : Nat) : Bool := recSwz r != 2 && recExtent r < n

/-- A copy node ends: it leaves the queue and finishes. -/
def State.endCopy (s : State) (c q n status : Nat) : State :=
  ((s.modCore c fun k => { k with copyQ := k.copyQ.filter fun p => p != (q, n) }).finishNode c q n status).crewSweep c q

/-- The engine stops at an address: a page fault parks the command with a record, and a refusal ends the node. -/
def State.stopCopy (s : State) (c q n : Nat) (cmd : CopyCmd) (st rep : Bool) : EngStop → State
  | .refused => s.endCopy c q n 3
  | .page va f =>
    let (seq, s) := s.postPf c cmd.ctx cmd.asid
      { cause := f.cause, kind := if st then .store else .load, level := f.level, rep := rep, engine := true, va := va,
        pc := cmd.pc }
    s.setCopy c q n { cmd with pf := some { seq := seq, va := va, store := st } }

/-- The byte that a copy reads at a key: one that the copy has overwritten is read as it stood or as it is (log 11). -/
def State.copyByte (s : State) (cmd : CopyCmd) (k : Nat) : Byte :=
  match cmd.old.find? fun p => p.1 == k with
  | some p => if Config.copyOld s.tick k then p.2 else memRead s.mem k
  | none => memRead s.mem k

/-- The bytes overwritten by a copy, with those at the keys that it writes next. -/
def State.copyKeep (s : State) (cmd : CopyCmd) (ks : List Nat) : List (Nat × Byte) :=
  ks.foldl (fun l k => if l.any fun p => p.1 == k then l else l ++ [(k, memRead s.mem k)]) cmd.old

/-- The element that a copy moves next. -/
def CopyCmd.elem (cmd : CopyCmd) : Nat := if cmd.down then cmd.n - 1 - cmd.done else cmd.done

/-- Write the bytes of a piece of a copy, with the source keys and destination keys in step: a byte whose source word is
uncorrectable marks its own destination word, and the others count towards making theirs good (R193, R320). -/
def State.copyMove (s : State) (cmd : CopyCmd) (ks : List (Nat × Nat)) : State × CopyCmd :=
  let bad := (ks.filter fun p => s.isBad p.1 1).map (·.2)
  let good := (ks.filter fun p => !s.isBad p.1 1).map (·.2)
  let old := s.copyKeep cmd (ks.map (·.2))
  let s := (s.seeKeys (ks.map (·.1))).putKeys (ks.map fun p => (p.2, s.copyByte cmd p.1))
  let (s, cov) := s.cover cmd.cov good
  (s.markKeys bad, { cmd with bad := cmd.bad || !bad.isEmpty, old := old, cov := cov.filter fun k => !bad.contains k })

/-- The command after `n` more bytes of the element of `w` bytes that it moves. -/
def CopyCmd.past (cmd : CopyCmd) (w n : Nat) : CopyCmd :=
  if w ≤ cmd.off + n then { cmd with done := cmd.done + 1, off := 0 } else { cmd with off := cmd.off + n }

/-- Move the next bytes of a copy, within one line of the source and one of the destination: the lines before one that fails
or is refused stand written. An element beyond an EXTENT is skipped; in rising order so are all that follow it. -/
def State.copyElem (s : State) (c q n : Nat) (cmd : CopyCmd) : State :=
  let (pin, size) := s.pinOf c cmd.ctx
  let w := recEsize cmd.src
  let launch := s.launchFor c cmd.ctx
  match laneAddress cmd.src c pin size cmd.elem w, laneAddress cmd.dst c pin size cmd.elem w with
  | .at a o, .at b p =>
    if o || p then s.stopCopy c q n cmd false false .refused
    else
      let a := a + cmd.off
      let b := b + cmd.off
      let m := min (w - cmd.off) (min (128 - a % 128) (128 - b % 128))
      match s.engineKeys c launch cmd.asid .load (recKind cmd.src == 0) a m with
      | (s, .error e) => s.stopCopy c q n cmd false false e
      | (s, .ok from_) =>
        match s.engineKeys c launch cmd.asid .store (recKind cmd.dst == 0) b m with
        | (s, .error e) => s.stopCopy c q n cmd true false e
        | (s, .ok into_) =>
          let (s, cmd) := ((s.wakeTrip c from_).wakeTrip c into_).copyMove cmd (from_.zip into_)
          s.setCopy c q n (cmd.past w m)
  | _, _ => s.setCopy c q n { cmd with done := if cmd.down then cmd.done + 1 else cmd.n }

/-- The keys of the bytes that the next piece of a copy writes. -/
def State.copyInto (s : State) (c : Nat) (cmd : CopyCmd) : List Nat :=
  let (pin, size) := s.pinOf c cmd.ctx
  let w := recEsize cmd.src
  match laneAddress cmd.src c pin size cmd.elem w, laneAddress cmd.dst c pin size cmd.elem w with
  | .at a _, .at b _ =>
    let a := a + cmd.off
    let b := b + cmd.off
    let m := min (w - cmd.off) (min (128 - a % 128) (128 - b % 128))
    match (s.engineKeys c (s.launchFor c cmd.ctx) cmd.asid .store (recKind cmd.dst == 0) b m).2 with
    | .ok ks => ks
    | .error _ => []
  | _, _ => []

/-- The node that the engine serves: one that is to be killed, else the first in the queue. -/
def State.copyHead (s : State) (c : Nat) : Option (Nat × Nat) :=
  let l := (s.core c).copyQ
  match l.find? fun p => ((sget (s.nodes c p.1) p.2).map (·.kill)).getD false with
  | some p => some p
  | none => l.head?

/-- COPY_NODE_DONE: the copy engine moves the next piece of the node it serves; behind the last one the node ends with
status 0, 1 or 3, and a node that is to be killed ends at once. While a page fault is pending the engine waits. -/
def execCopyNodeDone (core : Nat) (s : State) : Host.Outcome State Fault Refusal :=
  match s.copyHead core with
  | none => .next s
  | some (q, n) =>
    match s.copyCmd core q n with
    | none => .next s
    | some (nd, cmd) =>
      if nd.kill then .next (s.endCopy core q n 2)
      else if cmd.pf.isSome then .next s
      else if cmd.done < cmd.n then .next (s.copyElem core q n cmd)
      else .next (s.endCopy core q n (if cmd.bad then 3 else if shortOf cmd.src cmd.n || shortOf cmd.dst cmd.n then 1 else 0))

/-! ### The graph instructions -/

/-- A node id that names a node in use; operand `i` holds it. -/
def nodeOk (s : State) (c q : Nat) (i : BitVec 5) (id : W) : Except Stop Node :=
  match (if id.toNat < graphSize q then sget (s.nodes c q) id.toNat else none) with
  | some n => .ok n
  | none => .error (.res i)

/-- Create a node, or answer that none is free (R323). -/
def newNode (s : State) (c x d : Nat) (kind : NodeKind) : Done :=
  let q := graphOf x
  match sfree (s.nodes c q) (graphSize q) 0 with
  | none => doneS s c x d 0xffffffff
  | some id => doneS (s.setNodes c q (sput (s.nodes c q) id { kind := kind })) c x d (BitVec.ofNat 32 id)

/-- Some element below `n` of a `local` record overruns the pinned region. -/
def overruns (s : State) (c x : Nat) (r : BitVec 128) (n : Nat) : Bool :=
  if recKind r != 2 then false
  else
    let (pin, size) := s.pinOf c x
    let m := min n (recExtent r)
    let beyond (i : Nat) : Bool := match laneAddress r c pin size i (recEsize r) with
      | .at _ o => o
      | .oob => false
    if m = 0 then false else if recSwz r = 1 then (List.range m).any beyond else beyond (m - 1)

def execGnCp (f : EX) (s : State) : Host.Outcome State Fault Refusal :=
  issue s (exForm .dest .read .read f) fun s c x vs => do
    let g := s.gang c x
    let w := (uVal vs 0).toNat
    let n := (uVal vs 1).toNat
    let src := vget g.recs (w % 16) 0
    let dst := vget g.recs (w / 16 % 16) 0
    need (!recBad src && !recBad dst) (.code eRec)
    need (recEsize src == recEsize dst) (.code eFmt)
    need (!recRo dst) (.code ePerm)
    need (!(recStrict src && shortOf src n) && !(recStrict dst && shortOf dst n)) (.code eBnd)
    need (!overruns s c x src n && !overruns s c x dst n) (.code ePerm)
    let s := if shortOf src n || shortOf dst n then s.modGang c x fun g => g.raise fOob else s
    pure (newNode s c x f.d.toNat
      (.copy { src := src, dst := dst, n := n, pc := g.pc, ctx := x, asid := s.asidOf c x, down := Config.copyDown s.tick }))

def execGnWk (f : EX) (s : State) : Host.Outcome State Fault Refusal :=
  let fm := exForm .dest (.idx 32) .zero f
  issue s { fm with legal := fm.legal && f.a != 0 && f.a != f.d, dests := sDest f.a ++ fm.dests } fun s c x _ =>
    let q := graphOf x
    let full := (sfree (s.nodes c q) (graphSize q) 0).isNone
    pure (newNode (if full then s else s.emptyS c x f.a.toNat) c x f.d.toNat (.wake x f.a.toNat))

/-- Node `b` can be reached from node `a`. -/
def reaches (ns : Store Node) (b : Nat) : Nat → List Nat → Bool
  | 0, l => l.contains b
  | fuel + 1, l =>
    l.contains b || reaches ns b fuel (l.foldl (fun acc n =>
      (((sget ns n).map (·.succ)).getD []).foldl (fun acc m => insNat m acc) acc) [])

def execGnEdge (f : EX) (s : State) : Host.Outcome State Fault Refusal :=
  issue s (exForm .zero .read .read f) fun s c x vs => do
    let q := graphOf x
    let a := (uVal vs 0).toNat; let b := (uVal vs 1).toNat
    let na ← nodeOk s c q f.a (uVal vs 0)
    let nb ← nodeOk s c q f.b (uVal vs 1)
    need (nb.st == .built) (.res f.b)
    need (na.succ.length < 8 && a != b && !reaches (s.nodes c q) a 64 [b]) (.res f.a)
    let s := s.modNode c q a fun d => { d with succ := d.succ ++ [b] }
    pure (done (if na.finished then (s.lowerNode c q na.status [] b).1 else s))

/-- Arm a node and start what can start (R317, R318). -/
def State.armNode (s : State) (c q n count : Nat) : State :=
  let s := s.modNode c q n fun d => { d with count := d.count + count, st := .armed }
  let (s, fin) := s.startNode c q n
  s.settleNodes c q 1024 fin

/-- `gn.arm` waits as a fence of the LS path at scope `.pod`: R244 puts every LS event before it, those on pod memory among
them, before the events of the node, by edges of that scope, where R324 speaks of `fence.x.pkg` (log 65). -/
def execGnArm (f : EX) (s : State) : Host.Outcome State Fault Refusal :=
  issue s (exForm .zero .read .read f) fun s c x vs => do
    let q := graphOf x
    let n ← nodeOk s c q f.a (uVal vs 0)
    need (n.st == .built) (.res f.a)
    need ((uVal vs 1).toNat ≤ 64) (.res f.b)
    need (s.fenceDone c x 1 4) (.park .fence 0)
    pure (done ((s.armNode c q (uVal vs 0).toNat (uVal vs 1).toNat).completed c x))

def execGnWait (f : EX) (s : State) : Host.Outcome State Fault Refusal :=
  issue s (exForm .dest .read .zero f) fun s c x vs => do
    let n ← nodeOk s c (graphOf x) f.a (uVal vs 0)
    need (n.st != .built) (.res f.a)
    need n.finished (.park .node (BitVec.ofNat 8 (uVal vs 0).toNat))
    pure { doneS s c x f.d.toNat (BitVec.ofNat 32 n.status) with ends := some {} }

def execGnKill (f : EX) (s : State) : Host.Outcome State Fault Refusal :=
  issue s (exForm .zero .read .zero f) fun s c x vs => do
    let _ ← nodeOk s c (graphOf x) f.a (uVal vs 0)
    pure (done ((s.killNodes c (graphOf x) 1024 [(uVal vs 0).toNat]).completed c x))

def execGnFree (f : EX) (s : State) : Host.Outcome State Fault Refusal :=
  issue s (exForm .zero .read .zero f) fun s c x vs => do
    let q := graphOf x
    let id := (uVal vs 0).toNat
    let n ← nodeOk s c q f.a (uVal vs 0)
    need (n.st == .built || n.finished) (.res f.a)
    let ns := (sdel (s.nodes c q) id).map fun p => (p.1, { p.2 with succ := p.2.succ.filter fun m => m != id })
    pure (done (s.setNodes c q ns))

end Sys2Proof.Machine
end

