-- ==== Sys2Proof/Machine/Kiosk.lean ====
section
/-! DEFINITION. Sys2Proof/Machine/Kiosk.lean: reads of device memory byte by byte, the end of a combiner wave (R282,
R283), and the kiosks with their phases (R387, R388), which the model serves itself (log 12). -/

namespace Sys2Proof.Machine

/-! ### Reads through a translation (R212) -/

/-- Why a read of device memory failed: a page, or an uncorrectable word. -/
inductive VaErr where
  | page (va : Nat) (f : LookFail)
  | bad
  deriving DecidableEq, Repr

/-- The `n` bytes at a virtual address, each looked up with `look`. -/
def readVa (look : State → Nat → State × Except LookFail TlbEntry) : Nat → State → Nat → State × Except VaErr (List Byte)
  | 0, s, _ => (s, .ok [])
  | n + 1, s, va =>
    match look s va with
    | (s, .error f) => (s, .error (.page va f))
    | (s, .ok e) =>
      match readVa look n (s.touch (e.key va) true false) ((va + 1) % 2 ^ 48) with
      | (s, .ok bs) => (s, if s.isBad (e.key va) 1 then .error .bad else .ok (memRead s.mem (e.key va) :: bs))
      | r => r

/-- A little-endian field of a byte list. -/
def bytesNat (bs : List Byte) (off n : Nat) : Nat := leNat ((bs.drop off).take n)

/-- A lookup without lanes has failed: the record is posted and the group parks (R218, R202). -/
def State.lookFault (s : State) (c x : Nat) (what : LookFor) (k : AccKind) (rep : Bool) (va : Nat) (f : LookFail) : State :=
  let (seq, s) := s.postPf c x (s.asidOf c x)
    { cause := f.cause, kind := k, level := f.level, rep := rep, va := va, pc := (s.gang c x).pc }
  (s.modGang c x fun g =>
    { g.modGroup (fun q => { q with park := some (.pageFault, 0) }) with
      look := none, pf := some { seq := seq, lanes := 0, what := what, va := BitVec.ofNat 48 va } }).freeSlot c x

/-! ### The end of a wave (R282, R283) -/

/-- The replies of a wave that has ended, in lane order: those recorded, 0 where none was, or failures. -/
def State.sendReplies (s : State) (c : Nat) (w : Wave) : State :=
  (w.reqs.zip (List.range w.reqs.length)).foldl (fun s p =>
    let r : Reply := { pkt := p.1.pkt, lane := p.1.lane, ok := !w.failed, val := sgetD w.replies p.2 0 }
    { s with replies := sput s.replies s.nextId r, nextId := s.nextId + 1 }.wakeRoute 1 c p.1.core) s

/-- The plaza context is free: what no longer has a register to fill goes with it. -/
def State.freePlaza (s : State) (c : Nat) : State :=
  (s.freeSlot c 64).modCore c fun k =>
    { k with gangs := sdel k.gangs 64, accs := k.accs.filter fun p => p.2.ctx != 64,
             sfu := k.sfu.filter fun p => p.2.ctx != 64, sfuQ := k.sfuQ.filter fun x => x != 64 }

/-- A wave that has begun to end and whose accesses on every path have been performed, those of its graph among them,
sends its replies and frees the context. -/
def State.waveSweep (s : State) (c : Nat) : State :=
  match (s.gang c 64).wave with
  | none => s
  | some w =>
    if !w.ending then s
    else
      let s := (s.dropUnsent c 64).modGang c 64 fun g => { g with look := none, pf := none }
      if s.fenceDone c 64 63 4 && !((s.core c).plazaNodes.any fun p => p.2.st == .running) then
        (s.sendReplies c w).freePlaza c
      else s

/-- The wave of a core begins to end. -/
def State.endWave (s : State) (c : Nat) (failed : Bool) : State :=
  ((s.modGang c 64 fun g => { g with wave := g.wave.map fun w =>
    { w with replies := if failed then [] else w.replies, ending := true, failed := failed } }).freeSlot c 64).waveSweep c

/-- Record the reply of request `l` of the wave of a core (R281). -/
def State.recordReply (s : State) (c l : Nat) (v : W) : State :=
  s.modGang c 64 fun g => { g with wave := g.wave.map fun w => { w with replies := sput w.replies l v } }

/-- The requests of the wave of a core that have no reply yet, with their lanes. -/
def State.openReqs (s : State) (c : Nat) : List (Nat × Req) :=
  match (s.gang c 64).wave with
  | some w => ((List.range w.reqs.length).zip w.reqs).filter fun p => (sget w.replies p.1).isNone
  | none => []

/-- The method that serves a wave issues its instructions for request `l` (log 12). -/
def State.svcSpend (s : State) (c l : Nat) : State :=
  s.modGang c 64 fun g => { g with wave := g.wave.map fun w => { w with issued := w.issued + Config.svcSteps s.tick l } }

/-- The wave of a core has issued more instructions than PLZLIM, which is then not 0 (R284). -/
def State.overBudget (s : State) (c : Nat) : Bool :=
  let lim := (s.die (dieOf c)).plzlim.toNat
  lim != 0 && match (s.gang c 64).wave with
    | some w => lim < w.issued
    | none => false

/-- A wave that exceeds its budget fails with E_TRAP and code 0x3ffff (R284). -/
def State.failBudget (s : State) (c : Nat) : State := s.takeFault c 64 eTrap 0 0x3ffff 0 0

/-! ### Phases (R387, R388) -/

/-- A phase entry: SIZEVA, and LIMIT and TABLE of the four schedules. -/
structure Phase where
  sizeVa : Nat
  scheds : List (Nat × Nat)

def phaseOf (bs : List Byte) : Phase :=
  { sizeVa := bytesNat bs 0 8, scheds := (List.range 4).map fun i => (bytesNat bs (16 + 12 * i) 4, bytesNat bs (20 + 12 * i) 8) }

/-- The present schedules, by number, with their limits. -/
def Phase.present (p : Phase) : List (Nat × Nat) :=
  (List.range 4).filterMap fun i => match p.scheds[i]? with
    | some (l, _) => if l = 0 then none else some (i, l)
    | none => none

/-- Limits rise strictly. -/
def rising : List Nat → Bool
  | a :: b :: r => a < b && rising (b :: r)
  | _ => true

/-- A phase with schedules, rising, and an aligned SIZEVA. -/
def Phase.ok (p : Phase) : Bool := !p.present.isEmpty && rising (p.present.map (·.2)) && p.sizeVa % 4 == 0

/-- The schedule for a size: its number, OVER, and its limit. -/
def Phase.pick (p : Phase) (size : Nat) : Nat × Bool × Nat :=
  match p.present.find? fun q => size ≤ q.2 with
  | some (i, l) => (i, false, l)
  | none => let q := p.present.getLastD (0, 0); (q.1, true, q.2)

def kDone : W := 0xffffffff
def kBadPhase : W := 0xfffffffe

/-- Change the launch in a slot. -/
def State.modLaunch (s : State) (slot : Nat) (f : Launch → Launch) : State :=
  { s with fe := { s.fe with launches := smod s.fe.launches slot f } }

/-- KIOSK_SCHEDULE_SELECT (R388): at the first request for a phase its size is read and a schedule selected. -/
def State.selectPhase (s : State) (c slot : Nat) (l : Launch) (ph : Phase) (n : Nat) :
    State × Except VaErr (Nat × Bool × Nat × Nat) :=
  match sget l.picked n with
  | some x => (s, .ok x)
  | none =>
    let put (s : State) (size : Nat) : State × Except VaErr (Nat × Bool × Nat × Nat) :=
      let (i, beyond, lim) := ph.pick size
      let x := (i, beyond, min size lim, 0)
      (s.modLaunch slot fun l => { l with picked := sput l.picked n x }, .ok x)
    if ph.sizeVa = 0 then put s (ph.scheds.headD (0, 0)).1
    else
      match readVa (fun s va => s.lookup c l.asid va .load) 4 s ph.sizeVa with
      | (s, .error e) => (s, .error e)
      | (s, .ok bs) => put s (leNat bs)

/-- One request to a kiosk: `wphase` where `sched` holds, else `wfetch`. -/
def State.kioskReq (s : State) (c slot : Nat) (l : Launch) (sched : Bool) (phase : W) : State × Except VaErr W :=
  let look := fun (s : State) va => s.lookup c l.asid va .load
  let n := phase.toNat
  if l.nphase ≤ n || l.phases = 0 then (s, .ok kBadPhase)
  else
    match readVa look 64 s (l.phases + 64 * n) with
    | (s, .error e) => (s, .error e)
    | (s, .ok bs) =>
      let ph := phaseOf bs
      if !ph.ok then (s, .ok kBadPhase)
      else
        match s.selectPhase c slot l ph n with
        | (s, .error e) => (s, .error e)
        | (s, .ok (i, beyond, lim, next)) =>
          if sched then (s, .ok (BitVec.ofNat 32 (i + if beyond then 4 else 0)))
          else if lim ≤ next then (s, .ok kDone)
          else
            let take (s : State) : State :=
              s.modLaunch slot fun l => { l with picked := sput l.picked n (i, beyond, lim, next + 1) }
            let table := (ph.scheds.getD i (0, 0)).2
            if table = 0 then (take s, .ok (BitVec.ofNat 32 next))
            else
              match readVa look 4 s (table + 4 * next) with
              | (s, .error e) => (s, .error e)
              | (s, .ok bs) => (take s, .ok (BitVec.ofNat 32 (leNat bs)))

/-- The launch whose kiosk an object is: its slot and itself. -/
def State.kioskLaunch (s : State) (obj : W) : Option (Nat × Launch) := s.fe.launches.find? fun p => p.2.kiosk == obj

/-- Serve requests of a kiosk wave in lane order; `rep` holds while the first is replayed. A page fault parks the wave, and a
read of an uncorrectable word or a budget that is used up fails it (R284, R388). -/
def State.kioskLanes (c : Nat) (obj : W) (rep : Bool) : List (Nat × Req) → State → State
  | [], s => s.endWave c false
  | (l, r) :: rest, s =>
    let sched := ((sget s.pkts r.pkt).map (·.svc)) == some 6
    let s := if rep then s else s.svcSpend c l
    if s.overBudget c then s.failBudget c
    else
    match s.kioskLaunch obj with
    | none => State.kioskLanes c obj false rest (s.recordReply c l kBadPhase)
    | some (slot, x) =>
      match s.kioskReq c slot x sched r.arg with
      | (s, .ok w) => State.kioskLanes c obj false rest (s.recordReply c l w)
      | (s, .error (.page va f)) => s.lookFault c 64 .kiosk .load rep va f
      | (s, .error .bad) => s.takeFault c 64 ePoison 3 0 0 0

/-- Serve what is left of the kiosk wave of a core. -/
def State.kioskServe (s : State) (c : Nat) (rep : Bool) : State :=
  match (s.gang c 64).wave with
  | some w => State.kioskLanes c w.obj rep (s.openReqs c) s
  | none => s

end Sys2Proof.Machine
end

