-- ==== Sys2Proof/Machine/Lookup.lean ====
section
/-! DEFINITION. Sys2Proof/Machine/Lookup.lean: the end of page lookups (R214, R217, R218), parameter-line fills (R202),
and the translation commands REPLAY, CANCEL and TSYNC (R220 to R226). -/

namespace Sys2Proof.Machine

/-! ### Fetches and line fills (R94, R202, R218) -/

/-- The lookups of a fetch at the PC: its first page, and that of the second halfword of a 32-bit instruction. -/
def State.tryFetch (s : State) (c x : Nat) : State × Option (Nat × LookFail) :=
  let pc := (s.gang c x).pc.toNat
  let asid := s.asidOf c x
  match s.lookup c asid pc .fetch with
  | (s, .error f) => (s, some (pc, f))
  | (s, .ok e) =>
    let va2 := (pc + 2) % 2 ^ 48
    let s := s.touch (e.key pc) (!e.nc) false
    if memRead s.mem (e.key pc) &&& 1 = 1 && pageOf va2 != pageOf pc then
      match s.lookup c asid va2 .fetch with
      | (s, .error f) => (s, some (va2, f))
      | (s, .ok _) => (s, none)
    else (s, none)

/-- A lookup without lanes has succeeded: the group issues at its PC again. -/
def State.lookDone (s : State) (c x : Nat) : State :=
  s.modGang c x fun g => { g.modGroup (fun q => { q with park := none }) with look := none, pf := none }

/-- The end of the lookups for what a gang waits for; `rep` holds for a replay. -/
def State.endLookup (s : State) (c x : Nat) (what : LookFor) (rep : Bool) : State :=
  match what with
  | .access n =>
    match s.acc c n with
    | none => s.lookDone c x
    | some a =>
      match s.translate c n a with
      | (s, _, []) => s.sentAll c x a
      | (s, unf, fs) => s.pageFault c x n a unf fs rep
  | .fetch =>
    match s.tryFetch c x with
    | (s, none) => s.lookDone c x
    | (s, some (va, f)) => s.lookFault c x .fetch .fetch rep va f
  | .kiosk => (s.lookDone c x).kioskServe c rep

/-- TRANSLATION_LOOKUP_END: the lookups that a gang waits for end. -/
def execTranslationLookupEnd (core ctx : Nat) (s : State) : Host.Outcome State Fault Refusal :=
  match (s.gang core ctx).look with
  | none => .next s
  | some what => .next (s.endLookup core ctx what false)

/-- The first line fill of a context whose data have returned: the number of its access, the line and the access. -/
def State.fillArrived (s : State) (c x : Nat) : Option (Nat × Nat × Access) :=
  (s.core c).accs.findSome? fun p => match p.2.dst with
    | .prm line => if p.2.ctx == x && p.2.allDone then some (p.1, line, p.2) else none
    | _ => none

/-- PARAM_LINE_FILL: the line arrives in the core's cache, and the parked `prm` issues again. A line whose read has met an
uncorrectable error is not kept: the gang faults E_POISON with cause 3, as any read of such data makes its destination
poisoned (R193; log 58). -/
def execParamLineFill (core ctx : Nat) (s : State) : Host.Outcome State Fault Refusal :=
  match s.fillArrived core ctx with
  | none => .next s
  | some (n, line, a) =>
    let s := s.modCore core fun k => { k with accs := sdel k.accs n }
    if a.poison then .next (s.takeFault core ctx ePoison 3 0 0 0)
    else
      let l : PLine := { launch := (s.launchOf core ctx).setWidth 8, win := line / 1024, off := line % 1024,
                         bytes := leBytes 64 (a.lanes.headD { lane := 0, addr := 0 }).data }
      .next (s.modCore core fun k => { k with pcache := plinePut k.pcache l })

/-! ### Commands (R220, R221) -/

/-- A global id that names a core (R7). Its reserved bits [3:0] are ignored, as R3 says of reserved fields: BADCMD of R221 is
for reserved bytes (log 57). -/
def gidOk (gid : BitVec 16) : Bool := gid.toNat / 16 < 1536

/-- Write a DONE word, unless its address is 0 or unusable. -/
def State.doneWord (s : State) (addr : Nat) (tag : W) (status : Nat) : State :=
  if addr = 0 || !hbmUsable addr then s else s.put (hbmKey addr) (leBytes 4 tag.toNat ++ leBytes 4 status)

/-- BADCMD of R221; the core of a TSYNC is ignored. A DONE address that is usable and no multiple of 8, which R220 asks for and
R221 does not list, is taken: the word is written there (DESIGN CHOICE, log 74). -/
def tcmdBad (t : TCmd) (core : Bool) : Bool :=
  t.resv || (core && !gidOk t.core) || t.va.toNat % 65536 != 0 || (t.done != 0 && !hbmUsable t.done.toNat)

/-- The queue of a die holds 32 commands; a doorbell beyond sets TQERR. -/
def State.tqFull (s : State) (d : Nat) : Bool := 32 ≤ (s.die d).tsyncs.length + (s.die d).tqWaits.length

/-- A full queue discards the command and sets TQERR. -/
def State.discardT (s : State) (d : Nat) : State := s.modDie d fun x => { x with tqErr := true }

/-! ### Replaying and cancelling (R222, R223, R226) -/

/-- A pending record of a core: that of a live gang, of a saved gang, or of a copy command. -/
inductive PfAt where
  | live (x : Nat) (p : Pf)
  | saved (q g : Nat) (p : Pf)
  | copy (q n : Nat) (c : CopyCmd) (p : EPf)
  deriving DecidableEq, Repr

def PfAt.seq : PfAt → W
  | .live _ p => p.seq
  | .saved _ _ p => p.seq
  | .copy _ _ _ p => p.seq

/-- The pending records of an address space on a core. That of a saved gang which a command has marked is settled: a later
command does not find it (R226). -/
def State.pendingPf (s : State) (c : Nat) (asid : Byte) : List PfAt :=
  let k := s.core c
  let live := k.gangs.filterMap fun p =>
    match p.2.pf with
    | some f => if s.asidOf c p.1 == asid then some (.live p.1 f) else none
    | none => none
  let saved := k.crews.flatMap fun q =>
    if q.2.saved.isNone || q.2.asid != asid then []
    else q.2.kept.filterMap fun g => match g.2.pf with
      | some f => if f.cmd = 0 then some (.saved q.1 g.1 f) else none
      | none => none
  let copies := k.copyQ.filterMap fun e =>
    match s.copyCmd c e.1 e.2 with
    | some (_, cmd) => if cmd.asid == asid then cmd.pf.map fun f => .copy e.1 e.2 cmd f else none
    | none => none
  live ++ saved ++ copies

/-- Mark a saved gang (R226): the area's FLAGS and what is kept of it, with the command that waits for it. -/
def State.markSaved (s : State) (c q g : Nat) (mark : BitVec 2) (waits : Option (Nat × Nat)) : State :=
  let w := s.crew c q
  let k := gangKey (w.saved.getD 0) g
  let fl := s.areaNat k 0x24 1
  let s := s.putArea (k + 0x24) (leBytes 1 (fl % 4 + 4 * mark.toNat))
  s.modCrew c q fun w => { w with kept := smod w.kept g fun e =>
    { e with pf := e.pf.map fun p => { p with cmd := mark, waits := waits } } }

/-- A record that a command waits for has been acted on, or is no longer pending: with the last of them the command ends
(R221, R226). -/
def State.settle (s : State) (waits : Option (Nat × Nat)) : State :=
  match waits with
  | none => s
  | some (d, n) =>
    match sget (s.die d).tqWaits n with
    | none => s
    | some w =>
      if w.left ≤ 1 then (s.modDie d fun x => { x with tqWaits := sdel x.tqWaits n }).doneWord w.done w.tag 0
      else s.modDie d fun x => { x with tqWaits := sput x.tqWaits n { w with left := w.left - 1 } }

/-- Replay a pending record. -/
def State.replayOne (s : State) (c : Nat) (waits : Option (Nat × Nat)) : PfAt → State
  | .live x p => s.endLookup c x p.what true
  | .saved q g _ => s.markSaved c q g 1 waits
  | .copy q n cmd p =>
    match s.lookup c cmd.asid p.va (if p.store then .store else .load) with
    | (s, .ok _) => s.setCopy c q n { cmd with pf := none }
    | (s, .error f) => s.stopCopy c q n cmd p.store true (.page p.va f)

/-- Cancel a pending record: the gang faults E_PFFATAL, and a copy node ends with status 3 (R320). -/
def State.cancelOne (s : State) (c : Nat) (waits : Option (Nat × Nat)) : PfAt → State
  | .live x p =>
    let s := match p.what with
      | .access n => s.cancelAccess c n
      | _ => s
    (s.lookDone c x).takeFault c x ePffatal 0 p.lanes p.va 0
  | .saved q g _ => s.markSaved c q g 2 waits
  | .copy q n _ _ => s.endCopy c q n 3

/-- The record of a saved gang. -/
def PfAt.isSaved : PfAt → Bool
  | .saved _ _ _ => true
  | _ => false

/-- Act with `f` on the records that a command of a die's queue names. Where saved gangs are among them, the command ends
once all of these have acted (R226); else DONE is written now. -/
def State.actPf (s : State) (die : Nat) (f : State → Option (Nat × Nat) → PfAt → State) (done : Nat) (tag : W) (l : List PfAt) :
    State :=
  let sv := l.filter PfAt.isSaved
  let s := (l.filter fun p => !p.isSaved).foldl (fun s p => f s none p) s
  if sv.isEmpty then s.doneWord done tag 0
  else
    let n := s.nextId
    let s := { s with nextId := n + 1 }.modDie die fun d =>
      { d with tqWaits := sput d.tqWaits n { done := done, tag := tag, left := sv.length } }
    sv.foldl (fun s p => f s (some (die, n)) p) s

/-- REPLAY (R222). -/
def execReplay (die : Nat) (t : TCmd) (s : State) : Host.Outcome State Fault Refusal :=
  if s.tqFull die then .next (s.discardT die)
  else if tcmdBad t true then .next (s.doneWord t.done.toNat t.tag 1)
  else
    let c := coreOf t.core.toNat
    let named := (s.pendingPf c t.asid).filter fun (p : PfAt) => t.seq == 0xffffffff || p.seq == t.seq
    if named.isEmpty then .next (s.doneWord t.done.toNat t.tag 2)
    else .next (s.actPf die (fun s d p => s.replayOne c d p) t.done.toNat t.tag named)

/-- The distance of a record from another in the sequence of R219, which skips 0xffffffff. -/
def seqFrom (a b : W) : Nat := (b.toNat + (2 ^ 32 - 1) - a.toNat % (2 ^ 32 - 1)) % (2 ^ 32 - 1)

/-- CANCEL (R223): the named records become faults, and the other records of the address space on the core are
replayed. Its DONE waits for what the named records wait for, and not for the saved gangs whose records it marks for replay, of
which R226 does not speak (DESIGN CHOICE, log 74). -/
def execCancel (die : Nat) (t : TCmd) (s : State) : Host.Outcome State Fault Refusal :=
  if s.tqFull die then .next (s.discardT die)
  else if tcmdBad t true then .next (s.doneWord t.done.toNat t.tag 1)
  else
    let c := coreOf t.core.toNat
    let all := s.pendingPf c t.asid
    let isNamed (p : PfAt) : Bool := seqFrom t.seq p.seq < t.count.toNat
    let named := all.filter isNamed
    let s := (all.filter fun p => !isNamed p).foldl (fun (s : State) p => s.replayOne c none p) s
    if named.isEmpty then .next (s.doneWord t.done.toNat t.tag 2)
    else .next (s.actPf die (fun s d p => s.cancelOne c d p) t.done.toNat t.tag named)

/-! ### TSYNC (R224) -/

/-- A range of `size` bytes at `a` meets the named units; a count of 0 names the whole address space. -/
def tcmdMeets (t : TCmd) (a size : Nat) : Bool :=
  t.count == 0 || (a < t.va.toNat + t.count.toNat * 65536 && t.va.toNat < a + size)

/-- Remove the entries of the named units from every cache of the module. -/
def State.flushTlb (s : State) (t : TCmd) : State :=
  let keep (e : TlbEntry) : Bool := e.asid != t.asid || !tcmdMeets t (e.vpage * e.size) e.size
  let keepW (e : Nat × Byte × Nat × BitVec 64) : Bool :=
    let sz := if e.1 = 1 then 2 ^ 37 else 2 ^ 21
    e.2.1 != t.asid || !tcmdMeets t (e.2.2.1 * sz) sz
  { s with cores := s.cores.map fun p => (p.1, { p.2 with tlb := p.2.tlb.filter keep }),
           dies := s.dies.map fun p => (p.1, { p.2 with dtlb := p.2.dtlb.filter keep, walk := p.2.walk.filter keepW }) }

/-- The lines on their way that were translated through an entry that meets the named units: core, access and line. -/
def State.inFlight (s : State) (t : TCmd) : List (Nat × Nat × Nat) :=
  s.cores.flatMap fun p => p.2.accs.flatMap fun a =>
    if !a.2.dev || s.asidOf p.1 a.2.ctx != t.asid then []
    else (List.range a.2.lines.length).filterMap fun i =>
      match a.2.lines[i]? with
      | some l => if l.st == .sent && tcmdMeets t l.page l.psize then some (p.1, a.1, i) else none
      | none => none

/-- The stores of a hart that have not been performed, by number. -/
def State.hartStores (s : State) (h : Nat) : List Nat :=
  s.flight.filterMap fun e => match e with
    | .storeDone n hart _ _ => if hart = h then some n else none
    | _ => none

/-- A TSYNC whose hart's stores have been performed removes the entries, and from then on waits for the accesses already
translated. -/
def State.beginTsync (s : State) (die n : Nat) (o : TsyncOp) : State :=
  (s.flushTlb o.cmd).modDie die fun d =>
    { d with tsyncs := sput d.tsyncs n { o with stores := [], begun := true, waits := s.inFlight o.cmd } }

/-- TSYNC: it waits for the stores that the submitting hart made before; then the entries are removed, and DONE waits for the
accesses already translated. -/
def execTsync (die : Nat) (t : TCmd) (s : State) : Host.Outcome State Fault Refusal :=
  if s.tqFull die then .next (s.discardT die)
  else if tcmdBad t false then .next (s.doneWord t.done.toNat t.tag 1)
  else
    let o : TsyncOp := { done := t.done.toNat, tag := t.tag, stores := s.hartStores s.curHart, begun := false, waits := [],
                         cmd := t }
    let u := { s with nextId := s.nextId + 1 }
    .next (if o.stores.isEmpty then u.beginTsync die s.nextId o
      else u.modDie die fun d => { d with tsyncs := sput d.tsyncs s.nextId o })

/-- A line awaited by a TSYNC has been performed. -/
def State.performed (s : State) (w : Nat × Nat × Nat) : Bool :=
  match s.acc w.1 w.2.1 with
  | none => true
  | some a =>
    match a.lines[w.2.2]? with
    | some l => l.st != .sent
    | none => true

/-- A store of a hart is on its way. -/
def State.storing (s : State) (n : Nat) : Bool :=
  s.flight.any fun e => match e with
    | .storeDone m _ _ _ => m == n
    | _ => false

/-- The accesses that a TSYNC of a whole address space waits for behind those that it has awaited: it puts the root entry into
effect as it completes (R206), so what has been translated meanwhile through the old root must have been performed, too. -/
def State.lateFlight (s : State) (t : TCmd) : List (Nat × Nat × Nat) := if t.count = 0 then s.inFlight t else []

/-- TSYNC_COMPLETE: once the hart's stores have been performed the entries are removed, and then the awaited accesses have been
performed. A TSYNC of a whole address space puts its root entry into effect (R206), and removes the entries that have been read
meanwhile. -/
def execTsyncComplete (die op : Nat) (s : State) : Host.Outcome State Fault Refusal :=
  match sget (s.die die).tsyncs op with
  | none => .next s
  | some o =>
    if !o.begun then .next (if o.stores.any s.storing then s else s.beginTsync die op o)
    else if !o.waits.all s.performed then .next s
    else if !(s.lateFlight o.cmd).isEmpty then
      .next ((s.flushTlb o.cmd).modDie die fun d => { d with tsyncs := sput d.tsyncs op { o with waits := s.lateFlight o.cmd } })
    else
      let s := s.modDie die fun d => { d with tsyncs := sdel d.tsyncs op }
      let s := if o.cmd.count = 0 then
          let s := s.flushTlb o.cmd
          { s with fe := { s.fe with rootsUsed := sput s.fe.rootsUsed o.cmd.asid.toNat (sgetD s.fe.roots o.cmd.asid.toNat 0) } }
        else s
      .next (s.doneWord o.done o.tag 0)

end Sys2Proof.Machine
end

