-- ==== Sys2Proof/Machine/Transc.lean ====
section
/-! DEFINITION. Sys2Proof/Machine/Transc.lean: the special functions (R137 to R139, R160). `vrcp`, `vsqrt` and `vrsqrt`
are exact up to a sticky bit; `vlog2`, `vtanh` and `vsinpi` are computed in fixed point far beyond FP32, with a sticky
bit, and rounded once (log 9). -/

namespace Sys2Proof.Machine

/-- The largest r below 2^k with r² at most n. -/
def isqrtBits : Nat → Nat → Nat → Nat
  | 0, _, r => r
  | k + 1, n, r =>
    let c := r + 2 ^ k
    isqrtBits k n (if c * c ≤ n then c else r)

/-- The integer square root of a number below 2^(2·k). -/
def isqrt (k n : Nat) : Nat := isqrtBits k n 0

/-- A positive value num/den × 2^e delivered to nearest even. -/
def rneF32 (neg : Bool) (num den : Nat) (e : Int) : W × BitVec 14 := w32 (fp32.deliver .ne neg num den e)

def nanOut (fl : BitVec 14) : W × BitVec 14 := (0x7fc00000, fl)
def infOut (neg : Bool) (fl : BitVec 14) : W × BitVec 14 := (if neg then 0xff800000 else 0x7f800000, fl)
def zeroOut (neg : Bool) : W × BitVec 14 := (if neg then 0x80000000 else 0, 0)

/-- `vrcp` (R138). -/
def rcp32 (a : W) : W × BitVec 14 :=
  match f32Dec a with
  | .nan sg => nanOut (flagIf sg fInv)
  | .inf n => zeroOut n
  | .fin n m e => if m = 0 then infOut n fDz else rneF32 n 1 m (-e)

/-- √(m × 2^e) for m > 0, as a fixed-point number with a sticky bit: m and e are even-aligned, 64 more bits. -/
def sqrtFix (m : Nat) (e : Int) : Nat × Int :=
  let odd := e % 2 = 1
  let m := if odd then 2 * m else m
  let e := if odd then e - 1 else e
  let n := m * 2 ^ 128
  let r := isqrt 80 n
  (2 * r + (if r * r = n then 0 else 1), e / 2 - 65)

/-- `vsqrt` (R138). -/
def sqrt32 (a : W) : W × BitVec 14 :=
  match f32Dec a with
  | .nan sg => nanOut (flagIf sg fInv)
  | .inf n => if n then nanOut fInv else infOut false 0
  | .fin n m e =>
    if m = 0 then zeroOut n
    else if n then nanOut fInv
    else let (r, k) := sqrtFix m e; rneF32 false r 1 k

/-- `vrsqrt` (R138): 2^64 / √(m × 2^e), by the integer root of 2^k / m. -/
def rsqrt32 (a : W) : W × BitVec 14 :=
  match f32Dec a with
  | .nan sg => nanOut (flagIf sg fInv)
  | .inf n => if n then nanOut fInv else zeroOut false
  | .fin n m e =>
    if m = 0 then infOut n fDz
    else if n then nanOut fInv
    else
      let odd := e % 2 = 1
      let m := if odd then 2 * m else m
      let e := if odd then e - 1 else e
      let n := 2 ^ 160 / m
      let r := isqrt 81 n
      let exact := r * r * m = 2 ^ 160
      rneF32 false (2 * r + (if exact then 0 else 1)) 1 (-(e / 2) - 81)

/-! ### The exponential table (R160) -/

def expTab0 : List Nat := [0x3f800000, 0x3f8164d2, 0x3f82cd87, 0x3f843a29, 0x3f85aac3, 0x3f871f62, 0x3f88980f, 0x3f8a14d5]
def expTab1 : List Nat := [0x3f8b95c2, 0x3f8d1adf, 0x3f8ea43a, 0x3f9031dc, 0x3f91c3d3, 0x3f935a2b, 0x3f94f4f0, 0x3f96942d]
def expTab2 : List Nat := [0x3f9837f0, 0x3f99e046, 0x3f9b8d3a, 0x3f9d3eda, 0x3f9ef532, 0x3fa0b051, 0x3fa27043, 0x3fa43516]
def expTab3 : List Nat := [0x3fa5fed7, 0x3fa7cd94, 0x3fa9a15b, 0x3fab7a3a, 0x3fad583f, 0x3faf3b79, 0x3fb123f6, 0x3fb311c4]
def expTab4 : List Nat := [0x3fb504f3, 0x3fb6fd92, 0x3fb8fbaf, 0x3fbaff5b, 0x3fbd08a4, 0x3fbf179a, 0x3fc12c4d, 0x3fc346cd]
def expTab5 : List Nat := [0x3fc5672a, 0x3fc78d75, 0x3fc9b9be, 0x3fcbec15, 0x3fce248c, 0x3fd06334, 0x3fd2a81e, 0x3fd4f35b]
def expTab6 : List Nat := [0x3fd744fd, 0x3fd99d16, 0x3fdbfbb8, 0x3fde60f5, 0x3fe0ccdf, 0x3fe33f89, 0x3fe5b907, 0x3fe8396a]
def expTab7 : List Nat := [0x3feac0c7, 0x3fed4f30, 0x3fefe4ba, 0x3ff28177, 0x3ff5257d, 0x3ff7d0df, 0x3ffa83b3, 0x3ffd3e0c]
def expTab8 : List Nat := [0x40000000]

/-- T[0] to T[64]. -/
def expTab : List Nat := expTab0 ++ expTab1 ++ expTab2 ++ expTab3 ++ expTab4 ++ expTab5 ++ expTab6 ++ expTab7 ++ expTab8

/-- T[i]. -/
def expT (i : Nat) : Nat := expTab.getD i 0
/-- D[i] = T[i+1] − T[i], exact in FP32 (R160). -/
def expD (i : Nat) : Fp := f32Dec (w32 (fp32.sub .ne (expT (i + 1)) (expT i))).1

/-- `vexp2_lane` of R139. -/
def exp2Lane (a : W) : W × BitVec 14 :=
  match f32Dec a with
  | .nan sg => nanOut (flagIf sg fInv)
  | .inf n => if n then (0, 0) else (0x7f800000, 0)
  | .fin neg m e =>
    -- y × 2^k as an integer, k the number of fraction bits
    let k := (-e).toNat
    let y : Int := (Fp.fin neg m e).at (-(k : Int))
    let n : Int := y / 2 ^ k
    let f : Nat := (y - n * 2 ^ k).toNat
    let i := 64 * f / 2 ^ k
    let t := 64 * f % 2 ^ k
    let p := (fp32.sum .ne [(Fp.fin false t (-(k : Int))).mul (expD i) |>.1, f32Dec (BitVec.ofNat 32 (expT i))]).1
    let ex : Int := (p / 2 ^ 23 : Nat) - 127 + n
    let mant := p % 2 ^ 23
    if 128 ≤ ex then (0x7f800000, fOvf ||| fInx)
    else if ex < -126 then (0, fUnf ||| fInx)
    else (BitVec.ofNat 32 ((ex + 127).toNat * 2 ^ 23 + mant), flagIf (f != 0) fInx)

/-! ### Fixed-point series, P = 256 bits -/

/-- One in fixed point. -/
def fxOne : Nat := 2 ^ 256
/-- A product in fixed point. -/
def fxMul (a b : Nat) : Nat := a * b / 2 ^ 256

/-- Σ z^(2j+1) / (2j+1) from the term `t` = z^(2j+1) on, `n` terms. -/
def atanhFrom : Nat → Nat → Nat → Nat → Nat
  | 0, _, _, _ => 0
  | n + 1, t, z2, j => t / (2 * j + 1) + atanhFrom n (fxMul t z2) z2 (j + 1)

/-- 2·atanh(num/den), for num/den at most 1/3. -/
def lnRatio (num den : Nat) : Nat :=
  let z := num * fxOne / den
  2 * atanhFrom 90 z (fxMul z z) 0

/-- ln 2 = 2·atanh(1/3). -/
def fxLn2 : Nat := lnRatio 1 3

/-- `vlog2` (R138). -/
def log232 (a : W) : W × BitVec 14 :=
  match f32Dec a with
  | .nan sg => nanOut (flagIf sg fInv)
  | .inf n => if n then nanOut fInv else infOut false 0
  | .fin n m e =>
    if m = 0 then infOut true fDz
    else if n then nanOut fInv
    else
      let l := Nat.log2 m
      let k : Int := e + l
      if m = 2 ^ l then
        if k = 0 then zeroOut false else rneF32 (k < 0) k.natAbs 1 0
      else
        -- ln of the fraction f = m / 2^l in (1, 2): z = (f − 1)/(f + 1)
        let q := lnRatio (m - 2 ^ l) (m + 2 ^ l) * fxOne / fxLn2
        let v : Int := k * (fxOne : Nat) + (q : Nat)
        rneF32 (v < 0) (2 * v.natAbs + 1) 1 (-257)

/-- Σ z^j / j! from the term `t` = z^j / j! on. -/
def expFrom : Nat → Nat → Nat → Nat → Nat
  | 0, _, _, _ => 0
  | n + 1, t, z, j => t + expFrom n (fxMul t z / (j + 1)) z (j + 1)

/-- Square a fixed-point number `n` times. -/
def fxSquares : Nat → Nat → Nat
  | 0, x => x
  | n + 1, x => fxSquares n (fxMul x x)

/-- `vtanh` (R138). -/
def tanh32 (a : W) : W × BitVec 14 :=
  match f32Dec a with
  | .nan sg => nanOut (flagIf sg fInv)
  | .inf n => (if n then 0xbf800000 else 0x3f800000, 0)
  | .fin n m e =>
    if m = 0 then zeroOut n
    else
      let top : Int := e + Nat.log2 m
      if top < -20 then rneF32 n (m * 2 ^ 41 - 1) 1 (e - 41)   -- x less a part far below half a unit
      else if 4 ≤ top then rneF32 n (2 ^ 60 - 1) 1 (-60)       -- 1 less a part far below half a unit
      else
        -- exp(2x) = exp(2x / 256)^256
        let z := m * 2 ^ (e + 249).toNat
        let q := fxSquares 8 (expFrom 60 fxOne z 0)
        rneF32 n (2 * (q - fxOne) + 1) (2 * (q + fxOne)) 0

/-- π in fixed point. -/
def fxPi : Nat := 0x3243f6a8885a308d313198a2e03707344a4093822299f31d0082efa98ec4e6c89

/-- Σ (−1)^j w^(2j) / (2j+1)! in fixed point, by the terms of even and odd j. -/
def sincFrom : Nat → Nat → Nat → Nat → Nat × Nat
  | 0, _, _, _ => (0, 0)
  | n + 1, t, w2, j =>
    let (p, q) := sincFrom n (fxMul t w2 / ((2 * j + 2) * (2 * j + 3))) w2 (j + 1)
    (t + q, p)

/-- `vsinpi` (R138): x reduced exactly to r in [0, ½], sin(πr) = r × π × sinc(πr). -/
def sinpi32 (a : W) : W × BitVec 14 :=
  match f32Dec a with
  | .nan sg => nanOut (flagIf sg fInv)
  | .inf _ => nanOut fInv
  | .fin n m e =>
    if m = 0 ∨ 0 ≤ e then zeroOut n
    else
      let k := (-e).toNat
      let one := 2 ^ k
      let r := m % (2 * one)               -- |x| mod 2
      let neg := n != (one ≤ r)
      let r := r % one
      let r := if one < 2 * r then one - r else r
      if r = 0 then zeroOut n
      else if 2 * r = one then (if neg then 0xbf800000 else 0x3f800000, 0)
      else
        let w := fxPi * r / one
        let (p, q) := sincFrom 40 fxOne (fxMul w w) 0
        rneF32 neg (2 * (r * fxMul fxPi (p - q)) + 1) 1 (-(k : Int) - 257)

end Sys2Proof.Machine
end

