-- ==== Sys2Proof/Machine/MatrixEngine.lean ====
section
/-! DEFINITION. Sys2Proof/Machine/MatrixEngine.lean: what a matrix command does when it runs (R299 to R303, R306 to R310)
and the accumulation of R161. -/

namespace Sys2Proof.Machine

/-! ### Shapes (R300, R301) -/

/-- Classes of operands: 8-bit float, MXF6, INT8, 4-bit, BF16. -/
inductive MxClass where
  | f8
  | mx6
  | i8
  | b4
  | bf
  deriving DecidableEq, Repr

/-- The class of an A format. -/
def classA (f : Nat) : Option MxClass :=
  match f with
  | 2 => some .bf
  | 4 | 5 => some .f8
  | 6 => some .b4
  | 8 => some .i8
  | 10 | 11 => some .mx6
  | _ => none

/-- The class of a B format. -/
def classB (f : Nat) : Option MxClass := if f = 7 then some .b4 else classA f

/-- K of a class. -/
def MxClass.k : MxClass → Nat
  | .b4 => 256
  | _ => 128
/-- Elements of a chunk (R161). -/
def MxClass.chunk : MxClass → Nat
  | .bf => 16
  | _ => 32
/-- Bytes of a row of A or a column of B. -/
def MxClass.bytes : MxClass → Nat
  | .bf => 256
  | .mx6 => 100
  | _ => 128
/-- Weight slots of an operand. -/
def MxClass.slots : MxClass → Nat
  | .bf => 4
  | _ => 2
/-- The tag of the tile. -/
def MxClass.tag : MxClass → Byte
  | .i8 => 0
  | _ => 1

/-- Element `k` of a packed row of a float format, scale included. -/
def mxElement (fmt : Nat) (cb : List (BitVec 16)) (row k : Nat) : Fp :=
  let el (w : Nat) : Nat := row / 2 ^ (w * k) % 2 ^ w
  match fmt with
  | 2 => bf16.dec (el 16)
  | 4 => e4m3.dec (el 8)
  | 5 => e5m2.dec (el 8)
  | 6 => e2m1.dec (el 4)
  | 7 => cbEntry cb (el 4)
  | _ => mxElem fmt (row / 2 ^ (200 * (k / 32)) % 2 ^ 200) (k % 32)

/-- Signed byte `k` of a packed row. -/
def mxByte (row k : Nat) : Int := (BitVec.ofNat 8 (row / 2 ^ (8 * k))).toInt

/-! ### Accumulation (R161) -/

/-- One chunk of float products added to an accumulator: exact, rounded once. -/
def accChunk (acc : W) (ps : List Fp) : W := BitVec.ofNat 32 (fp32.sum .ne (f32Dec acc :: ps)).1

/-- The float accumulation of a row of A and a column of B, chunk by chunk. -/
def accFloat (cls : MxClass) (a b : Nat → Fp) (acc : W) : W :=
  (List.range (cls.k / cls.chunk)).foldl (fun acc c =>
    accChunk acc ((List.range cls.chunk).map fun j => ((a (c * cls.chunk + j)).mul (b (c * cls.chunk + j))).1)) acc

/-- The integer accumulation. -/
def accInt (a b : Nat → Int) (acc : W) : W :=
  (List.range 4).foldl (fun acc c =>
    (sat32 (sgn acc + sumTo 32 fun j => a (c * 32 + j) * b (c * 32 + j))).1) acc

/-- One accumulator element of an operation. -/
def accElem (cls : MxClass) (fa fb : Nat) (cb : List (BitVec 16)) (row col : Nat) (acc : W) : W :=
  if cls = .i8 then accInt (mxByte row) (mxByte col) acc
  else accFloat cls (mxElement fa [] row) (mxElement fb cb col) acc

/-! ### Tiles and slots -/

def State.tile (s : State) (c t : Nat) : Tile := vget (s.mx c).tiles t {}
def State.setTile (s : State) (c t : Nat) (x : Tile) : State := s.modMx c fun m => { m with tiles := vput m.tiles t x }

/-- Element of a tile. -/
def Tile.at (t : Tile) (row col : Nat) : W := sgetD t.cells (row * 128 + col) 0

/-- The tile with the elements of rows below `n` given by `f`. -/
def Tile.fill (t : Tile) (n : Nat) (f : Nat → Nat → W) : List (Nat × W) :=
  ((List.range (n * 128)).filterMap fun i =>
    let w := f (i / 128) (i % 128)
    if w = 0 then none else some (i, w)) ++ t.cells.filter fun p => n * 128 ≤ p.1

/-- Empty every run that meets the slots `first` to `first + n − 1` (R302). -/
def clearRuns (l : Store WSlot) (first n : Nat) : Store WSlot :=
  l.filter fun p => !(p.1 < first + n && first < p.1 + p.2.n)

/-- Poison tiles `t` to `t + n − 1` of a core. -/
def State.poisonTiles (s : State) (c t n : Nat) : State :=
  (List.range n).foldl (fun s i => s.setTile c (t + i) { s.tile c (t + i) with poison := true }) s

/-! ### Reading and writing SRAM -/

/-- Why a command fails while it runs (R310). -/
inductive MxFail where
  | poison
  | perm
  deriving DecidableEq, Repr

/-- The address of element `i` of a record of a command; none beyond its extent. -/
def MxCmd.addr (m : MxCmd) (r : BitVec 128) (i w : Nat) : Option Nat :=
  match laneAddress r m.core m.pin m.pinSize i w with
  | .at a _ => some a
  | .oob => none

/-- The keys of `n` bytes of an SRAM record's element. -/
def State.mxKeys (s : State) (m : MxCmd) (a n : Nat) : Except MxFail (List Nat) :=
  match s.sramKeys (some m.launch) a n with
  | .ok ks => .ok ks
  | .error _ => .error .perm

/-- The bytes at an address, as a number. -/
def State.mxRead (s : State) (m : MxCmd) (a n : Nat) : Except MxFail Nat := do
  let ks ← s.mxKeys m a n
  if ks.any fun k => s.isBad k 1 then .error .poison else pure (leNat (ks.map fun k => memRead s.mem k))

/-- What writing gives: the state with what has been written, the keys written so far, and the failure that stopped it. -/
abbrev MxWritten := State × List Nat × Option MxFail

/-- Write bytes at an address line by line; `ks` are the keys written before. The lines before a refused one stand written
(R310). `n` bounds the lines. -/
def State.mxWrite (s : State) (m : MxCmd) (ks : List Nat) : Nat → Nat → List Byte → MxWritten
  | 0, _, _ => (s, ks, none)
  | _, _, [] => (s, ks, none)
  | n + 1, a, b :: bs =>
    let p := (b :: bs).take (128 - a % 128)
    match s.mxKeys m a p.length with
    | .error e => (s, ks, some e)
    | .ok k => (s.putKeys (k.zip p)).mxWrite m (ks ++ k) n (a + p.length) ((b :: bs).drop p.length)

/-- Write the element of a record at a row; nothing is written beyond its EXTENT. -/
def State.mxPut (s : State) (m : MxCmd) (r : BitVec 128) (row : Nat) (bs : List Byte) (ks : List Nat) : MxWritten :=
  match m.addr r row bs.length with
  | none => (s, ks, none)
  | some a => s.mxWrite m ks 16 a bs

/-! ### The commands -/

/-- Tiles that `rows` rows from row 0 of tile `t` reach. -/
def tileCount (rows : Nat) : Nat := (rows + 127) / 128

/-- Load one core's half of an operand: columns from `col0`. -/
def State.loadB (s : State) (m : MxCmd) (rc : BitVec 128) (cls : MxClass) (col0 : Nat) : Except MxFail (List Byte) :=
  (List.range 128).foldlM (fun acc n =>
    match m.addr rc (col0 + n) cls.bytes with
    | none => pure (acc ++ zeros cls.bytes)
    | some a => do
      let v ← s.mxRead m a cls.bytes
      pure (acc ++ leBytes cls.bytes v)) []

/-- The rows of A. -/
def State.loadA (s : State) (m : MxCmd) (rc : BitVec 128) (cls : MxClass) : Except MxFail (List Nat) :=
  (List.range (recExtent rc)).mapM fun i =>
    match m.addr rc i cls.bytes with
    | none => pure 0
    | some a => s.mxRead m a cls.bytes

/-- One core's half of an `mx.mma`: the tiles from `t` with the rows accumulated. -/
def State.mmaHalf (s : State) (c t : Nat) (ov : Bool) (cls : MxClass) (fa : Nat) (op : WSlot) (cb : List (BitVec 16))
    (rows : List Nat) : State :=
  let cols := (List.range 128).map fun n => leNat ((op.bytes.drop (n * cls.bytes)).take cls.bytes)
  (List.range (tileCount rows.length)).foldl (fun s i =>
    let old := s.tile c (t + i)
    let rs := (rows.drop (128 * i)).take 128
    let cells := old.fill rs.length fun r n =>
      accElem cls fa op.fmt.toNat cb (rs.getD r 0) (cols.getD n 0) (if ov then 0 else old.at r n)
    s.setTile c (t + i) { cells := cells, tag := if ov then cls.tag else old.tag, poison := !ov && old.poison }) s

/-- The output element of a code (R306). -/
def mxOut (code : Nat) (w : W) : List Byte :=
  let cv (t : Fmt) (n : Nat) : List Byte := leBytes n (convElem t 64 w (.fin false 0 0)).1
  match code with
  | 2 => cv bf16 2
  | 3 => cv fp16 2
  | 4 => cv e4m3 1
  | 5 => cv e5m2 1
  | 8 =>
    let v := sgn w
    leBytes 1 (BitVec.ofInt 8 (max (-128) (min 127 v))).toNat
  | _ => leBytes 4 w.toNat

/-- Bytes of an output element. -/
def mxOutWidth (code : Nat) : Nat :=
  match code with
  | 0 | 1 => 4
  | 2 | 3 => 2
  | _ => 1

/-- The exponential path of a row (R307): the elements in ascending order of column, and their sum. -/
def expRow (bias mxc : W) (xs : List W) : List W × W :=
  xs.foldl (fun (acc : List W × W) x =>
    let d := (opFsub .ne x bias).1
    let e := (exp2Lane (opFmul .ne d mxc).1).1
    (acc.1 ++ [e], (opFadd .ne acc.2 e).1)) ([], 0)

/-- The columns of row `m` from tile `t` on, of every core of a command. -/
def State.tileRow (s : State) (m : MxCmd) (t row : Nat) : List W :=
  m.cores.flatMap fun c => (List.range 128).map fun n => (s.tile c (t + row / 128)).at (row % 128) n

/-- Some tile that `rows` rows from tile `t` read is poisoned, on a core of the command (R299). -/
def State.tilesBad (s : State) (m : MxCmd) (t rows : Nat) : Bool :=
  m.cores.any fun c => (List.range (tileCount rows)).any fun i => (s.tile c (t + i)).poison

/-- The bias of a row (R307): 0 beyond the record's EXTENT. -/
def State.biasOf (s : State) (m : MxCmd) (bias : BitVec 128) (row : Nat) : Except MxFail W :=
  match m.addr bias row 4 with
  | none => .ok 0
  | some a => (s.mxRead m a 4).map (BitVec.ofNat 32)

/-- Write one row of `mx.st`, with its sum; the keys written are gathered. -/
def State.storeRow (s : State) (m : MxCmd) (rc bias sum : BitVec 128) (t code : Nat) (exp : Bool) (mxc : W) (row : Nat)
    (ks : List Nat) : MxWritten :=
  let xs := s.tileRow m t row
  if exp then
    match s.biasOf m bias row with
    | .error e => (s, ks, some e)
    | .ok b =>
      let (es, tot) := expRow b mxc xs
      match s.mxPut m rc row (es.flatMap (mxOut code)) ks with
      | (s, ks, some e) => (s, ks, some e)
      | (s, ks, none) => s.mxPut m sum row (leBytes 4 tot.toNat) ks
  else s.mxPut m rc row (xs.flatMap (mxOut code)) ks

/-- The maximum of a row (R308). -/
def rowMax (tag : Byte) (xs : List W) : W :=
  match xs with
  | [] => 0
  | x :: r =>
    if tag = 1 then
      let m := r.foldl (fun a b => (f32Pick true a b).1) x
      if (f32Dec m).isNan then 0x7fc00000 else m
    else r.foldl maxS x

/-- Write rows one after another until one fails: the state with what was written, and the failure. -/
def rowsRun (f : State → Nat → List Nat → MxWritten) : List Nat → State → List Nat → MxWritten
  | [], s, ks => (s, ks, none)
  | r :: rest, s, ks =>
    match f s r ks with
    | (s, ks, none) => rowsRun f rest s ks
    | w => w

/-- Write rows and clear the marks of the words they cover (R193). -/
def State.writeRows (s : State) (n : Nat) (f : State → Nat → List Nat → MxWritten) : State × Option MxFail :=
  let (s, ks, e) := rowsRun f (List.range n) s []
  ((s.cover [] ks).1, e)

/-- Run a command: the state, and how it fails, if it does. -/
def State.runMx (s : State) (m : MxCmd) : State × Option MxFail :=
  match m.op with
  | .lb rc slot fmt cbn =>
    match classB fmt.toNat with
    | none => (s, none)
    | some cls =>
      let s := m.cores.foldl (fun s c => s.modMx c fun x => { x with slots := clearRuns x.slots slot cls.slots }) s
      let load (i : Nat) : Except MxFail (List Byte) := s.loadB m rc cls (128 * i)
      let put (s : State) (c : Nat) (bs : List Byte) : State := s.modMx c fun x =>
        { x with slots := sput x.slots slot { fmt := fmt, cbn := cbn, pair := m.pair, n := cls.slots, bytes := bs } }
      match load 0 with
      | .error e => (s, some e)
      | .ok b0 =>
        if m.pair then
          match load 1 with
          | .error e => (s, some e)
          | .ok b1 => (put (put s m.core b0) (pairMate m.core) b1, none)
        else (put s m.core b0, none)
  | .mma rc slot t ov cb =>
    let fa := fmtOf (recFmt rc)
    match classA fa, sget (s.mx m.core).slots slot with
    | some cls, some op =>
      match s.loadA m rc cls with
      | .error e => (m.cores.foldl (fun s c => s.poisonTiles c t (tileCount (recExtent rc))) s, some e)
      | .ok rows =>
        let s := s.mmaHalf m.core t ov cls fa op cb rows
        if m.pair then
          match sget (s.mx (pairMate m.core)).slots slot with
          | some op2 => (s.mmaHalf (pairMate m.core) t ov cls fa op2 cb rows, none)
          | none => (s, none)
        else (s, none)
    | _, _ => (s, none)
  | .zero ts raw =>
    (m.cores.foldl (fun s c => (List.range 8).foldl (fun s t =>
      if bit ts t then s.setTile c t { cells := [], tag := if raw then 0 else 1, poison := false } else s) s) s, none)
  | .st rc bias sum t exp code mxc =>
    if s.tilesBad m t (recExtent rc) then (s, some .poison)
    else s.writeRows (recExtent rc) fun s row ks => s.storeRow m rc bias sum t code.toNat exp mxc row ks
  | .rmax rc t =>
    if s.tilesBad m t (recExtent rc) then (s, some .poison)
    else
      s.writeRows (recExtent rc) fun s row ks =>
        s.mxPut m rc row (leBytes 4 (rowMax (s.tile m.core (t + row / 128)).tag (s.tileRow m t row)).toNat) ks
  | .rd v bs t row block mask =>
    let x := s.tile m.core t
    if x.poison then (s.poisonV m.core m.ctx bs v 3, none)
    else (s.fillV m.core m.ctx bs v mask (Lanes.of fun l => x.at row (32 * block + l)) x.tag, none)
  | .wr x mask t row block =>
    let old := s.tile m.core t
    let cells := (activeList mask).foldl (fun (cs : Store W) l =>
      let k := row * 128 + 32 * block + l
      if x.lane l = 0 then sdel cs k else sput cs k (x.lane l)) old.cells
    (s.setTile m.core t { old with cells := cells }, none)

/-! ### Counts on the MX path (R304) -/

/-- The bytes of a row of a class, 0 for none. -/
def classBytes (cls : Option MxClass) : Nat := (cls.map MxClass.bytes).getD 0

/-- The homes that a command's accesses reach, without repeats: those of the first and the last byte of every element, which
is shorter than a slice. -/
def MxCmd.homes (m : MxCmd) : List Nat :=
  let of (r : BitVec 128) (n w : Nat) : List Nat := (List.range n).flatMap fun i =>
    match m.addr r i w with
    | none => []
    | some a => [coreOfAddr a, coreOfAddr ((a + (w - 1)) % 2 ^ 32)]
  let hs : List Nat :=
    match m.op with
    | .lb rc _ fmt _ => of rc (if m.pair then 256 else 128) (classBytes (classB fmt.toNat))
    | .mma rc _ _ _ _ => of rc (recExtent rc) (classBytes (classA (fmtOf (recFmt rc))))
    | .st rc bias sum _ exp code _ =>
      of rc (recExtent rc) (mxOutWidth code.toNat * (if m.pair then 256 else 128)) ++
        (if exp then of bias (recExtent rc) 4 ++ of sum (recExtent rc) 4 else [])
    | .rmax rc _ => of rc (recExtent rc) 4
    | _ => []
  hs.foldl (fun acc h => insNat h acc) []

/-- Count a command, or take it off again; a graph node's command counts for no gang (R321). -/
def State.countMx (s : State) (m : MxCmd) (f : Nat → Nat) : State :=
  if m.node.isSome then s else m.homes.foldl (fun s h => s.countHome m.core m.ctx 2 h f) s

/-! ### Retirement (R303, R310, R313) -/

/-- The command at the head of a core's queue, which for a pair command is also at the head of the other one. -/
def State.mxHead (s : State) (c : Nat) : Option MxCmd :=
  match (s.mx c).q with
  | [] => none
  | m :: _ => if !m.pair || (s.mx (pairMate m.core)).q.head? == some m && (s.mx m.core).q.head? == some m then some m else none

/-- The quad of a core holds a token whose burst runs, and no thermal halt stops it (R313, R418). -/
def State.quadBurst (s : State) (c : Nat) : Bool :=
  !(s.die (dieOf c)).thermal && (s.die (dieOf c)).tokens.any fun t => t.quad == c % 64 / 4 && t.burst.isSome

def MxOp.isMma : MxOp → Bool
  | .mma _ _ _ _ _ => true
  | _ => false

/-- Whether the head command of a core may run to its retirement. -/
def State.mxReady (s : State) (c : Nat) : Bool :=
  match s.mxHead c with
  | none => false
  | some m => !m.op.isMma || s.quadBurst c

/-- Note a matrix error of a crew; the first one stays (R310). -/
def State.mxError (s : State) (m : MxCmd) (e : MxFail) : State :=
  s.modCrew m.core (crewSlot m.ctx) fun w =>
    match w.mxErr with
    | some _ => w
    | none => { w with mxErr := some (match e with
        | .poison => (ePoison, 3, m.pc)
        | .perm => (ePerm, 0, m.pc)) }

/-- MX_COMMAND_RETIRE: the head command of a core's queue runs and retires, and the next one is at the head. -/
def execMxCommandRetire (core : Nat) (s : State) : Host.Outcome State Fault Refusal :=
  if !s.mxReady core then .next s
  else
    match s.mxHead core with
    | none => .next s
    | some m =>
      let (s, e) := s.runMx m
      let s := match e with
        | some e => s.mxError m e
        | none => s
      let s := s.countMx m (· - 1)
      let s := m.cores.foldl (fun s c => s.modMx c fun x => { x with q := x.q.filter fun n => n != m }) s
      let s := match m.node with
        | some n => s.finishNode m.core (crewSlot m.ctx) n (if e.isSome then 3 else 0)
        | none => s
      let s := (s.enterNodes core).enterNodes (pairMate core)
      .next ((s.completed m.core m.ctx).crewSweep m.core (crewSlot m.ctx))

end Sys2Proof.Machine
end

