-- ==== Sys2Proof/Machine/Matrix.lean ====
section
/-! DEFINITION. Sys2Proof/Machine/Matrix.lean: the matrix instructions at issue (R292 to R298, R304, R309 to R312), the
pair's arbiter, `gn.mx` (R324), and the roundabout (R313, R314, R418). -/

namespace Sys2Proof.Machine

/-! ### Deferred errors (R310) -/

/-- The issuing group has begun an instruction of MAJ 1A, and waits in it: for the arbiter, for commands, or in the fence of
`mx.wait`. One that waits for room in a queue has not. -/
def Gang.inMx (g : Gang) : Bool :=
  match g.park with
  | some (.engine, i) => i == 5
  | some (.fence, _) => true
  | _ => false

/-- A deferred error of the crew stops an instruction that issues, not one that waits for what it has asked. -/
def deferred (s : State) (c x : Nat) : Except Stop Unit :=
  if (s.gang c x).inMx then .ok ()
  else
    match (s.crew c (crewSlot x)).mxErr with
    | some (code, cause, pc) => .error (.fault code cause 0 pc 2)
    | none => .ok ()

/-- The error is cleared once it has been reported. -/
def clearReported (s : State) : State :=
  match s.cur with
  | none => s
  | some (c, x) =>
    match (s.gang c x).halt with
    | some rc => if bit rc.b2 1 then s.modCrew c (crewSlot x) fun w => { w with mxErr := none } else s
    | none => s

/-- Issue an instruction of MAJ 1A other than `cbld`: not in the plaza context (R279), by a whole gang, with the deferred
error and the role checked first (R292, R310). -/
def issueMx (s : State) (fm : Form) (body : State → Nat → Nat → List Val → Except Stop Done) :
    Host.Outcome State Fault Refusal :=
  match issue s { fm with wide := true } (fun s c x vs => do
    notPlaza x
    deferred s c x
    need (bit (s.gang c x).role 0) (.code eRole)
    body s c x vs) with
  | .next t => .next (clearReported t)
  | r => r

/-! ### What earlier commands leave (R303) -/

/-- What the checks need of a core's slots and tiles: operands without their bytes, and the tiles' tags. -/
structure MxView where
  slots : Store WSlot
  tags : Nat → Byte

/-- The view of a core after a queued command has run. -/
def MxView.after (v : MxView) (m : MxCmd) : MxView :=
  match m.op with
  | .lb _ slot fmt cbn =>
    match classB fmt.toNat with
    | none => v
    | some cls =>
      let o : WSlot := { fmt := fmt, cbn := cbn, pair := m.pair, n := cls.slots, bytes := [] }
      { v with slots := sput (clearRuns v.slots slot cls.slots) slot o }
  | .mma rc _ t true _ =>
    match classA (fmtOf (recFmt rc)) with
    | none => v
    | some cls => { v with tags := fun i => if t ≤ i && i < t + tileCount (recExtent rc) then cls.tag else v.tags i }
  | .zero ts raw => { v with tags := fun i => if bit ts i then (if raw then 0 else 1) else v.tags i }
  | _ => v

/-- The slots and tags of a core as they stand once its queue has run. -/
def State.mxView (s : State) (c : Nat) : MxView :=
  (s.mx c).q.foldl MxView.after { slots := (s.mx c).slots, tags := fun i => (s.tile c i).tag }

/-! ### The checks of R312 -/

/-- The crew's licence. -/
def licence (w : Crew) : Except Stop (Bool × Nat × Nat) :=
  match w.lic with
  | some l => .ok l
  | none => .error (.code eRole)

/-- Step 2: records. -/
def mxRecord (r : BitVec 128) : Except Stop Unit := do
  need (!recBad r) (.code eRec)
  need (recKind r != 0) (.code ePerm)

/-- Tiles `t` to `t + n − 1` that exist are held in the form asked for. -/
def tilesHeld (w : Crew) (pair : Bool) (t n : Nat) : Bool :=
  (List.range n).all fun i => 8 ≤ t + i || bit w.pair (t + i) || (!pair && bit w.solo (t + i))

/-- Rows of a record, for the tiles they need. -/
def rowsOf (r : BitVec 128) : Nat := max 1 (min 1024 (recExtent r))

/-- Step 5 for any record of a command. -/
def mxExtent (r : BitVec 128) : Except Stop Unit := need (1 ≤ recExtent r && recExtent r ≤ 1024) (.code eBnd)

/-- Step 5 for a record whose EXTENT gives the rows. -/
def rowExtent (r : BitVec 128) (t : Nat) : Except Stop Unit := do
  mxExtent r
  need (t + tileCount (recExtent r) ≤ 8) (.code eRes)

/-- Steps 6 and 7 for `n` elements of `w` bytes: their alignment, and the pinned region. -/
def elemsAligned (s : State) (c x : Nat) (r : BitVec 128) (n w align : Nat) : Bool :=
  let (pin, size) := s.pinOf c x
  (List.range n).all fun i => match laneAddress r c pin size i w with
    | .at a _ => a % align == 0
    | .oob => true

def elemsFit (s : State) (c x : Nat) (r : BitVec 128) (n w : Nat) : Bool :=
  let (pin, size) := s.pinOf c x
  (List.range n).all fun i => match laneAddress r c pin size i w with
    | .at _ o => !o
    | .oob => true

/-- Alignment of rows and columns: MXF6 needs none. -/
def rowAlign (cls : MxClass) : Nat := if cls = .mx6 then 1 else 16

/-- A command of a context. -/
def mkCmd (s : State) (c x : Nat) (op : MxOp) (pair : Bool) : MxCmd :=
  let (pin, size) := s.pinOf c x
  { op := op, core := c, ctx := x, pair := pair, pc := (s.gang c x).pc, launch := (s.launchOf c x).setWidth 8, pin := pin,
    pinSize := size, num := (s.mx c).num }

/-- The checks of `mx.lb`: the command, and whether OOB is set. The reduced service accepts the BF16 class only (R414). -/
def checkLb (s : State) (c x : Nat) (f : MxLbF) : Except Stop (MxCmd × Bool) := do
  let w := s.crew c (crewSlot x)
  let (lp, first, count) ← licence w
  let pair := f.pair == 1
  need (!pair || lp) (.code eRole)
  let r := vget (s.gang c x).recs f.rc.toNat 0
  mxRecord r
  match classB f.fmt.toNat with
  | none => .error (.info eIll s.ir)
  | some cls => do
    need (first ≤ f.slot.toNat && f.slot.toNat + cls.slots ≤ first + count) (.code eRes)
    need ((s.full || cls == .bf) && (f.fmt != 7 || fmtOf (recFmt r) == 7)) (.code eFmt)
    let n := if pair then 256 else 128
    mxExtent r
    let short := shortOf r n
    need (!(short && recStrict r)) (.code eBnd)
    need (elemsAligned s c x r n cls.bytes (rowAlign cls)) (.code eAlign)
    need (elemsFit s c x r n cls.bytes) (.code ePerm)
    let cbn := if f.fmt = 7 then (recFmt r).toNat / 16 % 8 else 0
    pure (mkCmd s c x (.lb r f.slot.toNat f.fmt cbn) pair, short)

/-- The checks of `mx.mma`. The codebook that it decodes with is the one of its weight slot now; a node of `gn.mx` keeps it when the
slot gets another operand before the node starts, which the spec leaves open (DESIGN CHOICE, log 73). -/
def checkMma (s : State) (c x : Nat) (f : MxMmaF) : Except Stop (MxCmd × Bool) := do
  let w := s.crew c (crewSlot x)
  let (lp, first, count) ← licence w
  let v := s.mxView c
  let op := sget v.slots f.slot.toNat
  let pair := ((op.map (·.pair)).getD false)
  need (!pair || lp) (.code eRole)
  let r := vget (s.gang c x).recs f.rc.toNat 0
  mxRecord r
  let t := f.tile.toNat
  let ov := f.ov == 1
  need (first ≤ f.slot.toNat && f.slot.toNat < first + count) (.code eRes)
  need (tilesHeld w pair t (tileCount (rowsOf r))) (.code eRes)
  match op, classA (fmtOf (recFmt r)) with
  | some o, some cls => do
    need ((s.full || cls == .bf) && classB o.fmt.toNat == some cls) (.code eFmt)
    let tagOf (u : MxView) : Bool := (List.range (tileCount (rowsOf r))).all fun i => u.tags (t + i) == cls.tag || 8 ≤ t + i
    need (ov || (tagOf v && (!pair || tagOf (s.mxView (pairMate c))))) (.code eFmt)
    rowExtent r t
    need (elemsAligned s c x r (recExtent r) cls.bytes (rowAlign cls)) (.code eAlign)
    need (elemsFit s c x r (recExtent r) cls.bytes) (.code ePerm)
    let cb := if o.fmt = 7 then s.codebook c x o.cbn else []
    pure (mkCmd s c x (.mma r f.slot.toNat t ov cb) pair, false)
  | _, _ => .error (.code eFmt)

/-- The tiles that `n` rows from tile `t` read have the tag on every core of a form. -/
def tagsAre (s : State) (c t n : Nat) (pair : Bool) (tag : Byte) : Bool :=
  (if pair then [c, pairMate c] else [c]).all fun k =>
    let v := s.mxView k
    (List.range (tileCount n)).all fun i => 8 ≤ t + i || v.tags (t + i) == tag

/-- The checks of `mx.st`: the pair form is that of a pair licence (R306). -/
def checkSt (s : State) (c x : Nat) (f : MxStF) : Except Stop (MxCmd × Bool) := do
  let w := s.crew c (crewSlot x)
  let (pair, _, _) ← licence w
  let g := s.gang c x
  let exp := f.exp == 1
  let rec_ (i : Nat) : BitVec 128 := vget g.recs (f.rc.toNat + i) 0
  let r := rec_ 0
  let bias := if exp then rec_ 1 else 0
  let sum := if exp then rec_ 2 else 0
  mxRecord r
  if exp then do
    mxRecord bias
    mxRecord sum
  let t := f.tile.toNat
  need (tilesHeld w pair t (tileCount (rowsOf r))) (.code eRes)
  let code := f.fmt.toNat
  need (tagsAre s c t (rowsOf r) pair (if code = 0 || code = 8 then 0 else 1)) (.code eFmt)
  need (!exp || tagsAre s c t (rowsOf r) pair 1) (.code eFmt)
  rowExtent r t
  if exp then do
    mxExtent bias
    mxExtent sum
  let n := recExtent r
  let short := exp && (shortOf bias n || shortOf sum n)
  need (!(exp && ((shortOf bias n && recStrict bias) || (shortOf sum n && recStrict sum)))) (.code eBnd)
  let row := mxOutWidth code * (if pair then 256 else 128)
  need (elemsAligned s c x r n row 16) (.code eAlign)
  need (!exp || (elemsAligned s c x bias n 4 4 && elemsAligned s c x sum n 4 4)) (.code eAlign)
  need (elemsFit s c x r n row && (!exp || (elemsFit s c x bias n 4 && elemsFit s c x sum n 4))) (.code ePerm)
  pure (mkCmd s c x (.st r bias sum t exp f.fmt g.mxc) pair, short)

/-! ### Queueing (R290, R295, R304, R312) -/

/-- Enter a command into its queues and count it (R304). -/
def State.enqueueMx (s : State) (m : MxCmd) : State := (s.enterMx m).countMx m (· + 1)

/-- Queue a command that has passed its checks, or wait for room. -/
def queueMx (s : State) (m : MxCmd) (oob : Bool) : Except Stop State := do
  need (s.mxRoom m) (.park .engine 0)
  let s := if oob then s.modGang m.core m.ctx fun g => g.raise fOob else s
  pure (s.enqueueMx m)

def execMxLb (f : MxLbF) (s : State) : Host.Outcome State Fault Refusal :=
  issueMx s { legal := mxLbLegal f, fb := f.rest != 0 } fun s c x _ => do
    let (m, oob) ← checkLb s c x f
    pure (done (← queueMx s m oob))

def execMxMma (f : MxMmaF) (s : State) : Host.Outcome State Fault Refusal :=
  issueMx s { legal := true, fb := f.rest != 0 } fun s c x _ => do
    let (m, oob) ← checkMma s c x f
    pure (done (← queueMx s m oob))

def execMxSt (f : MxStF) (s : State) : Host.Outcome State Fault Refusal :=
  issueMx s { legal := mxStLegal f, fb := f.rest != 0 } fun s c x _ => do
    let (m, oob) ← checkSt s c x f
    pure (done (← queueMx s m oob))

/-- `mx.zero` (R311). -/
def execMxZero (f : EX) (s : State) : Host.Outcome State Fault Refusal :=
  issueMx s (exForm .zero .read .zero f) fun s c x vs => do
    let a := uVal vs 0
    let w := s.crew c (crewSlot x)
    let (lp, _, _) ← licence w
    let pair := bit a 9
    need (!pair || lp) (.code eRole)
    need ((List.range 8).all fun t => !bit a t || tilesHeld w pair t 1) (.res f.a)
    pure (done (← queueMx s (mkCmd s c x (.zero (a.setWidth 8) (bit a 8)) pair) false))

/-- `mx.rmax` (R308). -/
def execMxRmax (f : EX) (s : State) : Host.Outcome State Fault Refusal :=
  issueMx s (exForm (.idx 16) (.idx 8) .zero f) fun s c x _ => do
    let w := s.crew c (crewSlot x)
    let (pair, _, _) ← licence w
    let r := vget (s.gang c x).recs f.d.toNat 0
    let t := f.a.toNat
    mxRecord r
    need (tilesHeld w pair t (tileCount (rowsOf r))) (.code eRes)
    rowExtent r t
    need (elemsAligned s c x r (recExtent r) 4 4) (.code eAlign)
    need (elemsFit s c x r (recExtent r) 4) (.code ePerm)
    pure (done (← queueMx s (mkCmd s c x (.rmax r t) pair) false))

/-- `mx.rd` (R309): the destination is empty until the command retires. -/
def execMxRd (f : MxRdF) (s : State) : Host.Outcome State Fault Refusal :=
  issueMx s { legal := true, fb := false, names := [(f.v.toNat, 1)], dests := [f.v.toNat] } fun s c x _ => do
    let w := s.crew c (crewSlot x)
    let _ ← licence w
    need (tilesHeld w false f.tile.toNat 1) (.code eRes)
    let m := mkCmd s c x (.rd f.v.toNat (s.gang c x).binds f.tile.toNat f.row.toNat f.block.toNat (s.gang c x).lanes) false
    let s ← queueMx s m false
    pure { s := s.emptyV c x f.v.toNat 1, dest := f.v.setWidth 8 }

/-- `mx.wr` (R309). -/
def execMxWr (f : EX) (s : State) : Host.Outcome State Fault Refusal :=
  issueMx s (exForm .vread .read .zero f) fun s c x vs => do
    let w := s.crew c (crewSlot x)
    let _ ← licence w
    let a := uVal vs 0
    let t := a.toNat % 8
    need (tilesHeld w false t 1) (.res f.a)
    need (tagOk [fmtOf ((s.mxView c).tags t)] ((vs[1]?).getD (.s 0))) (.code eFmt)
    let m := mkCmd s c x (.wr (srcLanes vs 1) (s.gang c x).lanes t (a.toNat / 8 % 128) (a.toNat / 1024 % 4)) false
    pure (done (← queueMx s m false))

/-! ### Waiting for commands (R294, R298, R304) -/

/-- The wait of a context. -/
def State.mxWaitOf (s : State) (c x : Nat) : Option MxReq := (s.mx c).waits.find? fun r => r.ctx == x

/-- Put a wait in place of the context's earlier one. -/
def State.setMxWait (s : State) (c x : Nat) (r : Option MxReq) : State :=
  s.modMx c fun m => { m with waits := (m.waits.filter fun q => q.ctx != x) ++ r.toList }

/-- A matrix command of the crew of a context is queued, or waits to enter as that of a graph node. -/
def State.crewMx (s : State) (c x : Nat) : Bool :=
  ((s.mx c).q ++ (s.mx c).nodeQ).any fun m => m.core == c && crewSlot m.ctx == crewSlot x

/-- Wait until the commands of the crew that were queued when the instruction issued, and that `uses` selects, have
retired; then go on with `act`. -/
def whenRetired (s : State) (c x : Nat) (uses : MxCmd → Bool) (act : State → Except Stop Done) : Except Stop Done :=
  let lim : Nat := match s.mxWaitOf c x with
    | some r => r.word.toNat
    | none => (s.mx c).num
  if (s.mx c).q.any fun m => m.core == c && crewSlot m.ctx == crewSlot x && m.num < lim && uses m then
    pure { s := s.setMxWait c x (some { ctx := x, kind := 2, word := BitVec.ofNat 32 lim }), parks := some (.engine, 5) }
  else act (s.setMxWait c x none)

/-- `mx.wait` (R304), which then acts as `fence.x.pod mx, ls+mx`. -/
def execMxWait (f : EX) (s : State) : Host.Outcome State Fault Refusal :=
  issueMx s (exForm .zero .zero .zero f) fun s c x _ =>
    whenRetired s c x (fun _ => true) fun s => do
      need (s.fenceDone c x 4 4) (.park .fence 0)
      pure (done s)

/-- `mx.unlic` (R294): it waits for every command of the crew, those of graph nodes that enter meanwhile among them. -/
def execMxUnlic (f : EX) (s : State) : Host.Outcome State Fault Refusal :=
  issueMx s (exForm .zero .zero .zero f) fun s c x _ =>
    if (s.crew c (crewSlot x)).lic.isNone then pure (done s)
    else if s.crewMx c x then .error (.park .engine 5)
    else pure (done (s.dropLicence c (crewSlot x)))

/-- The tiles that a command uses on its own core. -/
def MxCmd.tiles (m : MxCmd) : BitVec 8 :=
  let span (t n : Nat) : BitVec 8 := maskOf 8 fun i => t ≤ i && i < t + n
  match m.op with
  | .lb _ _ _ _ => 0
  | .mma rc _ t _ _ => span t (tileCount (recExtent rc))
  | .zero ts _ => ts
  | .st rc _ _ t _ _ _ => span t (tileCount (recExtent rc))
  | .rmax rc t => span t (tileCount (recExtent rc))
  | .rd _ _ t _ _ _ => span t 1
  | .wr _ _ t _ _ => span t 1

/-- The crew after `acc.rel` of a mask, on the follower as well where `both` holds. -/
def Crew.release (w : Crew) (m : BitVec 8) (both : Bool) : Crew :=
  if both then { w with solo := w.solo &&& ~~~m, pair := w.pair &&& ~~~m, far := w.far &&& ~~~m }
  else { w with solo := w.solo &&& ~~~m, far := w.far ||| (w.pair &&& m), pair := w.pair &&& ~~~m }

/-- `acc.rel` (R298). -/
def execAccRel (f : EX) (s : State) : Host.Outcome State Fault Refusal :=
  issueMx s (exForm .zero .read .zero f) fun s c x vs =>
    let a := uVal vs 0
    let mask : BitVec 8 := a.setWidth 8
    whenRetired s c x (fun m => m.tiles &&& mask != 0) fun s =>
      pure (done (s.modCrew c (crewSlot x) fun w => w.release mask (bit a 8)))

/-! ### The arbiter (R293, R296 to R298) -/

/-- The leader of a core's pair. -/
def pairLead (c : Nat) : Nat := c - c % 2

/-- Tiles of core `c` held by crews other than the one in slot `q` of core `b`. -/
def State.tilesTaken (s : State) (c b q : Nat) : BitVec 8 :=
  let own := (s.core c).crews.foldl (fun m p => if c = b && p.1 = q then m else m ||| p.2.solo ||| p.2.pair) (0 : BitVec 8)
  if c % 2 = 0 then own
  else (s.core (c - 1)).crews.foldl (fun m p => if c - 1 = b && p.1 = q then m else m ||| p.2.pair ||| p.2.far) own

/-- Whether some crew other than that in slot `q` of core `b` holds a weight slot of a range on core `c`. -/
def State.slotsTaken (s : State) (c b q first n : Nat) : Bool :=
  let hit (w : Crew) (far : Bool) : Bool := match w.lic with
    | some (pair, f, k) => (!far || pair) && f < first + n && first < f + k
    | none => false
  ((s.core c).crews.any fun p => !(c == b && p.1 == q) && hit p.2 false) ||
  (c % 2 == 1 && (s.core (c - 1)).crews.any fun p => !(c - 1 == b && p.1 == q) && hit p.2 true)

/-- Fields of the word of `mx.lic`. -/
def licFirst (a : W) : Nat := a.toNat / 2 ^ 8 % 64
def licCount (a : W) : Nat := a.toNat / 2 ^ 16 % 128

/-- Tiles that an `acc.get` still asks for: on its own core, and on the follower. -/
def tilesAsked (w : Crew) (a : W) : BitVec 8 × BitVec 8 :=
  let m : BitVec 8 := a.setWidth 8
  (m &&& ~~~(w.solo ||| w.pair), if bit a 8 then m &&& ~~~(w.pair ||| w.far) else 0)

/-- A request of a core fits what is free. -/
def State.mxFits (s : State) (c : Nat) (r : MxReq) : Bool :=
  let q := crewSlot r.ctx
  if r.kind = 1 then
    !s.slotsTaken c c q (licFirst r.word) (licCount r.word) &&
      (!bit r.word 0 || !s.slotsTaken (pairMate c) c q (licFirst r.word) (licCount r.word))
  else
    let (own, far) := tilesAsked (s.crew c q) r.word
    s.tilesTaken c c q &&& own == 0 && s.tilesTaken (pairMate c) c q &&& far == 0

/-- Fresh tiles. -/
def State.freshTiles (s : State) (c : Nat) (m : BitVec 8) : State :=
  (List.range 8).foldl (fun s t => if bit m t then s.setTile c t { tag := 1 } else s) s

/-- Grant a request. -/
def State.mxGrant (s : State) (c : Nat) (r : MxReq) : State :=
  let q := crewSlot r.ctx
  let s :=
    if r.kind = 1 then
      s.modCrew c q fun w => { w with lic := some (bit r.word 0, licFirst r.word, licCount r.word) }
    else
      let (own, far) := tilesAsked (s.crew c q) r.word
      let s := (s.freshTiles c own).freshTiles (pairMate c) far
      let m : BitVec 8 := r.word.setWidth 8
      s.modCrew c q fun w =>
        if bit r.word 8 then { w with pair := w.pair ||| m, solo := w.solo &&& ~~~m, far := w.far &&& ~~~m }
        else { w with solo := w.solo ||| (m &&& ~~~w.pair &&& ~~~w.far), pair := w.pair ||| (m &&& w.far), far := w.far &&& ~~~m }
  s.setMxWait c r.ctx (some { r with ans := some 0 })

/-- The waiting requests of a pair: core and request. -/
def State.mxWaiting (s : State) (lead : Nat) : List (Nat × MxReq) :=
  [lead, lead + 1].flatMap fun c => ((s.mx c).waits.filter fun r => r.kind != 2 && r.ans.isNone).map fun r => (c, r)

/-- The order of R107 over a pair's requests. -/
def State.mxBefore (s : State) (a b : Nat × MxReq) : Bool :=
  let sa := s.stampOf a.1 a.2.ctx; let sb := s.stampOf b.1 b.2.ctx
  olderStamp sa sb || (sa == sb && a.2.ctx % 16 < b.2.ctx % 16)

/-- The first of a list under an order. -/
def firstBy {α : Type} (lt : α → α → Bool) : List α → Option α
  | [] => none
  | a :: r =>
    match firstBy lt r with
    | none => some a
    | some b => if lt b a then some b else some a

/-- The crews of a pair's cores that hold slots or tiles, by core and slot. -/
def State.mxHolders (s : State) (lead : Nat) : List (Nat × Nat) :=
  [lead, lead + 1].flatMap fun c => ((s.core c).crews.filter fun p =>
    p.2.lic.isSome || p.2.solo != 0 || p.2.pair != 0 || p.2.far != 0).map fun p => (c, p.1)

/-- No waiting request can be granted (R296): they are served in the order of R107, so the first one does not fit. -/
def State.mxNoGrant (s : State) (ws : List (Nat × MxReq)) : Bool :=
  match firstBy s.mxBefore ws with
  | none => false
  | some (c, r) => !s.mxFits c r

/-- The tie of R296. -/
def State.mxTie (s : State) (lead : Nat) : Bool :=
  let ws := s.mxWaiting lead
  let hs := s.mxHolders lead
  s.mxNoGrant ws && !hs.isEmpty &&
    hs.all fun h => ws.any fun w => w.1 == h.1 && crewSlot w.2.ctx == h.2

/-- The crew whose requests a tie refuses: the youngest, and of one stamp that on the higher core. -/
def State.mxLoser (s : State) (lead : Nat) : Option (Nat × Nat) :=
  (firstBy (fun a b =>
    let sa := s.stampOf a.1 a.2.ctx; let sb := s.stampOf b.1 b.2.ctx
    olderStamp sb sa || (sa == sb && b.1 < a.1)) (s.mxWaiting lead)).map fun w => (w.1, crewSlot w.2.ctx)

/-- MX_ARBITER_GRANT: the arbiter of a core's pair serves the first request if it fits, and refuses on a tie. -/
def execMxArbiterGrant (core : Nat) (s : State) : Host.Outcome State Fault Refusal :=
  let lead := pairLead core
  match firstBy s.mxBefore (s.mxWaiting lead) with
  | none => .next s
  | some (c, r) =>
    if s.mxFits c r then .next (s.mxGrant c r)
    else if s.mxTie lead then
      match s.mxLoser lead with
      | none => .next s
      | some (c, q) => .next (s.modMx c fun m =>
          { m with waits := m.waits.map fun r => if r.kind != 2 && r.ans.isNone && crewSlot r.ctx == q then { r with ans := some 1 } else r })
    else .next s

/-- Ask the arbiter and park, or take up its answer. -/
def askMx (s : State) (c x d kind : Nat) (word : W) : Except Stop Done :=
  match s.mxWaitOf c x with
  | none => pure { s := s.setMxWait c x (some { ctx := x, kind := kind, word := word }), parks := some (.engine, 5) }
  | some r =>
    match r.ans with
    | none => .error (.park .engine 5)
    | some a => pure (doneS (s.setMxWait c x none) c x d a)

/-- `acc.get` (R298): the pair form needs the pair licence. -/
def execAccGet (f : EX) (s : State) : Host.Outcome State Fault Refusal :=
  issueMx s (exForm .dest .read .zero f) fun s c x vs => do
    let a := uVal vs 0
    let w := s.crew c (crewSlot x)
    need (!bit a 8 || ((w.lic.map (·.1)).getD false)) (.code eRole)
    if a.setWidth 8 = (0 : BitVec 8) then pure (doneS s c x f.d.toNat 0)
    else askMx s c x f.d.toNat 0 a

/-- The follower core holds a crew of the issuing launch. -/
def State.pairCrew (s : State) (c x : Nat) : Bool :=
  (s.core (pairMate c)).crews.any fun p => p.2.launch == s.launchOf c x

/-- `mx.lic` (R293). -/
def execMxLic (f : EX) (s : State) : Host.Outcome State Fault Refusal :=
  issueMx s (exForm .dest .read .zero f) fun s c x vs => do
    let a := uVal vs 0
    need (1 ≤ licCount a && licCount a ≤ 64 && licFirst a + licCount a ≤ 64) (.res f.a)
    match s.mxWaitOf c x with
    | some _ => askMx s c x f.d.toNat 1 a
    | none =>
      if (s.crew c (crewSlot x)).lic.isSome then pure (doneS s c x f.d.toNat 3)
      else if bit a 0 && (c % 2 == 1 || !s.pairCrew c x) then pure (doneS s c x f.d.toNat 2)
      else askMx s c x f.d.toNat 1 a

/-! ### `gn.mx` (R324) -/

/-- The command that a command word stands for, checked as at issue, the role first. -/
def mxOfWord (s : State) (c x : Nat) (w : W) : Except Stop (MxCmd × Bool) := do
  let role := need (bit (s.gang c x).role 0) (.code eRole)
  need (bit w 0 && wMaj w == 26 && wFn w == 0) (.info eIll s.ir)
  match wSub w with
  | 0 => do
    need (mxLbLegal (readMxLbF w)) (.info eIll s.ir)
    role
    checkLb s c x (readMxLbF w)
  | 1 => do
    role
    checkMma s c x (readMxMmaF w)
  | 3 => do
    need (mxStLegal (readMxStF w)) (.info eIll s.ir)
    role
    checkSt s c x (readMxStF w)
  | _ => .error (.info eIll s.ir)

/-- `gn.mx`: a matrix node, its command checked as if it had issued (R292, R312). -/
def execGnMx (f : EX) (s : State) : Host.Outcome State Fault Refusal :=
  issue s (exForm .dest .read .zero f) fun s c x vs => do
    notPlaza x
    let (m, oob) ← mxOfWord s c x (uVal vs 0)
    let q := graphOf x
    match sfree (s.nodes c q) (graphSize q) 0 with
    | none => pure (doneS s c x f.d.toNat 0xffffffff)
    | some id =>
      let s := if oob then s.modGang c x fun g => g.raise fOob else s
      pure (doneS (s.setNodes c q (sput (s.nodes c q) id { kind := .matrix { m with node := some id } })) c x f.d.toNat
        (BitVec.ofNat 32 id))

/-! ### The roundabout (R313, R314, R418) -/

/-- The quads of a die. -/
def quadCores (d q : Nat) : List Nat := (List.range 4).map fun i => 64 * d + 4 * q + i

/-- An `mx.mma` stands at the head of a queue of the quad. -/
def State.quadWants (s : State) (d q : Nat) : Bool :=
  (quadCores d q).any fun c => match (s.mx c).q with
    | m :: _ => m.op.isMma
    | [] => false

/-- A quad that a moving token stops at: it wants a token and holds none, and no halt stops the die's bursts. -/
def State.quadStops (s : State) (d q : Nat) : Bool :=
  !(s.die d).thermal && s.quadWants d q && !(s.die d).tokens.any fun t => t.quad == q && t.burst.isSome

/-- Replace the first token that `p` selects. -/
def changeToken (p : Token → Bool) (f : Token → List Token) : List Token → List Token
  | [] => []
  | t :: r => if p t then f t ++ r else t :: changeToken p f r

/-- A moving token that stands at a quad which wants one stops there, and the quad's burst begins. -/
def State.takeToken (s : State) (d q : Nat) : State :=
  if s.quadStops d q then
    let held : Token := { quad := q, burst := some s.clock }
    s.modDie d fun x => { x with tokens := changeToken (fun t => t.burst.isNone && t.quad == q) (fun _ => [held]) x.tokens }
  else s

/-- ROUNDABOUT_TOKEN_ARRIVAL: a moving token that has reached a quad which wants one stops there. -/
def execRoundaboutTokenArrival (die quad : Nat) (s : State) : Host.Outcome State Fault Refusal :=
  .next (s.takeToken die quad)

/-- A burst that has run for 1,024 cycles, that has no work, or that a halt has stopped, ends. -/
def State.burstOver (s : State) (die : Nat) (t : Token) : Bool :=
  match t.burst with
  | none => false
  | some b => b + 1024 ≤ s.clock || !s.quadWants die t.quad || (s.die die).thermal

/-- BURST_END: the burst of a quad ends and the token moves on, unless RBTOK has been lowered, which retires it. -/
def execBurstEnd (die quad : Nat) (s : State) : Host.Outcome State Fault Refusal :=
  let beyond (t : Token) : Bool := t.quad == quad && s.burstOver die t
  .next (s.modDie die fun d =>
    let next (t : Token) : List Token :=
      if d.rbtok.toNat < d.tokens.length then [] else [{ t with quad := (quad + 1) % 16, burst := none }]
    { d with tokens := changeToken beyond next d.tokens })

/-- The moving tokens pass a quad: `n` of them retire, and the others stand at the next one (R313, R314). -/
def passQuad : Nat → List Token → List Token
  | _, [] => []
  | n, t :: r =>
    if t.burst.isSome then t :: passQuad n r
    else
      match n with
      | 0 => { t with quad := (t.quad + 1) % 16 } :: passQuad 0 r
      | n + 1 => passQuad n r

/-- The end of a cycle on the roundabouts: a token that stands at a quad which wants one stops there, and every other moving
token passes its quad; tokens beyond RBTOK retire as they pass. -/
def State.moveTokens (s : State) : State :=
  (List.range 24).foldl (fun s d =>
    let s := (s.die d).tokens.foldl (fun s t => s.takeToken d t.quad) s
    s.modDie d fun x => { x with tokens := passQuad (x.tokens.length - x.rbtok.toNat) x.tokens }) s

/-- RBTOK_WRITE: 0 is taken as 1 and more than 16 as 16; a raise adds tokens at quad 0, and after a cut tokens retire as they
pass a quad or end a burst (R314). -/
def execRbtokWrite (die : Nat) (v : W) (s : State) : Host.Outcome State Fault Refusal :=
  let n := if v = 0 then 1 else min v.toNat 16
  .next (s.modDie die fun d =>
    { d with rbtok := BitVec.ofNat 5 n, tokens := d.tokens ++ List.replicate (n - d.tokens.length) { quad := 0 } })

/-- THERMAL_BURST_HALT (R418): no burst runs on the die until the halt lifts. -/
def execThermalBurstHalt (die : Nat) (s : State) : Host.Outcome State Fault Refusal :=
  .next (s.modDie die fun d => { d with thermal := true })

/-- THERMAL_HALT_LIFT (R418). -/
def execThermalHaltLift (die : Nat) (s : State) : Host.Outcome State Fault Refusal :=
  .next (s.modDie die fun d => { d with thermal := false })

end Sys2Proof.Machine
end

