-- ==== Sys2Proof/Machine/Message.lean ====
section
/-! DEFINITION. Sys2Proof/Machine/Message.lean: tagged messages (R257 to R267) and the routers' power gating (R256). -/

namespace Sys2Proof.Machine

/-! ### Headers and selectors (R257, R258) -/

/-- The core that a header or selector names, 12 bits. -/
def hdrCore (h : W) : Nat := h.toNat / 2 ^ 20
/-- The length of a message in bytes. -/
def hdrLen (h : W) : Nat := 16 * (h.toNat / 2 ^ 16 % 16 + 1)
/-- The header with a source core in place of the destination. -/
def hdrFrom (h : W) (src : Nat) : W := BitVec.ofNat 32 (src % 4096 * 2 ^ 20 + h.toNat % 2 ^ 20)

/-- A header, with its source, matches a selector (R258). -/
def selMatches (sel hdr : W) : Bool :=
  (bit sel 19 || hdrCore sel == hdrCore hdr) && (bit sel 18 || sel.toNat % 2 ^ 16 == hdr.toNat % 2 ^ 16)

/-! ### The message unit (R259, R260) -/

/-- A crew of a launch on a core: its slot. -/
def State.crewOf (s : State) (c : Nat) (launch : BitVec 32) : Option Nat :=
  ((s.core c).crews.find? fun p => p.2.launch == launch && !p.2.allEnded).map (·.1)

/-- Deliver a payload to a receive: the buffer is written and the completion register filled, or poisoned with cause 2
where the payload carries an error (R264). -/
def State.deliver (s : State) (c ctx creg addr : Nat) (hdr : W) (bytes : List Byte) (bad : Bool) : State :=
  let s := s.put (sramKey addr) bytes
  if bad then (s.markBad (sramKey addr) bytes.length).poisonS c ctx creg 2 else s.fillS c ctx creg hdr

/-- A refusal sets the crew's overflow flag and posts one record (R260); one that cannot be posted is dropped, and the ring
counts it (R401). The record names no gang: its GANG byte is 16 times the crew slot, with PC 0 and ACTIVE 0; and a dropped one
takes no SEQ. The spec does not say so (DESIGN CHOICE, log 76). -/
def State.overflow (s : State) (c q : Nat) (hdr : W) : State :=
  let w := s.crew c q
  if w.ovf then s
  else
    let s := s.modCrew c q fun w => { w with ovf := true }
    let ring := s.ring (.place c q)
    if ring.isFull then s.setRing (.place c q) { ring with lost := ring.lost + 1 }
    else
    let (seq, s) := s.takeSeq c
    s.postNow (.place c q)
      { code := eMsgovf, b2 := 4, gang := BitVec.ofNat 8 (16 * q), asid := w.asid, core := gidOf c, seq := seq,
        info := BitVec.ofNat 32 (hdrCore hdr * 2 ^ 20 + hdr.toNat % 2 ^ 16), pc := 0 }

/-- What the destination does with a message that has arrived whole: the state and the sender's status (R259). -/
def State.takeMsg (s : State) (m : Msg) (bytes : List Byte) : State × Nat :=
  let hdr := hdrFrom m.hdr m.src
  match s.crewOf m.dst m.launch with
  | none => (s, 3)
  | some q =>
    match (s.core m.dst).receives.find? fun r => r.launch == m.launch && selMatches r.sel hdr with
    | some r =>
      ((s.modCore m.dst fun k => { k with receives := k.receives.erase r }).deliver m.dst r.ctx r.creg r.addr hdr bytes m.bad, 0)
    | none =>
      if (s.core m.dst).layby.length < 32 then
        let e : Layby := { hdr := hdr, payload := bytes, bad := m.bad, launch := m.launch }
        (s.modCore m.dst fun k => { k with layby := k.layby ++ [e] }, 1)
      else (s.overflow m.dst q hdr, 2)

/-- The pieces of 16 bytes of a message. -/
def Msg.pieces (m : Msg) : Nat := hdrLen m.hdr / 16

/-- The payload as it has been read. -/
def Msg.payload (m : Msg) : List Byte := m.got.flatMap (·.2)

/-- A piece of a payload is read, at any time until the message leaves and in any order, so that bytes stored meanwhile may be
old or new (R267). A read that meets an uncorrectable error poisons the completion register with cause 3, and nothing is sent
(R264). Behind the last piece the read is no longer counted at the sender's core, and the message leaves. -/
def payloadRead (msg piece : Nat) (s : State) : State :=
  match sget s.msgs msg with
  | none => s
  | some m =>
    if m.pieces ≤ piece || (sget m.got piece).isSome then s
    else
      let a := sramKey m.addr + 16 * piece
      if s.isBad a 16 then
        let s := (s.countHome m.src m.ctx 4 m.src (· - 1)).countHome m.src m.ctx 4 m.dst (· - 1)
        ({ s with msgs := sdel s.msgs msg }.poisonS m.src m.ctx m.creg 3).completed m.src m.ctx
      else
        let m := { m with got := sput m.got piece (readBytes s.mem a 16) }
        let s := { s with msgs := sput s.msgs msg m }
        if m.got.length < m.pieces then s
        else (s.countHome m.src m.ctx 4 m.src (· - 1)).wakeRoute 0 m.src m.dst

/-- MESSAGE_ARRIVAL: a message whose payload has been read arrives whole at its destination, and the status reply leaves. -/
def execMessageArrival (msg : Nat) (s : State) : Host.Outcome State Fault Refusal :=
  match sget s.msgs msg with
  | none => .next s
  | some m =>
    if m.status.isSome || m.got.length < m.pieces then .next s
    else
      let (s, st) := (s.countHome m.src m.ctx 4 m.dst (· - 1)).takeMsg m m.payload
      .next ({ s with msgs := sput s.msgs msg { m with status := some st } }.wakeRoute 1 m.dst m.src)

/-- MSEND_STATUS: the status reply fills the sender's completion register. -/
def execMsendStatus (msg : Nat) (s : State) : Host.Outcome State Fault Refusal :=
  match sget s.msgs msg with
  | none => .next s
  | some m =>
    match m.status with
    | none => .next s
    | some st =>
      let s := { s with msgs := sdel s.msgs msg }
      let s := if st = 3 then s.poisonS m.src m.ctx m.creg 2 else s.fillS m.src m.ctx m.creg (BitVec.ofNat 32 st)
      .next (s.completed m.src m.ctx)

/-! ### The message instructions (R263 to R266) -/

/-- The checks of a buffer of `n` bytes in the issuing core's slice. R264 does not say which fault goes first where both hold: it is
E_ALIGN (DESIGN CHOICE, log 75). -/
def bufferCheck (s : State) (c x : Nat) (a : W) (n : Nat) : Except Stop Unit := do
  let o := a.toNat % 2 ^ 21
  need (a.toNat % 16 == 0) (.code eAlign)
  need (coreOfAddr a.toNat == c && o + n ≤ 2 ^ 21) (.code ePerm)
  need (s.regionFor c x a.toNat && s.regionFor c x (a.toNat + n - 1)) (.code ePerm)

def execMsend (f : EX) (s : State) : Host.Outcome State Fault Refusal :=
  issue s (exForm .dest .read .read f) fun s c x vs => do
    notPlaza x
    let a := uVal vs 0
    let h := uVal vs 1
    bufferCheck s c x a (hdrLen h)
    need (hdrCore h < 1536) (.code ePerm)
    let m : Msg := { src := c, ctx := x, creg := f.d.toNat, addr := a.toNat, dst := hdrCore h, hdr := h,
                     launch := s.launchOf c x }
    let s := { s with msgs := sput s.msgs s.nextId m, nextId := s.nextId + 1 }
    let s := (s.countHome c x 4 c (· + 1)).countHome c x 4 (hdrCore h) (· + 1)
    pure { s := s.emptyS c x f.d.toNat, dest := BitVec.ofNat 8 (64 + f.d.toNat) }

/-- The oldest lay-by message of a launch that matches a selector. -/
def State.laybyMatch (s : State) (c : Nat) (launch : BitVec 32) (sel : W) : Option Layby :=
  (s.core c).layby.find? fun l => l.launch == launch && selMatches sel l.hdr

def execMrecv (f : EX) (s : State) : Host.Outcome State Fault Refusal :=
  issue s (exForm .dest .read .read f) fun s c x vs => do
    notPlaza x
    let a := uVal vs 0
    let sel := uVal vs 1
    bufferCheck s c x a 256
    let d := f.d.toNat
    let s := s.emptyS c x d
    let launch := s.launchOf c x
    let fin (s : State) : Done := { s := s, dest := BitVec.ofNat 8 (64 + d) }
    match s.laybyMatch c launch sel with
    | some l =>
      let s := (s.modCore c fun k => { k with layby := k.layby.erase l }).clearOvf c
      pure (fin (s.deliver c x d a.toNat l.hdr l.payload l.bad))
    | none =>
      if (s.core c).receives.length < 64 then
        let r : Receive := { ctx := x, sel := sel, addr := a.toNat, creg := d, launch := launch }
        pure (fin (s.modCore c fun k => { k with receives := k.receives ++ [r] }))
      else pure (fin (s.fillS c x d 0xfffffffe))

/-- `mcancel` (R265). Of several receives of one gang that name s0, the oldest goes: the spec does not say how many do (DESIGN
CHOICE, log 75). -/
def execMcancel (f : EX) (s : State) : Host.Outcome State Fault Refusal :=
  issue s { exForm .dest .zero .zero f with dests := [] } fun s c x _ =>
    match (s.core c).receives.find? fun r => r.ctx == x && r.creg == f.d.toNat with
    | some r =>
      pure (done ((s.modCore c fun k => { k with receives := k.receives.erase r }).fillS c x f.d.toNat 0xffffffff))
    | none => pure (done s)

/-- `mprobe` (R266). -/
def execMprobe (f : EX) (s : State) : Host.Outcome State Fault Refusal :=
  issue s (exForm .dest .zero .read f) fun s c x vs =>
    let h : W := match s.laybyMatch c (s.launchOf c x) (uVal vs 0) with
      | some l => l.hdr
      | none => 0xffffffff
    pure (doneS s c x f.d.toNat h)

/-! ### Routers (R256): power gating changes no outcome -/

/-- Router `r` of a mesh: request routers are even, reply routers odd. -/
def State.router (s : State) (r : Nat) : Router := sgetD s.routers r {}
def State.setRouter (s : State) (r : Nat) (x : Router) : State := { s with routers := sput s.routers r x }

/-- A router on an edge of its die that faces a neighbouring die, where a die bridge may attach. -/
def bridgeRouter (r : Nat) : Bool :=
  let c := r / 2
  let d := dieOf c
  (meshCol c == 0 && dieCol d != 0) || (meshCol c == 7 && dieCol d != 5) ||
    (meshRow c == 0 && dieRow d != 0) || (meshRow c == 7 && dieRow d != 3)

/-- A router may power down: it is up, its idle count has reached 256 mesh cycles, which are 128 core cycles, no wake signal is
on its way to it, and no die bridge may attach to it. -/
def State.mayPowerDown (s : State) (router : Nat) : Bool :=
  let r := s.router router
  r.up && r.waking.isNone && 256 ≤ 2 * (s.clock - r.since) && !s.wakes.contains router && !bridgeRouter router

/-- ROUTER_POWER_DOWN: a router that has forwarded no flit for 256 mesh cycles powers down. -/
def execRouterPowerDown (router : Nat) (s : State) : Host.Outcome State Fault Refusal :=
  .next (if s.mayPowerDown router then s.setRouter router { s.router router with up := false } else s)

/-- ROUTER_WAKE_SIGNAL: the wake signal of a packet reaches a router. One that is down begins to wake; one that is up restarts
its idle count. -/
def execRouterWakeSignal (router : Nat) (s : State) : Host.Outcome State Fault Refusal :=
  let r := s.router router
  let s := { s with wakes := s.wakes.filter fun k => k != router }
  .next (s.setRouter router
    (if r.up then { r with since := s.clock } else { r with waking := some (r.waking.getD s.clock) }))

/-- ROUTER_WAKE_DONE: after its 3 mesh cycles, which are not over before 2 core cycles, a waking router is up. -/
def execRouterWakeDone (router : Nat) (s : State) : Host.Outcome State Fault Refusal :=
  match (s.router router).waking with
  | none => .next s
  | some t => .next (if t + 2 ≤ s.clock then s.setRouter router { up := true, since := s.clock } else s)

end Sys2Proof.Machine
end

