-- ==== Sys2Proof/Machine/KvTable.lean ====
section
/-! DEFINITION. Sys2Proof/Machine/KvTable.lean: KV pools and references (R354 to R357), the inverted table (R358 to
R360), and the block service (R361 to R363), which the model serves itself (log 12). -/

namespace Sys2Proof.Machine

/-! ### Pools and references (R354 to R357) -/

/-- The pool of a die and class; a die out of service, and a class whose feature is absent, have none (R412 to R414). -/
def State.pool (s : State) (die cls : Nat) : Pool :=
  if s.dieUp die && s.feature (4 + cls) then vget (s.die die).pools cls {} else {}

/-- A block reference. -/
def refBlk (r : W) : Nat := r.toNat % 2 ^ 20
def refDie (r : W) : Nat := r.toNat / 2 ^ 20 % 32
def refCls (r : W) : Nat := r.toNat / 2 ^ 25 % 2
/-- The pool that a reference names. -/
def State.refPool (s : State) (r : W) : Pool := s.pool (refDie r) (refCls r)

/-- A reference that R357 accepts. -/
def State.refOk (s : State) (r : W) : Bool :=
  let p := s.refPool r
  r.toNat / 2 ^ 28 == 0 && refDie r < 24 && p.nhome != 0 && refBlk r < p.nhome + p.novf

/-- A reference to a block. -/
def mkRef (die cls blk : Nat) : W := BitVec.ofNat 32 (blk + die * 2 ^ 20 + cls * 2 ^ 25)

/-- The bytes of a block of a class. -/
def blkSize (cls : Nat) : Nat := if cls = 0 then 18432 else 4096
/-- The key of block `b`. -/
def Pool.blkKey (p : Pool) (cls b : Nat) : Nat := hbmKey (p.blkpa + b * blkSize cls)
/-- The key of entry `b` of the inverted table. -/
def Pool.tblKey (p : Pool) (b : Nat) : Nat := hbmKey (p.tblpa + 16 * b)

/-! ### Entries (R358) -/

/-- An entry of the inverted table; `next` is 0xfffff for none. -/
structure KvEntry where
  seq : Nat
  lblk : Nat
  layer : Nat
  st : Nat
  cls : Nat
  ovf : Bool
  anon : Bool
  ref : Nat
  pin : Nat
  valid : Nat
  next : Nat
  deriving DecidableEq, Repr

/-- Entry states. -/
def kFree : Nat := 0
def kLive : Nat := 1
def kDraining : Nat := 2
def kNone : Nat := 0xfffff

/-- The entry that 16 bytes hold. -/
def kvEntryOf (x : Nat) : KvEntry :=
  let f (lo n : Nat) : Nat := x / 2 ^ lo % 2 ^ n
  { seq := f 0 32, lblk := f 32 16, layer := f 48 8, st := f 56 2, cls := f 58 1, ovf := f 59 1 = 1, anon := f 60 1 = 1,
    ref := f 64 12, pin := f 76 12, valid := f 88 16, next := f 104 20 }

/-- The 16 bytes of an entry; its reserved bits are 0. -/
def KvEntry.num (e : KvEntry) : Nat :=
  e.seq + e.lblk * 2 ^ 32 + e.layer * 2 ^ 48 + e.st * 2 ^ 56 + e.cls * 2 ^ 58 + e.ovf.toNat * 2 ^ 59 + e.anon.toNat * 2 ^ 60
    + e.ref * 2 ^ 64 + e.pin * 2 ^ 76 + e.valid * 2 ^ 88 + e.next * 2 ^ 104

/-- Read and write an entry. -/
def State.kvGet (s : State) (p : Pool) (b : Nat) : KvEntry := kvEntryOf (s.load (p.tblKey b) 16)
def State.kvPut (s : State) (p : Pool) (b : Nat) (e : KvEntry) : State := s.put (p.tblKey b) (leBytes 16 e.num)
def State.kvMod (s : State) (p : Pool) (b : Nat) (f : KvEntry → KvEntry) : State := s.kvPut p b (f (s.kvGet p b))

/-! ### Lookup and allocation (R359) -/

/-- The bucket of a name. -/
def kvHash (p : Pool) (seq lblk layer : Nat) : Nat :=
  (Nat.xor (Nat.xor (seq * 0x9e3779b1 % 2 ^ 32) (lblk * 0x85ebca77 % 2 ^ 32)) layer) % p.nhome

/-- The probe window of a bucket. -/
def kvWindow (p : Pool) (h : Nat) : List Nat := (List.range 8).map fun i => (h + i) % p.nhome

/-- An entry matches a name. -/
def KvEntry.matches (e : KvEntry) (cls seq lblk layer : Nat) : Bool :=
  e.st == kLive && !e.anon && e.seq == seq && e.lblk == lblk && e.layer == layer && e.cls == cls

/-- Read an entry; none where its word is uncorrectable. -/
def State.kvRead (s : State) (p : Pool) (b : Nat) : Option KvEntry :=
  if s.isBad (p.tblKey b) 16 then none else some (s.kvGet p b)

/-- The first block of a list for which `f` holds, if any; none outside where an entry read on the way is uncorrectable. -/
def State.kvScan (s : State) (p : Pool) (f : KvEntry → Bool) : List Nat → Option (Option Nat)
  | [] => some none
  | b :: r =>
    match s.kvRead p b with
    | none => none
    | some e => if f e then some (some b) else s.kvScan p f r

/-- Follow an overflow chain, at most `n` blocks long, in the same way. -/
def State.kvChain (s : State) (p : Pool) (f : KvEntry → Bool) : Nat → Nat → Option (Option Nat)
  | 0, _ => some none
  | n + 1, b =>
    if b = kNone || p.nhome + p.novf ≤ b then some none
    else
      match s.kvRead p b with
      | none => none
      | some e => if f e then some (some b) else s.kvChain p f n e.next

/-- The block of a name. -/
def State.kvLookup (s : State) (p : Pool) (cls seq lblk layer : Nat) : Option (Option Nat) :=
  let h := kvHash p seq lblk layer
  let f (e : KvEntry) : Bool := e.matches cls seq lblk layer
  match s.kvScan p f (kvWindow p h) with
  | some none => if (s.kvGet p h).ovf then s.kvChain p f p.novf (s.kvGet p h).next else some none
  | r => r

/-- The lowest-numbered FREE block from `b` on, of `n`. -/
def State.kvFirstFree (s : State) (p : Pool) : Nat → Nat → Option (Option Nat)
  | 0, _ => some none
  | n + 1, b =>
    match s.kvRead p b with
    | none => none
    | some e => if e.st == kFree then some (some b) else s.kvFirstFree p n (b + 1)

/-- Allocate a block for a name, with PIN 0, if one is free (R359, R360). -/
def State.kvAlloc (s : State) (p : Pool) (cls seq lblk layer : Nat) : Option (Option (Nat × State)) :=
  let h := kvHash p seq lblk layer
  let mk (e : KvEntry) : KvEntry :=
    { e with seq := seq, lblk := lblk, layer := layer, st := kLive, cls := cls, anon := false, ref := 1, pin := 0, valid := 0 }
  match s.kvScan p (fun e => e.st == kFree) (kvWindow p h) with
  | none => none
  | some (some b) => some (some (b, s.kvMod p b mk))
  | some none =>
    match s.kvFirstFree p p.novf p.nhome with
    | none => none
    | some none => some none
    | some (some b) =>
      let e := s.kvGet p h
      let head := if e.ovf then e.next else kNone
      some (some (b, (s.kvMod p b fun x => { mk x with ovf := false, next := head }).kvMod p h fun x =>
        { x with ovf := true, next := b }))

/-- Take block `b` out of the chain that follows from block `prev`. -/
def State.kvUnchain (s : State) (p : Pool) (b next : Nat) : Nat → Nat → Option State
  | 0, _ => some s
  | n + 1, prev =>
    match s.kvRead p prev with
    | none => none
    | some e =>
      if e.next = b then some (s.kvPut p prev { e with next := next })
      else if e.next = kNone || p.nhome + p.novf ≤ e.next then some s
      else s.kvUnchain p b next n e.next

/-- A block becomes FREE, and its data are undefined (R360, log 13), while the marks of its words stay (R193); an overflow
block leaves its chain, and OVF of its home clears when the chain empties. -/
def State.kvRelease (s : State) (p : Pool) (cls b : Nat) : Option State :=
  let e := s.kvGet p b
  let s := s.kvPut p b { e with st := kFree, ref := 0, pin := 0 }
  let k := p.blkKey cls b
  let s := s.storeBytes k ((List.range (blkSize cls)).map fun i => Config.freeByte s.tick (k + i))
  if b < p.nhome then some s
  else
    let h := kvHash p e.seq e.lblk e.layer
    (s.kvUnchain p b e.next (p.novf + 1) h).map fun s => s.kvMod p h fun x => if x.next = kNone then { x with ovf := false } else x

/-! ### The service (R361 to R363) -/

def kNotFound : W := 0xffffffff
def kNoSpace : W := 0xfffffffe
def kLimit : W := 0xfffffffd
def kBadReq : W := 0xfffffffc

/-- Copy a block with its marks of uncorrectable words. -/
def State.kvCopy (s : State) (p : Pool) (cls src dst : Nat) : State :=
  let a := p.blkKey cls src
  let b := p.blkKey cls dst
  let bad := (List.range (blkSize cls / 128)).filter fun i => s.isBad (a + 128 * i) 128
  let s := (s.touchAll a (blkSize cls) false).put b (readBytes s.mem a (blkSize cls))
  bad.foldl (fun s i => s.markBad (b + 128 * i) 128) s

/-- `map` of R362. No answer is one that meets an uncorrectable entry. -/
def State.kvMapReq (s : State) (addr target : W) : Option (State × W) :=
  let die := target.toNat % 32
  let cls := target.toNat / 32 % 2
  let p := s.pool die cls
  let k := sramKey addr.toNat
  let r := s.load k 16
  let flags := r / 2 ^ 56 % 256
  let seq := r % 2 ^ 32
  let lblk := r / 2 ^ 32 % 2 ^ 16
  let layer := r / 2 ^ 48 % 256
  let bref : W := BitVec.ofNat 32 (r / 2 ^ 64)
  let pinned := flags / 2 % 2 = 1
  let pin (s : State) (b : Nat) : State := if pinned then s.kvMod p b fun e => { e with pin := e.pin + 1 } else s
  if 8 ≤ flags || r / 2 ^ 96 != 0 || s.isBad k 16 then some (s, kBadReq)
  else if flags / 4 % 2 = 0 then do
    match ← s.kvLookup p cls seq lblk layer with
    | none =>
      if flags % 2 = 0 then some (s, kNotFound)
      else
        match ← s.kvAlloc p cls seq lblk layer with
        | none => some (s, kNoSpace)
        | some (b, s) => some (pin s b, mkRef die cls b + 0x4000000)
    | some b => if pinned && (s.kvGet p b).pin == 4095 then some (s, kLimit) else some (pin s b, mkRef die cls b)
  else if refDie bref != die || refCls bref != cls || !s.refOk bref then some (s, kBadReq)
  else do
    let b := refBlk bref
    let e ← s.kvRead p b
    if e.st != kLive then some (s, kBadReq)
    else if e.ref = 1 then
      if pinned && e.pin == 4095 then some (s, kLimit) else some (pin s b, mkRef die cls b)
    else
      match ← s.kvAlloc p cls seq lblk layer with
      | none => some (s, kNoSpace)
      | some (n, s) =>
        let s := s.kvCopy p cls b n
        let s := s.kvMod p n fun x => { x with valid := e.valid }
        let s := s.kvMod p b fun x =>
          { x with ref := x.ref - 1, anon := x.anon || (x.seq == seq && x.lblk == lblk && x.layer == layer) }
        some (pin s n, mkRef die cls n + 0xc000000)

/-- `fork` of R362. -/
def State.kvForkReq (s : State) (r : W) : Option (State × W) := do
  let p := s.refPool r
  let e ← s.kvRead p (refBlk r)
  if e.st != kLive then some (s, kBadReq)
  else if e.ref = 4095 then some (s, kLimit)
  else some (s.kvPut p (refBlk r) { e with ref := e.ref + 1 }, BitVec.ofNat 32 (e.ref + 1))

/-- `drop` of R362, with R360. -/
def State.kvDropReq (s : State) (r : W) : Option (State × W) := do
  let p := s.refPool r
  let e ← s.kvRead p (refBlk r)
  if e.st != kLive then some (s, kBadReq)
  else
    let n := e.ref - 1
    let s ← if n != 0 then some (s.kvPut p (refBlk r) { e with ref := n })
      else if e.pin = 0 then s.kvRelease p (refCls r) (refBlk r)
      else some (s.kvPut p (refBlk r) { e with ref := 0, st := kDraining })
    some (s, BitVec.ofNat 32 n)

/-- `unpin` of R362, with R360. -/
def State.kvUnpinReq (s : State) (r : W) : Option (State × W) := do
  let p := s.refPool r
  let e ← s.kvRead p (refBlk r)
  if !(e.st == kLive || e.st == kDraining) || e.pin == 0 then some (s, kBadReq)
  else
    let e := { e with pin := e.pin - 1 }
    let s ← if e.pin = 0 && e.st == kDraining then s.kvRelease p (refCls r) (refBlk r) else some (s.kvPut p (refBlk r) e)
    some (s, 0)

/-- An object is the block service of a pool. -/
def State.isService (s : State) (obj : W) : Bool :=
  s.dies.any fun d => d.2.pools.toList.any fun p => p.nhome != 0 && p.svc == obj

/-- What a request of a packet asks of the block service, with its argument; `l` is its lane in the wave. -/
def State.kvRequest (s : State) (q : Option Pkt) (l : Nat) (arg : W) : Option (State × W) :=
  match q.map Pkt.svc with
  | some 1 => s.kvMapReq arg ((q.map Pkt.arg2).getD 0)
  | some 2 => s.kvForkReq arg
  | some 3 => s.kvDropReq arg
  | some 4 => s.kvUnpinReq arg
  | _ => some (s, Config.freeWord s.tick l)

/-! ### What a request reads (R215) -/

/-- The blocks whose entries `kvScan` reads. -/
def State.kvScanned (s : State) (p : Pool) (f : KvEntry → Bool) : List Nat → List Nat
  | [] => []
  | b :: r => b :: (match s.kvRead p b with
    | none => []
    | some e => if f e then [] else s.kvScanned p f r)

/-- The blocks whose entries `kvChain` reads. -/
def State.kvChained (s : State) (p : Pool) (f : KvEntry → Bool) : Nat → Nat → List Nat
  | 0, _ => []
  | n + 1, b =>
    if b = kNone || p.nhome + p.novf ≤ b then []
    else b :: (match s.kvRead p b with
      | none => []
      | some e => if f e then [] else s.kvChained p f n e.next)

/-- The blocks whose entries a lookup by name reads, and those that an allocation reads. -/
def State.kvNamed (s : State) (p : Pool) (cls seq lblk layer : Nat) : List Nat :=
  let h := kvHash p seq lblk layer
  let f (e : KvEntry) : Bool := e.matches cls seq lblk layer
  s.kvScanned p f (kvWindow p h) ++
    (if s.kvScan p f (kvWindow p h) = some none && (s.kvGet p h).ovf then s.kvChained p f p.novf (s.kvGet p h).next else [])
def State.kvTried (s : State) (p : Pool) (seq lblk layer : Nat) : List Nat :=
  let w := kvWindow p (kvHash p seq lblk layer)
  let f (e : KvEntry) : Bool := e.st == kFree
  s.kvScanned p f w ++
    (if s.kvScan p f w = some none then s.kvScanned p f ((List.range p.novf).map (p.nhome + ·)) else [])

/-- The keys of the table entries that a request reads. -/
def State.kvSees (s : State) (q : Option Pkt) (arg : W) : List Nat :=
  match q.map Pkt.svc with
  | some 1 =>
    let target := (q.map Pkt.arg2).getD 0
    let p := s.pool (target.toNat % 32) (target.toNat / 32 % 2)
    let r := s.load (sramKey arg.toNat) 16
    let seq := r % 2 ^ 32
    let lblk := r / 2 ^ 32 % 2 ^ 16
    let layer := r / 2 ^ 48 % 256
    let bs := if r / 2 ^ 58 % 2 = 0 then
        s.kvNamed p (target.toNat / 32 % 2) seq lblk layer ++
          (if s.kvLookup p (target.toNat / 32 % 2) seq lblk layer = some none && r / 2 ^ 56 % 2 = 1 then s.kvTried p seq lblk layer
           else [])
      else
        let b := refBlk (BitVec.ofNat 32 (r / 2 ^ 64))
        b :: (if (s.kvGet p b).st == kLive && (s.kvGet p b).ref != 1 then s.kvTried p seq lblk layer else [])
    if 8 ≤ r / 2 ^ 56 % 256 || r / 2 ^ 96 != 0 || s.isBad (sramKey arg.toNat) 16 then [] else bs.map p.tblKey
  | some n =>
    let p := s.refPool arg
    let e := s.kvGet p (refBlk arg)
    let h := kvHash p e.seq e.lblk e.layer
    let frees := (n == 3 && e.ref == 1 && e.pin == 0) || (n == 4 && e.pin == 1 && e.st == kDraining)
    p.tblKey (refBlk arg) ::
      (if frees && p.nhome ≤ refBlk arg then (h :: s.kvChained p (fun x => x.next == refBlk arg) p.novf (s.kvGet p h).next).map p.tblKey else [])
  | none => []

/-- Serve requests of a block service in lane order (R362). An entry that reads with an uncorrectable error, or a budget that
is used up, fails the wave, and what earlier requests have written stays (R284, R363). -/
def State.kvLanes (c : Nat) : List (Nat × Req) → State → State
  | [], s => s.endWave c false
  | (l, r) :: rest, s =>
    let s := s.svcSpend c l
    if s.overBudget c then s.failBudget c
    else
      let s := s.seeKeys (s.kvSees (sget s.pkts r.pkt) r.arg)
      match s.kvRequest (sget s.pkts r.pkt) l r.arg with
      | some (s, w) => State.kvLanes c rest (s.recordReply c l w)
      | none => s.takeFault c 64 ePoison 3 0 0 0

/-- Serve the wave of a block service. -/
def State.kvServe (s : State) (c : Nat) : State := State.kvLanes c (s.openReqs c) s

end Sys2Proof.Machine
end

