-- ==== Sys2Proof/Machine/Plaza.lean ====
section
/-! DEFINITION. Sys2Proof/Machine/Plaza.lean: objects and combiner waves (R269 to R288), and the requests of `wfetch` and
`wphase` (R389). -/

namespace Sys2Proof.Machine

/-! ### The object table (R270, R271) -/

/-- Fields of an object table entry. -/
def objV (e : BitVec 128) : Bool := bit e 0
def objOpen (e : BitVec 128) : Bool := bit e 1
def objOwner (e : BitVec 128) : Byte := e.extractLsb' 8 8
def objMaxw (e : BitVec 128) : Nat := (e.extractLsb' 16 5).toNat
def objHome (e : BitVec 128) : Nat := (e.extractLsb' 21 6).toNat
def objMethod (e : BitVec 128) : PC := e.extractLsb' 32 48
def objState (e : BitVec 128) : Nat := (e.extractLsb' 80 21).toNat

/-- The defined bits of an entry; the others read 0 (R3). Bit 0 of METHOD, which R270 gives as 0, is one of the others (DEDUCED,
log 52). -/
def objMask : BitVec 128 := 0xff00001ffffffffffffffffe07ffff03

/-- OBJECT_TABLE_WRITE: entries 0 to 63 belong to firmware, and a missing die has no table (R413). -/
def execObjectTableWrite (die idx : Nat) (v : BitVec 128) (firmware : Bool) (s : State) : Host.Outcome State Fault Refusal :=
  if 24 ≤ die || !s.dieUp die || 4096 ≤ idx || (idx < 64 && !firmware) then .next s
  else .next (s.modDie die fun d => { d with objs := sput d.objs idx (v &&& objMask) })

/-! ### Sending requests (R269, R273, R389) -/

/-- An object id that names a table (R269). -/
def objIdOk (obj : W) : Bool := obj.toNat < 2 ^ 17 && obj.toNat / 4096 < 24

/-- The unit whose NT count a request raises until it has arrived: the die of its table. -/
def objUnit (obj : W) : Nat := 4096 + obj.toNat / 4096 % 32

/-- The die of an object's table. -/
def tableDie (obj : W) : Nat := obj.toNat / 4096 % 32

/-- Send a packet. -/
def State.sendPkt (s : State) (c x : Nat) (obj : W) (vec : Bool) (reqs : List (Nat × W)) (dst : AccDst) (svc : Nat)
    (arg2 : W) : State :=
  let p : Pkt := { core := c, ctx := x, launch := s.launchOf c x, obj := obj, vec := vec, reqs := reqs, dst := dst,
                   binds := (s.gang c x).binds, left := reqs.length, svc := svc, arg2 := arg2 }
  { s with pkts := sput s.pkts s.nextId p, nextId := s.nextId + 1 }.countHome c x 4 (objUnit obj) (· + 1)
    |>.wakeRoute 0 c (tableCore (tableDie obj))

/-- Send one request whose reply fills s`d`. -/
def State.call (s : State) (c x d : Nat) (obj arg : W) (svc : Nat) (arg2 : W) : Done :=
  { s := (s.emptyS c x d).sendPkt c x obj false [(0, arg)] (.s d) svc arg2, dest := BitVec.ofNat 8 (64 + d) }

def execObjCall (f : EX) (s : State) : Host.Outcome State Fault Refusal :=
  issue s (exForm .dest .read .read f) fun s c x vs => do
    notPlaza x
    need (objIdOk (uVal vs 1)) (.code ePerm)
    pure (s.call c x f.d.toNat (uVal vs 1) (uVal vs 0) 0 0)

/-- `obj.callv`: both reads always block (R272). With no active lane nothing is sent, and vD is full with the value that it
has (R273). -/
def execObjCallv (f : CallvF) (s : State) : Host.Outcome State Fault Refusal :=
  issue s { legal := true, fb := f.rest != 0, names := [(f.a.toNat, 1), (f.d.toNat, 1)],
            srcs := [{ cls := .vt, code := f.a.toNat, blk := true }, uSrc f.s true], dests := [f.d.toNat] } fun s c x vs => do
    notPlaza x
    let obj := uVal vs 1
    need (objIdOk obj) (.code ePerm)
    let d := f.d.toNat
    let ls := activeList (s.gang c x).lanes
    let arg := (vs[0]?.map Val.lanes).getD (Lanes.splat 0)
    if ls.isEmpty then
      pure { s := s.setVreg c x d { s.vreg c x d with fe := .full, busy := false }, dest := BitVec.ofNat 8 d }
    else
      pure { s := (s.emptyV c x d 1).sendPkt c x obj true (ls.map fun l => (l, arg.lane l)) (.v d 1) 0 0,
             dest := BitVec.ofNat 8 d }

/-- A request to the launch's kiosk, behind `fence.x.pkg ls+cp+mx+kv, nt` (R389). R279 lets a method use these instructions,
but a plaza context has no launch, and what its sD receives is open: a free value (log 12). -/
def callKiosk (f : EX) (svc : Nat) (s : State) : Host.Outcome State Fault Refusal :=
  issue s (exForm .dest .read .zero f) fun s c x vs => do
    need (s.fenceDone c x 15 3) (.park .fence 0)
    if isPlaza x then pure (doneS s c x f.d.toNat (Config.freeWord s.tick f.d.toNat))
    else pure (s.call c x f.d.toNat (s.crew c (crewSlot x)).kiosk (uVal vs 0) svc 0)

def execWfetch (f : EX) (s : State) : Host.Outcome State Fault Refusal := callKiosk f 5 s
def execWphase (f : EX) (s : State) : Host.Outcome State Fault Refusal := callKiosk f 6 s

/-! ### Replies (R285) -/

/-- The next reply of a packet arrives for a lane: the lane is written, and with the last one the register fills. -/
def State.answer (s : State) (n : Nat) (p : Pkt) (lane : Nat) (ok : Bool) (v : W) : State :=
  let failed := p.failed || !ok
  let left := p.left - 1
  let here := s.launchOf p.core p.ctx == p.launch
  let s := { s with pkts := if left = 0 then sdel s.pkts n else sput s.pkts n { p with left := left, failed := failed } }
  if !here then s
  else
    match p.dst with
    | .s d =>
      if left != 0 then s
      else if failed then s.poisonS p.core p.ctx d 1 else s.fillS p.core p.ctx d v
    | .v d _ =>
      let s := if ok then s.laneV p.core p.ctx p.binds d (BitVec.ofNat 32 (2 ^ lane)) (Lanes.splat v) else s
      if left != 0 then s
      else if failed then s.poisonV p.core p.ctx p.binds d 1 else s.fillV p.core p.ctx p.binds d 0 (Lanes.splat 0) 0
    | _ => s

/-- OBJ_REPLY_ARRIVAL. -/
def execObjReplyArrival (reply : Nat) (s : State) : Host.Outcome State Fault Refusal :=
  match sget s.replies reply with
  | none => .next s
  | some r =>
    let s := { s with replies := sdel s.replies reply }
    match sget s.pkts r.pkt with
    | none => .next s
    | some p => .next ((s.answer r.pkt p r.lane r.ok r.val).completed p.core p.ctx)

/-- OBJ_TABLE_REQUEST (R274): the requests of a packet are checked at the table and forwarded, or answered as failed.
A die out of service has no entries (R413). -/
def execObjTableRequest (pkt : Nat) (s : State) : Host.Outcome State Fault Refusal :=
  match sget s.pkts pkt with
  | none => .next s
  | some p =>
    if p.home.isSome || p.reqs.isEmpty then .next s
    else
      let e := s.objEntry p.obj
      if !s.dieUp (p.obj.toNat / 4096 % 32) || !objV e || (!objOpen e && objOwner e != p.launch.setWidth 8) then
        let s := { s with pkts := sput s.pkts pkt { p with reqs := [] } }
        let s := p.reqs.foldl (fun (s : State) q =>
          { s with replies := sput s.replies s.nextId { pkt := pkt, lane := q.1, ok := false, val := 0 }, nextId := s.nextId + 1 }) s
        .next ((s.countHome p.core p.ctx 4 (objUnit p.obj) (· - 1)).wakeRoute 1 (tableCore (tableDie p.obj)) p.core)
      else
        let h := 64 * tableDie p.obj + objHome e
        .next ({ s with pkts := sput s.pkts pkt { p with home := some h } }.wakeRoute 0 (tableCore (tableDie p.obj)) h)

/-! ### The plaza queue (R275, R276) -/

/-- Entries that requests take. -/
def Plaza.used (q : Plaza) : Nat :=
  (q.opens.map fun p => p.2.reqs.length).foldl (· + ·) 0 + (q.closed.map fun w => w.reqs.length).foldl (· + ·) 0

/-- The entries that a packet of sender `n` may use: those held are for the sender at the head of the list. -/
def Plaza.room (q : Plaza) (n : Nat) : Nat := 512 - q.used - (if q.turned.head? == some n then 0 else q.held)

/-- Close a wave in a cycle: closed waves start in the order they closed, and those of one cycle in the order of their object
INDEX (R277). -/
def closeWave (clock : Nat) (w : QWave) : List QWave → List QWave
  | [] => [{ w with closedAt := clock }]
  | u :: r =>
    if clock < u.closedAt || (u.closedAt = clock && w.obj.toNat % 4096 < u.obj.toNat % 4096) then { w with closedAt := clock } :: u :: r
    else u :: closeWave clock w r

/-- The request joins the open wave of its object, or opens one; a wave at its limit closes full. -/
def Plaza.join (q : Plaza) (obj : W) (maxw clock : Nat) (r : Req) : Plaza :=
  let w : QWave := sgetD q.opens obj.toNat { obj := obj, opened := clock, maxw := maxw, reqs := [] }
  let w := { w with reqs := w.reqs ++ [r] }
  if w.maxw + 1 ≤ w.reqs.length || 32 ≤ w.reqs.length then
    { q with opens := sdel q.opens obj.toNat, closed := closeWave clock w q.closed }
  else { q with opens := sput q.opens obj.toNat w }

/-- A packet of sender `n` has been accepted: the sender leaves the list, and the held entries it did not use stay held for the
new head. -/
def Plaza.leave (q : Plaza) (n used : Nat) : Plaza :=
  let rest := q.turned.filter fun m => m != n
  if q.turned.head? == some n then { q with turned := rest, held := if rest.isEmpty then 0 else q.held - used }
  else { q with turned := rest }

/-- PLAZA_PACKET_ARRIVAL: the packet is accepted when all its requests fit; else it is turned back, and its sender, which is
the memory unit of a core, joins the list while that has room (R275). -/
def execPlazaPacketArrival (pkt : Nat) (s : State) : Host.Outcome State Fault Refusal :=
  match sget s.pkts pkt with
  | none => .next s
  | some p =>
    match p.home with
    | none => .next s
    | some c =>
      if p.reqs.isEmpty || p.tried.isSome then .next s
      else
        let q := (s.core c).plaza
        if q.room p.core < p.reqs.length then
          let q := if q.turned.contains p.core || 64 ≤ q.turned.length then q else { q with turned := q.turned ++ [p.core] }
          let s := s.modCore c fun k => { k with plaza := q }
          .next ({ s with pkts := sput s.pkts pkt { p with tried := some s.clock } }.wakeRoute 1 c p.core)
        else
          let maxw := objMaxw (s.objEntry p.obj)
          let q := p.reqs.foldl (fun (q : Plaza) r =>
            q.join p.obj maxw s.clock
              { pkt := pkt, core := p.core, ctx := p.ctx, lane := r.1, vec := p.vec, arg := r.2 }) (q.leave p.core p.reqs.length)
          let s := (s.modCore c fun k => { k with plaza := q }).countHome p.core p.ctx 4 (objUnit p.obj) (· - 1)
          .next { s with pkts := sput s.pkts pkt { p with reqs := [] } }

/-- PLAZA_PACKET_RETRY: 64 cycles after it was turned back a packet is sent again. -/
def execPlazaPacketRetry (pkt : Nat) (s : State) : Host.Outcome State Fault Refusal :=
  match sget s.pkts pkt with
  | none => .next s
  | some p =>
    match p.tried with
    | none => .next s
    | some t =>
      .next (if t + 64 ≤ s.clock then
          { s with pkts := sput s.pkts pkt { p with tried := none } }.wakeRoute 0 p.core (p.home.getD p.core)
        else s)

/-- WAVE_TIMEOUT_CLOSE: the open wave of an object closes 64 cycles after its first request, behind the arrivals of that
cycle (R276, R286). -/
def execWaveTimeoutClose (core wave : Nat) (s : State) : Host.Outcome State Fault Refusal :=
  match sget (s.core core).plaza.opens wave with
  | none => .next s
  | some w =>
    if s.clock < w.opened + 64 then .next s
    else .next (s.modCore core fun k =>
      { k with plaza := { k.plaza with opens := sdel k.plaza.opens wave, closed := closeWave s.clock w k.plaza.closed } })

/-! ### The start of a wave (R277, R278) -/

/-- The requester word. -/
def requesterWord (r : Req) : W :=
  (gidOf r.core).setWidth 32 <<< 16 ||| BitVec.ofNat 32 (r.lane * 2 ^ 11 + r.vec.toNat * 2 ^ 10 + crewSlot r.ctx * 2 ^ 8 + r.ctx % 16 * 2 ^ 4)

/-- b0 of a wave: the state of the object on its home core. -/
def waveRecord (base st : Nat) : BitVec 128 :=
  BitVec.ofNat 128 (base + 2 ^ 48 + 4 * 2 ^ 64 + 4 * 2 ^ 88 + ((2 ^ 21 - st) / 4) * 2 ^ 96)

/-- The ASID of an entry. -/
def objAsid (e : BitVec 128) : Byte := e.extractLsb' 120 8

/-- The plaza context at the start of a wave. It runs in the address space that the entry names now (R271), and a PC is even
(R23). -/
def waveGang (c : Nat) (w : QWave) (e : BitVec 128) : Gang :=
  let n := w.reqs.length
  let base := sliceBase c + objState e
  let col (f : Req → W) : VReg := { val := lanesOfList (w.reqs.map f) }
  let g : Gang := {}
  { g with
    pcs := Vector.replicate 8 (objMethod e &&& ~~~1)
    kuse := maskOf 32 fun l => l < n
    valloc := 16
    v := vput (vput g.v 0 (col (·.arg))) 1 (col requesterWord)
    s := vput (vput (vput g.s 1 { val := BitVec.ofNat 32 n }) 2 { val := w.obj }) 3 { val := BitVec.ofNat 32 base }
    recs := vput g.recs 0 (waveRecord base (objState e))
    wave := some { obj := w.obj, reqs := w.reqs, asid := objAsid e } }

/-- The next closed wave of a core starts; its entries are free, or held for the first turned-back sender. A kiosk or a
block service is served at once. -/
def State.startWave (s : State) (c : Nat) (w : QWave) (rest : List QWave) : State :=
  let s := s.modCore c fun k =>
    let q := k.plaza
    { k with plaza := { q with closed := rest, held := if q.turned.isEmpty then 0 else q.held + w.reqs.length } }
  let s := s.setGang c 64 (waveGang c w (s.objEntry w.obj))
  let svc (n : Nat) : Bool := w.reqs.any fun r => ((sget s.pkts r.pkt).map (·.svc)) == some n
  if (s.kioskLaunch w.obj).isSome || svc 5 || svc 6 then s.kioskServe c false
  else if s.isService w.obj then s.kvServe c
  else s

/-- WAVE_START: a wave that has been ending sends its replies, and the next closed wave starts in a free context,
in a cycle after the one it closed in. -/
def execWaveStart (core : Nat) (s : State) : Host.Outcome State Fault Refusal :=
  let s := s.waveSweep core
  if (s.gang? core 64).isSome then .next s
  else
    match (s.core core).plaza.closed with
    | [] => .next s
    | w :: rest => .next (if w.closedAt < s.clock then s.startWave core w rest else s)

/-- WAVE_BUDGET_EXCEEDED (R284). -/
def execWaveBudgetExceeded (core : Nat) (s : State) : Host.Outcome State Fault Refusal :=
  let lim := (s.die (dieOf core)).plzlim.toNat
  match (s.gang core 64).wave with
  | none => .next s
  | some w =>
    .next (if lim != 0 && lim ≤ w.issued && !w.ending then s.takeFault core 64 eTrap 0 0x3ffff 0 0 else s)

/-! ### The wave instructions (R280 to R283) -/

/-- What only a plaza context may execute. -/
def onlyPlaza (x : Nat) : Except Stop Unit := need (isPlaza x) (.code ePerm)

def execObjReply (f : EX) (s : State) : Host.Outcome State Fault Refusal :=
  issue s (exForm .zero .vread .zero f true) fun s c x vs => do
    onlyPlaza x
    let v := (vs[0]?.map Val.lanes).getD (Lanes.splat 0)
    let n := (((s.gang c x).wave).map fun w => w.reqs.length).getD 0
    let ls := (activeList (s.gang c x).lanes).filter fun l => l < n
    pure (done (ls.foldl (fun s l => s.recordReply c l (v.lane l)) s))

def execObjDone (f : EX) (s : State) : Host.Outcome State Fault Refusal :=
  issue s (exForm .zero .zero .zero f true) fun s c x _ => do
    onlyPlaza x
    pure { s := s, ends := some {}, post := fun s => s.endWave c false }

def execObjFail (f : EX) (s : State) : Host.Outcome State Fault Refusal :=
  issue s (exForm .zero .zero .zero f true) fun s c x _ => do
    onlyPlaza x
    pure { s := s, ends := some {}, post := fun s => s.endWave c true }

end Sys2Proof.Machine
end

