-- ==== Sys2Proof/Machine/Slots.lean ====
section
/-! DEFINITION. Sys2Proof/Machine/Slots.lean: slots and the finaliser (R334 to R352). -/

namespace Sys2Proof.Machine

/-! ### Handles and blocks (R334, R335) -/

def handleIdx (h : W) : Nat := h.toNat % 1024
def handleDie (h : W) : Nat := h.toNat / 1024 % 32
/-- A handle that a slot instruction may send (R334). -/
def handleOk (h : W) : Bool := !bit h 15 && handleDie h < 24

/-- The block of an index. -/
def State.block (s : State) (die idx : Nat) : Block := sgetD (s.die die).blocks idx {}
def State.setBlock (s : State) (die idx : Nat) (b : Block) : State :=
  s.modDie die fun d => { d with blocks := sput d.blocks idx b }

/-- The block of a command whose handle is current. -/
def State.current (s : State) (m : FinCmd) : Option Block :=
  let b := s.block m.die (handleIdx m.handle)
  if b.isOpen && b.gen == m.handle.extractLsb' 16 16 && b.asid == m.asid then some b else none

/-- A slot of a state. -/
def Block.count (b : Block) (st : Nat) : Nat := (b.slots.filter fun x => x.st.toNat == st).length

/-! ### Counts of the FN path (R237) -/

/-- The cores that hold the elements of a record that a pass may read. -/
def recHomes (r : BitVec 128) (c pin size : Nat) : List Nat :=
  (List.range 256).foldl (fun acc i =>
    match laneAddress r c pin size i 4 with
    | .at a _ => insNat (coreOfAddr a) acc
    | .oob => acc) []

/-- The cores of a block's kerb ring and cursor words, which a pass may write and read (R340). -/
def Block.ringHomes (b : Block) : List Nat :=
  [b.ring, b.ring + 8 * b.cap - 1, b.wcur, b.rcur].foldl (fun acc a => insNat (coreOfAddr a) acc) []

/-- The homes that a command counts for as it is sent: those of what it reads, of the cursor word that an open writes, as the
descriptor names it then, and of the ring of a pass's block (log 69), and the die of the finaliser for the table. -/
def State.finHomes (s : State) (m : FinCmd) : List Nat :=
  let among (l : List Nat) : List Nat := l.foldl (fun acc h => insNat h acc) []
  match m.op with
  | .open a => among [coreOfAddr a, coreOfAddr (s.load (sramKey (a + 0x10)) 4)] ++ [4096 + m.die]
  | .rule a => [coreOfAddr a]
  | .pass conf tok =>
    among (recHomes tok m.core m.pin m.pinSize ++ recHomes conf m.core m.pin m.pinSize ++
      ((s.current m).map Block.ringHomes).getD []) ++ [4096 + m.die]
  | _ => []

/-- Count a command on the FN path. -/
def State.countFin (s : State) (m : FinCmd) (f : Nat → Nat) : State :=
  m.homes.foldl (fun s h => s.countHome m.core m.ctx 5 h f) s

/-! ### The queue of a finaliser (R333, R342) -/

/-- Send a command to its finaliser. -/
def State.sendFin (s : State) (m : FinCmd) : State :=
  let m := { m with homes := s.finHomes m }
  { s with fins := sput s.fins s.nextId m, nextId := s.nextId + 1 }.countFin m (· + 1)

/-- The entries of the queue, of 256, that a retry may use: those that are not held. -/
def Die.finFree (d : Die) : Nat := 256 - d.finQ.length - d.finHeld

/-- The entries of the queue that a command of core `n` may use: those held are for the sender at the head of the list. -/
def Die.finRoom (d : Die) (n : Nat) : Nat := if d.finTurned.head? == some n then 256 - d.finQ.length else d.finFree

/-- A command of core `n` has been accepted. -/
def Die.finLeave (d : Die) (n : Nat) : Die :=
  let rest := d.finTurned.filter fun m => m != n
  if d.finTurned.head? == some n then { d with finTurned := rest, finHeld := if rest.isEmpty then 0 else d.finHeld - 1 }
  else { d with finTurned := rest }

/-- FINALISER_COMMAND_ARRIVAL: the command takes a place in the queue, or is turned back, and its sender, a core, joins the
list as R275 says. -/
def execFinaliserCommandArrival (cmd : Nat) (s : State) : Host.Outcome State Fault Refusal :=
  match sget s.fins cmd with
  | none => .next s
  | some m =>
    if m.place != 0 then .next s
    else
      let d := s.die m.die
      if d.finRoom m.core = 0 then
        let d := if d.finTurned.contains m.core || 64 ≤ d.finTurned.length then d else { d with finTurned := d.finTurned ++ [m.core] }
        .next { s.setDie m.die d with fins := sput s.fins cmd { m with place := 2, tried := s.clock } }
      else
        let d := d.finLeave m.core
        .next { s.setDie m.die { d with finQ := d.finQ ++ [.cmd cmd] } with fins := sput s.fins cmd { m with place := 1 } }

/-- FINALISER_COMMAND_RETRY: 64 cycles after it was turned back a command is sent again. -/
def execFinaliserCommandRetry (cmd : Nat) (s : State) : Host.Outcome State Fault Refusal :=
  match sget s.fins cmd with
  | none => .next s
  | some m =>
    .next (if m.place = 2 && m.tried + 64 ≤ s.clock then { s with fins := sput s.fins cmd { m with place := 0 } } else s)

/-- The command at the head of a finaliser's queue. -/
def State.finHead (s : State) (die : Nat) : Option (Nat × FinCmd) :=
  match (s.die die).finQ with
  | [] => none
  | .cmd n :: _ => (sget s.fins n).map fun m => (n, m)
  | .retry _ :: _ => none

/-- A command is one on the block that its handle names, and not the open of a new one. -/
def FinOp.onBlock : FinOp → Bool
  | .open _ => false
  | _ => true

/-- A command on a block completes: where a release of the block waits, one retry arrives in the next cycle (R340). -/
def State.retryAfter (s : State) (m : FinCmd) : State :=
  match (if m.op.onBlock then s.current m else none) with
  | some b =>
    if b.halted.isSome then s.setBlock m.die (handleIdx m.handle) { b with retries := b.retries ++ [s.clock + 1] } else s
  | none => s

/-- The head command has been taken: its place is free, or held for the first sender that was turned back. -/
def State.finTaken (s : State) (n : Nat) (m : FinCmd) : State :=
  let s := s.retryAfter m
  (s.modDie m.die fun d =>
    { d with finQ := d.finQ.filter fun k => k != .cmd n, finHeld := if d.finTurned.isEmpty then 0 else d.finHeld + 1 }).countFin
    m (· - 1)

/-- The head command is answered with two words, or with poison. -/
def State.finAnswer (s : State) (n : Nat) (m : FinCmd) (w0 w1 : W) (poison : Bool := false) : State :=
  let s := s.finTaken n m
  { s with fins := sput s.fins n { m with place := 3, w0 := w0, w1 := w1, poison := poison } }

/-- Take the head command of a finaliser when `p` picks it. -/
def takeFin (s : State) (die : Nat) (p : FinOp → Bool) (f : Nat → FinCmd → State) : Host.Outcome State Fault Refusal :=
  match s.finHead die with
  | some (n, m) => .next (if p m.op then f n m else s)
  | none => .next s

/-- A word or record at a global address that the launch of a command may not read (R186). -/
def State.refused (s : State) (launch : Byte) (a n : Nat) : Bool :=
  !(sramExists a && sramExists (a + n - 1) && s.regionOk launch a && s.regionOk launch (a + n - 1))

/-! ### Opening, rules and closing (R336, R337, R345, R346, R351) -/

/-- A cursor word or ring address that R336 accepts. -/
def slotAddrOk (a align : Nat) : Bool := a % align == 0 && sramExists a

/-- A power of two from 2 to 4,096. -/
def capOk (n : Nat) : Bool := (List.range 12).any fun i => n == 2 ^ (i + 1)

/-- The block that a usable descriptor opens. -/
def openBlock (bs : List Byte) (gen : BitVec 16) (asid : Byte) : Option Block :=
  let n := bytesNat bs 4 2
  let ring := bytesNat bs 8 4
  let cap := bytesNat bs 0xc 4
  let w := bytesNat bs 0x10 4
  let r := bytesNat bs 0x14 4
  if 1 ≤ n && n ≤ 256 && capOk cap && slotAddrOk ring 8 && slotAddrOk w 4 && slotAddrOk r 4 && bytesNat bs 6 2 == 0 &&
      bytesNat bs 0x18 8 == 0 then
    some { isOpen := true, gen := gen, asid := asid, base := BitVec.ofNat 32 (bytesNat bs 0 4), slots := List.replicate n {},
           ring := ring, cap := cap, wcur := w, rcur := r }
  else none

/-- FINALISER_OPEN. A device without SLOTS, and the reduced service, have no free entry (R414). -/
def execFinaliserOpen (die : Nat) (s : State) : Host.Outcome State Fault Refusal :=
  takeFin s die (fun o => match o with
    | .open _ => true
    | _ => false) fun n m =>
    let a := match m.op with
      | .open a => a
      | _ => 0
    if !s.feature 3 then s.finAnswer n m 0xffffffff 0
    else if s.refused m.launch a 32 then s.finAnswer n m 0xfffffffe 0
    else if s.isBad (sramKey a) 32 then s.finAnswer n m 0 0 true
    else
      match (List.range 1024).find? fun i => !(s.block die i).isOpen with
      | none =>
        s.finAnswer n m (if (openBlock (readBytes s.mem (sramKey a) 32) 1 0).isSome then 0xffffffff else 0xfffffffe) 0
      | some i =>
        match openBlock (readBytes s.mem (sramKey a) 32) (s.block die i).gen m.asid with
        | none => s.finAnswer n m 0xfffffffe 0
        | some b =>
          let h : W := b.gen.setWidth 32 <<< 16 ||| BitVec.ofNat 32 (die * 1024 + i)
          ((s.setBlock die i b).put (sramKey b.wcur) (leBytes 4 0)).finAnswer n m h 0

/-- The answer of a command that parks its gang: 0 done, 1 E_SLOT, 2 E_POISON. -/
def State.verdict (s : State) (n : Nat) (m : FinCmd) (v : Nat) : State := s.finAnswer n m (BitVec.ofNat 32 v) 0

/-- FINALISER_RULE. -/
def execFinaliserRule (die : Nat) (s : State) : Host.Outcome State Fault Refusal :=
  takeFin s die (fun o => match o with
    | .rule _ => true
    | _ => false) fun n m =>
    let a := match m.op with
      | .rule a => a
      | _ => 0
    match s.current m with
    | none => s.verdict n m 1
    | some b =>
      if s.refused m.launch a 16 then s.verdict n m 1
      else if s.isBad (sramKey a) 16 then s.verdict n m 2
      else
        let f (o k : Nat) : Nat := s.load (sramKey (a + o)) k
        let kmin := f 12 2
        let kmax := f 14 2
        if 256 < kmax || kmax < kmin then s.verdict n m 1
        else
          let r : Rule := { thf := BitVec.ofNat 32 (f 0 4), tht := BitVec.ofNat 32 (f 4 4), rho := BitVec.ofNat 32 (f 8 4),
                            kmin := kmin, kmax := kmax }
          (s.setBlock die (handleIdx m.handle) { b with rule := r }).verdict n m 0

/-- The generation after a close. -/
def nextGen (g : BitVec 16) : BitVec 16 := if g = 0xffff then 1 else g + 1

/-- A block is closed: its generation advances, and its ring retries stop (R351). -/
def State.closeBlock (s : State) (die idx : Nat) (b : Block) : State :=
  (s.setBlock die idx { gen := nextGen b.gen }).modDie die fun d =>
    { d with finQ := d.finQ.filter fun i => i != .retry idx }

/-- The device kernel closes a block (R333): commands that have not been taken find the handle not current. -/
def closeForced (die blk : Nat) (s : State) : State := if (s.block die blk).isOpen then s.closeBlock die blk (s.block die blk) else s

/-- FINALISER_CLOSE. -/
def execFinaliserClose (die : Nat) (s : State) : Host.Outcome State Fault Refusal :=
  takeFin s die (fun o => o == .close) fun n m =>
    match s.current m with
    | none => s.verdict n m 1
    | some b => (s.closeBlock die (handleIdx m.handle) b).verdict n m 0

/-! ### Release to the kerb ring (R340) -/

/-- `release` of R340, at most `n` positions: the state, the block, the positions released, and FULL. -/
def State.release (s : State) (b : Block) : Nat → State × Block × Nat × Bool
  | 0 => (s, b, 0, false)
  | n + 1 =>
    match b.slots[b.rc]? with
    | none => (s, b, 0, false)
    | some x =>
      if x.st != 2 then (s, b, 0, false)
      else
        let k := sramKey b.rcur
        let isFull (b : Block) : Bool := b.cap ≤ (b.wc - b.r).toNat
        if isFull b && s.isBad k 4 then (s, { b with kerr := true }, 0, true)
        else
          let b := if isFull b then { b with r := BitVec.ofNat 32 (s.load k 4) } else b
          if isFull b then (s, b, 0, true)
          else
            let pos := b.base + BitVec.ofNat 32 b.rc
            let s := s.put (sramKey (b.ring + 8 * (b.wc.toNat % b.cap))) (leBytes 4 pos.toNat ++ leBytes 4 x.token.toNat)
            let s := s.put (sramKey b.wcur) (leBytes 4 (b.wc + 1).toNat)
            let (s, b, r, full) := s.release { b with wc := b.wc + 1, rc := b.rc + 1 } n
            (s, b, r + 1, full)

/-- Release what a block can, and note whether it waits: the periodic retry goes on while it does, and no retry arrives once it
does not (R340). -/
def State.releaseBlock (s : State) (die idx : Nat) (b : Block) : State × Nat × Bool :=
  let (s, b, n, full) := s.release b (b.slots.length + 1)
  let b := if full then { b with halted := some (b.halted.getD (s.clock + 256)) } else { b with halted := none, retries := [] }
  (s.setBlock die idx b, n, full)

/-- A retry of a block whose release waits arrives at the finaliser: a periodic one, or one that a command on the block has
brought (R340). It takes its turn behind what stands in the queue; one that finds no place comes again 64 cycles later, as any
command that is turned back (R333; log 69). -/
def retryArrives (die blk : Nat) (s : State) : State :=
  let b := s.block die blk
  let once := b.retries.filter fun t => t ≤ s.clock
  let timed := match b.halted with
    | some t => t ≤ s.clock
    | none => false
  if once.isEmpty && !timed then s
  else
    let n := once.length + timed.toNat
    let k := min n (s.die die).finFree
    let b := { b with retries := b.retries.filter (fun t => s.clock < t) ++ List.replicate (n - k) (s.clock + 64)
                      halted := if timed then some (s.clock + 256) else b.halted }
    (s.setBlock die blk b).modDie die fun d => { d with finQ := d.finQ ++ List.replicate k (.retry blk) }

/-- KERB_RETRY: a retry at the head of the finaliser's queue tries a release that waits on a full ring again. -/
def execKerbRetry (die blk : Nat) (s : State) : Host.Outcome State Fault Refusal :=
  if (s.die die).finQ.head? != some (.retry blk) then .next s
  else
    let s := s.modDie die fun d => { d with finQ := d.finQ.drop 1 }
    let b := s.block die blk
    .next (if b.isOpen && b.halted.isSome then (s.releaseBlock die blk b).1 else s)

/-! ### The pass (R338, R339) -/

/-- Element `i` of a record: none out of bounds, else its address. -/
def FinCmd.elem (m : FinCmd) (r : BitVec 128) (i : Nat) : Option Nat :=
  match laneAddress r m.core m.pin m.pinSize i 4 with
  | .oob => none
  | .at a _ => some a

/-- An open slot with what the pass reads for it: its number, its confidence where it is a number, and its token. -/
structure Scored where
  i : Nat
  conf : Option W
  tok : W
  deriving DecidableEq, Repr

/-- Insert by falling confidence, the equal ones in order of position. -/
def insScored (x : Nat × W × W) : List (Nat × W × W) → List (Nat × W × W)
  | [] => [x]
  | y :: r => if f32Val x.2.1 > f32Val y.2.1 then x :: y :: r else y :: insScored x r

/-- An ordered comparison with a threshold: a NaN is never met. -/
def meets (p : Int → Int → Bool) (c th : W) : Bool := !(f32Dec th).isNan && p (f32Val c) (f32Val th)

/-- The slots that a pass makes final, given the scored ones by rank (R338). -/
def finalists (r : Rule) (ranked : List (Nat × W × W)) : List Nat :=
  let beyond := (ranked.takeWhile fun x => meets (fun a b => a ≥ b) x.2.1 r.thf).take r.kmax
  (ranked.take (max beyond.length r.kmin)).map (·.1)

/-- A slot after a pass with number `p`. -/
def passSlot (r : Rule) (fin : List Nat) (p : BitVec 16) (q : Scored) (x : Slot) : Slot :=
  match q.conf with
  | none => x
  | some c =>
    if fin.contains q.i then { st := 2, token := q.tok, fpass := p }
    else if x.st = 1 then
      if meets (fun a b => a < b) c r.rho then { x with st := 0 } else { x with token := q.tok }
    else if meets (fun a b => a ≥ b) c r.tht then { x with st := 1, token := q.tok }
    else x

/-- What a pass reads for the open slots. -/
def State.scored (s : State) (m : FinCmd) (conf tok : BitVec 128) (b : Block) : List Scored :=
  (List.range b.slots.length).filterMap fun i =>
    match b.slots[i]? with
    | none => none
    | some x =>
      if x.st = 2 then none
      else
        match m.elem conf i, m.elem tok i with
        | some a, some t =>
          let c : W := BitVec.ofNat 32 (s.load (sramKey a) 4)
          some { i := i, conf := if (f32Dec c).isNan then none else some c, tok := BitVec.ofNat 32 (s.load (sramKey t) 4) }
        | _, _ => some { i := i, conf := none, tok := 0 }

/-- The addresses that a pass reads. -/
def passReads (m : FinCmd) (conf tok : BitVec 128) (b : Block) : List Nat :=
  (List.range b.slots.length).flatMap fun i =>
    if ((b.slots[i]?).map (·.st)) == some 2 then []
    else
      match m.elem conf i, m.elem tok i with
      | some a, some t => [a, t]
      | _, _ => []

/-- FINALISER_PASS. -/
def execFinaliserPass (die : Nat) (s : State) : Host.Outcome State Fault Refusal :=
  takeFin s die (fun o => match o with
    | .pass _ _ => true
    | _ => false) fun n m =>
    let (conf, tok) : BitVec 128 × BitVec 128 := match m.op with
      | .pass c t => (c, t)
      | _ => (0, 0)
    match s.current m with
    | none => s.finAnswer n m 0x08000000 0
    | some b =>
      let reads := passReads m conf tok b
      if reads.any fun a => s.refused m.launch a 4 then s.finAnswer n m 0x10000000 0
      else if reads.any fun a => s.isBad (sramKey a) 4 then s.finAnswer n m 0 0 true
      else
        let qs := s.scored m conf tok b
        let ranked := (qs.filterMap fun q => q.conf.map fun c => (q.i, c, q.tok)).foldl (fun acc x => insScored x acc) []
        let fin := finalists b.rule ranked
        let p := b.pass + 1
        let slots := (List.range b.slots.length).map fun i =>
          let x := b.slots.getD i {}
          match qs.find? fun q => q.i == i with
          | some q => passSlot b.rule fin p q x
          | none => x
        let nans := (qs.filter fun q => q.conf.isNone).length
        let b := { b with slots := slots, pass := p }
        let s := s.finTaken n m
        let b := { b with retries := (s.block die (handleIdx m.handle)).retries }
        let (s, released, full) := s.releaseBlock die (handleIdx m.handle) b
        let w0 := fin.length + released * 2 ^ 9 + nans * 2 ^ 18
        let kerr := (s.block die (handleIdx m.handle)).kerr
        let w1 := b.count 0 + b.count 1 + full.toNat * 2 ^ 9 + kerr.toNat * 2 ^ 10 + p.toNat * 2 ^ 16
        { s with fins := sput s.fins n { m with place := 3, w0 := BitVec.ofNat 32 w0, w1 := BitVec.ofNat 32 w1 } }

/-! ### Reads and reopening (R348 to R350, R370) -/

/-- FINALISER_SLOT_READ. -/
def execFinaliserSlotRead (die : Nat) (s : State) : Host.Outcome State Fault Refusal :=
  takeFin s die (fun o => match o with
    | .slotRead _ => true
    | _ => false) fun n m =>
    let i := match m.op with
      | .slotRead i => i.toNat
      | _ => 0
    match (s.current m).bind fun b => b.slots[i]? with
    | none => s.finAnswer n m 0 0xffffffff
    | some x => s.finAnswer n m x.token (x.fpass.setWidth 32 <<< 16 ||| x.st.setWidth 32)

/-- FINALISER_KERB_READ. -/
def execFinaliserKerbRead (die : Nat) (s : State) : Host.Outcome State Fault Refusal :=
  takeFin s die (fun o => o == .kerb) fun n m =>
    match s.current m with
    | none => s.finAnswer n m 0xffffffff 0
    | some b =>
      s.finAnswer n m (BitVec.ofNat 32 (b.rc + b.count 2 * 2 ^ 9 + b.halted.isSome.toNat * 2 ^ 18 + b.kerr.toNat * 2 ^ 19)) 0

/-- FINALISER_REOPEN. -/
def execFinaliserReopen (die : Nat) (s : State) : Host.Outcome State Fault Refusal :=
  takeFin s die (fun o => match o with
    | .reopen _ => true
    | _ => false) fun n m =>
    let i := match m.op with
      | .reopen i => i.toNat
      | _ => 0
    match s.current m with
    | none => s.verdict n m 1
    | some b =>
      match b.slots[i]? with
      | none => s.verdict n m 1
      | some x =>
        if x.st = 2 then s.verdict n m 1
        else (s.setBlock die (handleIdx m.handle) { b with slots := b.slots.set i { x with st := 0 } }).verdict n m 0

/-- FINALISER_KV_SLOT_READ: the answer goes to the KV engine that asked: the position of a FINAL slot, or none. -/
def execFinaliserKvSlotRead (die : Nat) (s : State) : Host.Outcome State Fault Refusal :=
  takeFin s die (fun o => match o with
    | .kvRead _ => true
    | _ => false) fun n m =>
    let i := match m.op with
      | .kvRead i => i
      | _ => 0
    let ans : Option W := (s.current m).bind fun b =>
      (b.slots[i]?).bind fun x => if x.st = 2 then some (b.base + BitVec.ofNat 32 i) else none
    let s := s.finTaken n m
    let s := { s with fins := sdel s.fins n }
    s.modCore m.core fun k =>
      { k with kvQ := k.kvQ.map fun q => if q.asked = some n then { q with slot := some ans } else q }

/-! ### Answers -/

/-- A command whose gang parks until the finaliser has acted. -/
def FinOp.parks : FinOp → Bool
  | .rule _ | .reopen _ | .close => true
  | _ => false

/-- The GROUPS entry of a saved gang, at a key, of the group that waits at a PC for a verdict and has none. -/
def State.verdictEntry (s : State) (k : Nat) (pc : PC) : Option Nat :=
  (List.range 8).find? fun i =>
    let b (j : Nat) : Nat := s.areaNat k (0x40 + 8 * i + j) 1
    b 1 == (parkCode .verdict).toNat && b 2 < 16 && s.areaPc k (0x80 + 64 * lowSlice (BitVec.ofNat 8 (b 0))) == pc

/-- The finaliser's verdict on a command of a saved gang is recorded in its save area (R352): byte 2 of the GROUPS entry of the
parked group holds 16 + the verdict (log 40). -/
def State.recordVerdict (s : State) (k n : Nat) (m : FinCmd) : State :=
  let t := match s.verdictEntry k m.pc with
    | some i => s.putArea (k + 0x42 + 8 * i) [BitVec.ofNat 8 (16 + m.w0.toNat)]
    | none => s
  { t with fins := sdel t.fins n }

/-- The verdicts recorded for the groups of a gang that is restored wait for them again. -/
def State.takeVerdicts (s : State) (c x : Nat) : State :=
  (s.gang c x).groups.foldl (fun s g =>
    match g.park with
    | some (.verdict, a) =>
      if a.toNat < 16 then s
      else
        let m : FinCmd := { core := c, ctx := x, pc := vget (s.gang c x).pcs (lowSlice g.slices) 0, op := .close, handle := 0, die := 0,
                            dst := none, place := 4, w0 := BitVec.ofNat 32 (a.toNat - 16) }
        { s with fins := sput s.fins s.nextId m, nextId := s.nextId + 1 }.modGang c x fun y =>
          { y with groups := y.groups.map fun (h : Group) => if h.slices = g.slices then { h with park := some (.verdict, 0) } else h }
    | _ => s) s

/-- SLOT_REPLY_ARRIVAL: an answer fills its registers, or waits for the parked group, in its save area if the gang is saved;
that of a gang that has ended is dropped. -/
def execSlotReplyArrival (cmd : Nat) (s : State) : Host.Outcome State Fault Refusal :=
  match sget s.fins cmd with
  | none => .next s
  | some m =>
    if m.place != 3 then .next s
    else
      let c := m.core
      let x := m.ctx
      if m.op.parks then
        match s.savedAt c x with
        | some (k, _) => .next (s.recordVerdict k cmd m)
        | none =>
          let here := ((s.gang? c x).map fun g => !g.ended).getD false
          .next ({ s with fins := if here then sput s.fins cmd { m with place := 4 } else sdel s.fins cmd }.completed c x)
      else
        let s := { s with fins := sdel s.fins cmd }
        let pair := match m.op with
          | .pass _ _ | .slotRead _ => true
          | _ => false
        let s := match m.dst with
          | none => s
          | some d =>
            if m.poison then
              let s := s.poisonS c x d 3
              if pair then s.poisonS c x (d + 1) 3 else s
            else
              let s := s.fillS c x d m.w0
              if pair then s.fillS c x (d + 1) m.w1 else s
        .next (s.completed c x)

/-! ### The instructions (R343 to R351) -/

/-- A command of the issuing gang. -/
def mkFin (s : State) (c x : Nat) (op : FinOp) (handle : W) (die : Nat) (dst : Option Nat) : FinCmd :=
  let (pin, size) := s.pinOf c x
  { core := c, ctx := x, slot := s.slotOf c x, pc := (s.gang c x).pc, op := op, handle := handle, die := die, dst := dst, pin := pin, pinSize := size,
    launch := (s.launchOf c x).setWidth 8, asid := s.asidOf c x }

/-- The fence of R343. -/
def slotFence (s : State) (c x : Nat) : Except Stop Unit := need (s.fenceDone c x 13 3) (.park .fence 0)

/-- Send a command that fills one register. -/
def sendOne (s : State) (c x d : Nat) (op : FinOp) (handle : W) (die : Nat) : Done :=
  { s := (s.emptyS c x d).sendFin (mkFin s c x op handle die (some d)), dest := BitVec.ofNat 8 (64 + d) }

/-- Send a command that fills a pair; a pair at s0 writes neither register. -/
def sendPair (s : State) (c x d : Nat) (op : FinOp) (handle : W) (die : Nat) : Done :=
  let m := mkFin s c x op handle die (if d = 0 then none else some d)
  let s := if d = 0 then s else (s.emptyS c x d).emptyS c x (d + 1)
  { s := s.sendFin m, dest := BitVec.ofNat 8 (64 + d) }

/-- The form of an instruction with a register pair. -/
def pairForm (f : EX) : Form :=
  { exForm .dest .read .read f with
    legal := exLegal .dest .read .read f && f.d.toNat < 31
    dests := if f.d = 0 then [] else [64 + f.d.toNat, 65 + f.d.toNat] }

/-- Send a command that parks the group, or take up its answer. -/
def slotVerdict (s : State) (c x : Nat) (op : FinOp) (h : W) (first : Except Stop Unit) : Except Stop Done := do
  notPlaza x
  match s.fins.find? fun p => p.2.core == c && p.2.ctx == x && p.2.pc == (s.gang c x).pc && p.2.op.parks with
  | none =>
    need (handleOk h) (.code ePerm)
    first
    pure { s := s.sendFin (mkFin s c x op h (handleDie h) none), parks := some (.verdict, 0) }
  | some (n, m) =>
    need (m.place == 4) (.park .verdict 0)
    let t := { s with fins := sdel s.fins n }
    match m.w0.toNat with
    | 0 => pure (done t)
    | 1 => .error (.code eSlot)
    | _ => .error (.fault ePoison 3 0 0 0)

def execSlotOpen (f : EX) (s : State) : Host.Outcome State Fault Refusal :=
  issue s (exForm .dest .read .zero f) fun s c x vs => do
    notPlaza x
    let a := (uVal vs 0).toNat
    need (a % 32 == 0) (.code eAlign)
    need (sramExists a) (.code ePerm)
    slotFence s c x
    pure (sendOne s c x f.d.toNat (.open a) 0 (dieOf c))

def execSlotRule (f : EX) (s : State) : Host.Outcome State Fault Refusal :=
  issue s (exForm .zero .read .read f) fun s c x vs =>
    let a := (uVal vs 1).toNat
    slotVerdict s c x (.rule a) (uVal vs 0) do
      need (a % 16 == 0) (.code eAlign)
      slotFence s c x

/-- The checks of R347 on the two records; the answer tells whether OOB is set. -/
def passChecks (s : State) (c x : Nat) (conf tok : BitVec 128) : Except Stop Bool := do
  let rs := [conf, tok]
  let (pin, size) := s.pinOf c x
  need (rs.all fun r => !recBad r) (.code eRec)
  need (rs.all fun r => recKind r != 0) (.code ePerm)
  need (fmtOf (recFmt conf) == 1 && rs.all fun r => recEsize r == 4) (.code eFmt)
  let short (r : BitVec 128) : Bool := recSwz r != 2 && recExtent r < 256
  need (rs.all fun r => !(recStrict r && short r)) (.code eBnd)
  need (rs.all fun r => (List.range 256).all fun i => match laneAddress r c pin size i 4 with
    | .at _ beyond => !beyond
    | .oob => true) (.code ePerm)
  pure (rs.any short)

def execSlotPass (f : EX) (s : State) : Host.Outcome State Fault Refusal :=
  issue s (pairForm f) fun s c x vs => do
    notPlaza x
    let h := uVal vs 0
    let b := (uVal vs 1).toNat
    need (handleOk h) (.code ePerm)
    let g := s.gang c x
    let conf := vget g.recs (b % 16) 0
    let tok := vget g.recs (b / 16 % 16) 0
    let oob ← passChecks s c x conf tok
    slotFence s c x
    need (!(s.fins.any fun p => p.2.core == c && p.2.ctx == x && (match p.2.op with
      | .pass _ _ => true
      | _ => false))) (.park .engine 6)
    let s := if oob then s.modGang c x fun g => g.raise fOob else s
    pure (sendPair s c x f.d.toNat (.pass conf tok) h (handleDie h))

def execSlotSt (f : EX) (s : State) : Host.Outcome State Fault Refusal :=
  issue s (pairForm f) fun s c x vs => do
    notPlaza x
    need (handleOk (uVal vs 0)) (.code ePerm)
    pure (sendPair s c x f.d.toNat (.slotRead (uVal vs 1)) (uVal vs 0) (handleDie (uVal vs 0)))

def execSlotKerb (f : EX) (s : State) : Host.Outcome State Fault Refusal :=
  issue s (exForm .dest .read .zero f) fun s c x vs => do
    notPlaza x
    need (handleOk (uVal vs 0)) (.code ePerm)
    pure (sendOne s c x f.d.toNat .kerb (uVal vs 0) (handleDie (uVal vs 0)))

def execSlotReopen (f : EX) (s : State) : Host.Outcome State Fault Refusal :=
  issue s (exForm .zero .read .read f) fun s c x vs =>
    slotVerdict s c x (.reopen (uVal vs 1)) (uVal vs 0) (pure ())

def execSlotClose (f : EX) (s : State) : Host.Outcome State Fault Refusal :=
  issue s (exForm .zero .read .zero f) fun s c x vs => slotVerdict s c x .close (uVal vs 0) (pure ())

end Sys2Proof.Machine
end

