-- ==== Sys2Proof/Machine/Kv.lean ====
section
/-! DEFINITION. Sys2Proof/Machine/Kv.lean: rotation and quantisation (R364 to R367), the KV engine (R370 to R374), and
the KV instructions (R368, R369, R373). -/

namespace Sys2Proof.Machine

/-! ### Arithmetic (R364 to R367): FP32 words rounded RNE, no flag raised -/

def fAdd (a b : Nat) : Nat := (fp32.add .ne a b).1
def fSub (a b : Nat) : Nat := (fp32.sub .ne a b).1
def fMul (a b : Nat) : Nat := (fp32.mul .ne a b).1

/-- The sequential sum of terms, from +0. -/
def fSum (l : List Nat) : Nat := l.foldl fAdd 0

/-- One butterfly stage of R364. -/
def butterfly (h : Nat) (x : List Nat) : List Nat :=
  (List.range 128).map fun i =>
    if i / h % 2 = 0 then fAdd (x.getD i 0) (x.getD (i + h) 0) else fSub (x.getD (i - h) 0) (x.getD i 0)

/-- The rotation of R364. -/
def hadamard (x : List Nat) : List Nat :=
  ([1, 2, 4, 8, 16, 32, 64].foldl (fun x h => butterfly h x) x).map fun v => fMul v 0x3db504f3

/-- The scale of a group of channels (R365), a BF16 word. -/
def groupScale (ys : List Nat) : Nat :=
  let vs := ys.map fp32.dec
  if vs.any Fp.isNan then 0x7fc0
  else
    let m := ys.foldl (fun acc y => max acc (y % 2 ^ 31)) 0
    match fp32.dec m with
    | .fin _ man e => (bf16.deliver .ne false man 7 e).1
    | _ => 0x7f80

/-- The quantised value of a channel under a scale (R365). -/
def quantH (y s : Nat) : Int :=
  match fp32.dec y, bf16.dec s with
  | .fin neg my ey, .fin _ ms es =>
    if ms = 0 then 0
    else
      let r := scaleRat my ms (ey - es)
      let q : Int := ((roundRat .ne neg r.1 r.2).1 : Nat)
      max (-8) (min 7 (if neg then -q else q))
  | _, _ => 0

/-- The 64 data bytes and 8 scale bytes of a class H vector. -/
def packH (x : List Nat) : List Byte × List Byte :=
  let y := hadamard x
  let scales := (List.range 4).map fun g => groupScale ((y.drop (32 * g)).take 32)
  let q := (List.range 128).map fun c => (BitVec.ofInt 4 (quantH (y.getD c 0) (scales.getD (c / 32) 0))).toNat
  ((List.range 64).map fun i => BitVec.ofNat 8 (q.getD (2 * i) 0 + 16 * q.getD (2 * i + 1) 0), scales.flatMap fun s => leBytes 2 s)

/-- The key of a codebook (R356). -/
def bookKey (p : Pool) (part layer head g : Nat) : Nat := hbmKey (p.cbpa + (((part * 256 + layer) * 8 + head) * 16 + g) * 4096)

/-- Entry `c` of the codebook at a key: 8 channels as FP32 words. -/
def State.bookEntry (s : State) (k c : Nat) : List Nat :=
  (List.range 8).map fun j => s.load (k + 16 * c + 2 * j) 2 * 65536

/-- The distance of R366. -/
def vqDist (xs cs : List Nat) : Nat := fSum ((xs.zip cs).map fun p => let e := fSub p.1 p.2; fMul e e)

/-- The index of the least distance: ties go to the lower one, and a NaN is never chosen. -/
def State.vqIndex (s : State) (k : Nat) (xs : List Nat) : Nat :=
  (((List.range 256).foldl (fun (best : Option (Nat × Nat)) c =>
    let d := vqDist xs (s.bookEntry k c)
    if (fp32.dec d).isNan then best
    else
      match best with
      | none => some (c, d)
      | some (_, e) => if f32Val (BitVec.ofNat 32 d) < f32Val (BitVec.ofNat 32 e) then some (c, d) else best) none).map (·.1)).getD 0

/-- The index bytes of a class Q vector (R366). -/
def State.packQ (s : State) (p : Pool) (part layer head : Nat) (x : List Nat) : List Byte :=
  (List.range 16).map fun g => BitVec.ofNat 8 (s.vqIndex (bookKey p part layer head g) ((x.drop (8 * g)).take 8))

/-- An entry of the lookup table of R367. -/
def State.lutEntry (s : State) (p : Pool) (layer head g c : Nat) (q : List Nat) : Nat :=
  fSum (((q.drop (8 * g)).take 8).zip (s.bookEntry (bookKey p 0 layer head g) c) |>.map fun x => fMul x.1 x.2)

/-! ### The engine (R374) -/

/-- The cores that hold the first and the last of `n` bytes of tile SRAM, fewer than a slice; none beyond the module. -/
def spanHomes (a n : Nat) : List Nat :=
  ([a, (a + (n - 1)) % 2 ^ 32].filter sramExists).map coreOfAddr

/-- The homes that the accesses of a command reach (R237), without repeats: those of its operands, of the block's die, and of
what its descriptor names: SRC of `kv.st`, the table and the output of `kv.vqsc`, the codebooks' die of `kv.vqlut`. -/
def State.kvHomes (s : State) (m : KvCmd) : List Nat :=
  let a := m.a.toNat
  let b := m.b.toNat
  let f (x o n : Nat) : Nat := s.load (sramKey (x + o)) n
  let die := 4096 + refDie m.a
  let hs : List Nat := match m.op with
    | .st => die :: (spanHomes b 16 ++ spanHomes (f b 8 4) 8192)
    | .ld => die :: spanHomes b (blkSize (refCls m.a))
    | .vqlut => (4096 + f a 2 1) :: (spanHomes a 528 ++ spanHomes b 16384)
    | .vqsc => die :: (spanHomes b 16 ++ spanHomes (f b 0 4) 16384 ++ spanHomes (f b 4 4) 64)
  hs.foldl (fun acc h => insNat h acc) []

/-- Count a command at its homes, or take it off again. -/
def State.countKv (s : State) (c : Nat) (m : KvCmd) (f : Nat → Nat) : State :=
  m.homes.foldl (fun s h => s.countHome c m.ctx 3 h f) s

/-- The command that the engine runs: the oldest one without a verdict. -/
def State.kvHead (s : State) (c : Nat) : Option KvCmd := (s.core c).kvQ.find? fun m => m.ans.isNone

/-- Replace the running command, which its number tells from others alike. -/
def State.setKvHead (s : State) (c : Nat) (m m' : KvCmd) : State :=
  s.modCore c fun k => { k with kvQ := k.kvQ.map fun q => if q.num = m.num then m' else q }

/-- A command leaves the queue. -/
def State.dropKv (s : State) (c : Nat) (m : KvCmd) : State :=
  s.modCore c fun k => { k with kvQ := k.kvQ.filter fun q => q.num != m.num }

/-- The running command ends; its accesses have been performed. -/
def State.kvOver (s : State) (c : Nat) (m : KvCmd) : State :=
  ((s.dropKv c m).countKv c m (· - 1)).completed c m.ctx

/-- It ends with a status, or with poison. -/
def State.kvStatus (s : State) (c : Nat) (m : KvCmd) (r : Option Nat) : State :=
  let s := match m.dst, r with
    | some d, some v => s.fillS c m.ctx d (BitVec.ofNat 32 v)
    | some d, none => s.poisonS c m.ctx d 3
    | none, _ => s
  s.kvOver c m

/-- It ends with a verdict for its parked group: 0 done, else the fault. A gang that has ended takes up none. -/
def State.kvVerdict (s : State) (c : Nat) (m : KvCmd) (v : Nat) : State :=
  let here := match s.gang? c m.ctx with
    | some g => !g.ended
    | none => (s.savedAt c m.ctx).isSome
  if here then (s.setKvHead c m { m with ans := some v }).countKv c m (· - 1) else s.kvOver c m

/-- The engine may not access 16 bytes of tile SRAM for a command (R186). -/
def State.kvRefused1 (s : State) (m : KvCmd) (a : Nat) : Bool :=
  !sramExists a || (!isPlaza m.ctx && !s.regionOk m.launch a)

/-- Nor `n` bytes. -/
def State.kvRefused (s : State) (m : KvCmd) (a n : Nat) : Bool :=
  (List.range ((n + 15) / 16)).any fun i => s.kvRefused1 m (a + 16 * i)

/-- Write 16-byte pieces, with marks where `bad` holds, up to the first refusal; the answer tells whether one was met. -/
def State.kvWrite (s : State) (m : KvCmd) (a : Nat) : List (List Byte × Bool) → State × Bool
  | [] => (s, false)
  | (bs, bad) :: rest =>
    if s.kvRefused1 m a then (s, true)
    else
      let s := s.put (sramKey a) bs
      State.kvWrite (if bad then s.markBad (sramKey a) bs.length else s) m (a + 16) rest

/-- Cut bytes into 16-byte pieces. -/
def pieces (bs : List Byte) : List (List Byte × Bool) :=
  (List.range ((bs.length + 15) / 16)).map fun i => ((bs.drop (16 * i)).take 16, false)

/-- `n` FP32 words of tile SRAM. -/
def State.sramWords (s : State) (a n : Nat) : List Nat := (List.range n).map fun i => s.load (sramKey (a + 4 * i)) 4

/-! ### `kv.st` (R370) -/

/-- The codebooks of a part, layer and head hold an uncorrectable word. -/
def State.booksBad (s : State) (p : Pool) (part layer head : Nat) : Bool :=
  (List.range 16).any fun g => s.isBad (bookKey p part layer head g) 4096

/-- The engine reads the codebooks of a part, layer and head through the memory-side cache (R215). -/
def State.seeBooks (s : State) (p : Pool) (part layer head : Nat) : State :=
  s.seeKeys ((List.range 16).flatMap fun g => (List.range 32).map fun i => bookKey p part layer head g + 128 * i)

/-- What is stored of vector `v` of a block whose key is `k`: the bytes at their keys. -/
def State.kvVector (s : State) (p : Pool) (cls layer k v : Nat) (x : List Nat) : List (Nat × Byte) :=
  let at_ (k : Nat) (bs : List Byte) : List (Nat × Byte) := ((List.range bs.length).map (k + ·)).zip bs
  if cls = 0 then
    let (d, sc) := packH x
    at_ (k + 64 * v) d ++ at_ (k + 16384 + 8 * v) sc
  else at_ (k + 16 * v) (s.packQ p (v % 2) layer (v / 2 % 8) x)

/-- Write the vectors of a position, in order, up to the first one whose source, or whose codebooks, hold an uncorrectable
error: the state, the keys written, and whether one was met. -/
def State.kvStore (s : State) (p : Pool) (cls blk layer pos src : Nat) (ks : List Nat) : List Nat → State × List Nat × Bool
  | [] => (s, ks, false)
  | i :: rest =>
    let a := src + 512 * i
    let s := if cls = 0 then s else s.seeBooks p (i % 2) layer (i / 2)
    if s.isBad (sramKey a) 512 || (cls != 0 && s.booksBad p (i % 2) layer (i / 2)) then (s, ks, true)
    else
      let l := s.kvVector p cls layer (p.blkKey cls blk) (pos * 16 + i) (s.sramWords a 128)
      (s.putKeys l).kvStore p cls blk layer pos src (ks ++ l.map (·.1)) rest

/-- The second part of `kv.st`, with the finaliser's answer. -/
def State.kvStEnd (s : State) (c : Nat) (m : KvCmd) : Option W → State
  | none => s.kvStatus c m (some 1)
  | some pos =>
    let e := kvEntryOf m.ent
    let p := pos.toNat % 16
    if pos.toNat / 16 != e.lblk then s.kvStatus c m (some 4)
    else if e.valid / 2 ^ p % 2 = 1 then s.kvStatus c m (some 5)
    else if s.kvRefused m m.src 8192 then s.kvStatus c m (some 6)
    else
      let pool := s.refPool m.a
      let (s, ks, bad) := s.kvStore pool (refCls m.a) (refBlk m.a) e.layer p m.src [] (List.range 16)
      let s := (s.cover [] ks).1
      if bad then s.kvStatus c m none
      else (s.kvMod pool (refBlk m.a) fun x => { x with valid := x.valid ||| 2 ^ p }).kvStatus c m (some 0)

/-- KV_ST_EXEC: the descriptor and the entry are read, the finaliser is asked, and with its answer the position is
stored. An entry that is uncorrectable poisons sD (log 61). -/
def execKvStExec (core : Nat) (s : State) : Host.Outcome State Fault Refusal :=
  match s.kvHead core with
  | none => .next s
  | some m =>
    if m.op != .st then .next s
    else
      match m.slot with
      | some ans => .next (s.kvStEnd core m ans)
      | none =>
        if m.asked.isSome then .next s
        else
          let a := m.b.toNat
          let f (o n : Nat) : Nat := s.load (sramKey (a + o)) n
          let src := f 8 4
          let h : W := BitVec.ofNat 32 (f 0 4)
          let key := (s.refPool m.a).tblKey (refBlk m.a)
          let ent := s.load key 16
          let m' := { m with homes := s.kvHomes m }
          let s := (s.countKv core m (· - 1)).countKv core m' (· + 1)
          let s := s.setKvHead core m m'
          let m := m'
          if s.kvRefused m a 16 then .next (s.kvStatus core m (some 6))
          else if s.isBad (sramKey a) 16 then .next (s.kvStatus core m none)
          else if f 6 2 != 0 || f 12 4 != 0 || src % 16 != 0 || !sramExists src then .next (s.kvStatus core m (some 7))
          else
            let s := s.touch key true false
            if s.isBad key 16 then .next (s.kvStatus core m none)
            else if (kvEntryOf ent).st != kLive then .next (s.kvStatus core m (some 2))
            else if 1 < (kvEntryOf ent).ref then .next (s.kvStatus core m (some 3))
            else if !handleOk h then .next (s.kvStatus core m (some 1))
            else
            let q : FinCmd := { core := core, ctx := m.ctx, pc := m.pc, op := .kvRead (f 4 2), handle := h, die := handleDie h,
                                dst := none, launch := m.launch, asid := m.asid }
            let n := s.nextId
            .next ((s.setKvHead core m { m with asked := some n, src := src, ent := ent }).sendFin q)

/-! ### `kv.ld` (R371) -/

/-- KV_LD_EXEC: the entry is read, then every byte of the block is copied. An entry that is uncorrectable poisons sD, and
nothing is copied (R371, log 61). -/
def execKvLdExec (core : Nat) (s : State) : Host.Outcome State Fault Refusal :=
  match s.kvHead core with
  | none => .next s
  | some m =>
    if m.op != .ld then .next s
    else
      let p := s.refPool m.a
      let cls := refCls m.a
      let e := s.kvGet p (refBlk m.a)
      let k := p.blkKey cls (refBlk m.a)
      let drain := if e.st = kDraining then 2 ^ 19 else 0
      let s := s.touch (p.tblKey (refBlk m.a)) true false
      if s.isBad (p.tblKey (refBlk m.a)) 16 then .next (s.kvStatus core m none)
      else if e.st = kFree then .next (s.kvStatus core m (some (e.valid + 2 ^ 16)))
      else
        let s := s.touchAll k (blkSize cls) false
        let ps := (List.range (blkSize cls / 16)).map fun i => (readBytes s.mem (k + 16 * i) 16, s.isBad (k + 16 * i) 16)
        let w := s.kvWrite m m.b.toNat ps
        if w.2 then .next (w.1.kvStatus core m (some (e.valid + 2 * 2 ^ 16 + drain)))
        else .next (w.1.kvStatus core m (if ps.any (·.2) then none else some (e.valid + drain)))

/-! ### `kv.vqlut` and `kv.vqsc` (R372) -/

/-- Verdicts. -/
def vKv : Nat := 1
def vPerm : Nat := 2
def vPoison : Nat := 3

/-- KV_VQLUT_EXEC. -/
def execKvVqlutExec (core : Nat) (s : State) : Host.Outcome State Fault Refusal :=
  match s.kvHead core with
  | none => .next s
  | some m =>
    if m.op != .vqlut then .next s
    else
      let a := m.a.toNat
      let bs := readBytes s.mem (sramKey a) 16
      let layer := bytesNat bs 0 1
      let head := bytesNat bs 1 1
      let p := s.pool (bytesNat bs 2 1) 1
      if s.kvRefused m a 528 then .next (s.kvVerdict core m vPerm)
      else if s.isBad (sramKey a) 528 then .next (s.kvVerdict core m vPoison)
      else if 7 < head || bytesNat bs 3 13 != 0 || p.nhome = 0 then .next (s.kvVerdict core m vKv)
      else if s.booksBad p 0 layer head then .next ((s.seeBooks p 0 layer head).kvVerdict core m vPoison)
      else
        let q := s.sramWords (a + 16) 128
        let out := (List.range 16).flatMap fun g => (List.range 256).flatMap fun c => leBytes 4 (s.lutEntry p layer head g c q)
        let w := (s.seeBooks p 0 layer head).kvWrite m m.b.toNat (pieces out)
        .next (w.1.kvVerdict core m (if w.2 then vPerm else 0))

/-- KV_VQSC_EXEC. -/
def execKvVqscExec (core : Nat) (s : State) : Host.Outcome State Fault Refusal :=
  match s.kvHead core with
  | none => .next s
  | some m =>
    if m.op != .vqsc then .next s
    else
      let a := m.b.toNat
      let bs := readBytes s.mem (sramKey a) 16
      let lut := bytesNat bs 0 4
      let out := bytesNat bs 4 4
      let head := bytesNat bs 8 1
      let p := s.refPool m.a
      let e := s.kvGet p (refBlk m.a)
      let k := p.blkKey 1 (refBlk m.a)
      let idx (q g : Nat) : Nat := (memRead s.mem (k + 16 * ((q * 8 + head) * 2) + g)).toNat
      let ok (q : Nat) : Bool := e.valid / 2 ^ q % 2 = 1
      let used := ((List.range 16).filter ok).flatMap fun q => (List.range 16).map fun g => lut + 1024 * g + 4 * idx q g
      if s.kvRefused m a 16 then .next (s.kvVerdict core m vPerm)
      else if s.isBad (sramKey a) 16 then .next (s.kvVerdict core m vPoison)
      else if refCls m.a = 0 || out % 16 != 0 || 7 < head || bytesNat bs 9 7 != 0 then .next (s.kvVerdict core m vKv)
      else
      let s := s.touch (p.tblKey (refBlk m.a)) true false
      if s.isBad (p.tblKey (refBlk m.a)) 16 then .next (s.kvVerdict core m vPoison)
      else if e.st = kFree then .next (s.kvVerdict core m vKv)
      else
      let s := s.seeKeys (((List.range 16).filter ok).map fun q => k + 16 * ((q * 8 + head) * 2))
      if used.any fun x => s.kvRefused1 m x || s.kvRefused1 m (x + 3) then .next (s.kvVerdict core m vPerm)
      else if (used.any fun x => s.isBad (sramKey x) 4) ||
          (List.range 16).any (fun q => ok q && s.isBad (k + 16 * ((q * 8 + head) * 2)) 16) then
        .next (s.kvVerdict core m vPoison)
      else
        let score (q : Nat) : Nat :=
          if ok q then fSum ((List.range 16).map fun g => s.load (sramKey (lut + 1024 * g + 4 * idx q g)) 4) else 0xff800000
        let w := s.kvWrite m out (pieces ((List.range 16).flatMap fun q => leBytes 4 (score q)))
        .next (w.1.kvVerdict core m (if w.2 then vPerm else 0))

/-! ### The engine's instructions (R368, R370 to R372) -/

/-- An SRAM address operand. -/
def kvAddr (a : W) : Except Stop Unit := do
  need (a.toNat % 16 == 0) (.code eAlign)
  need (sramExists a.toNat) (.code ePerm)

/-- Queue a command; a full queue parks the group (R374). -/
def queueKv (s : State) (c x : Nat) (op : KvOp) (a b : W) (dst : Option Nat) : Except Stop State := do
  need (((s.core c).kvQ.filter fun m => m.ans.isNone).length < 16) (.park .engine 7)
  let m : KvCmd := { op := op, num := s.nextId, ctx := x, a := a, b := b, dst := dst, pc := (s.gang c x).pc,
                     launch := (s.launchOf c x).setWidth 8, asid := s.asidOf c x }
  let m := { m with homes := s.kvHomes m }
  let s := s.modCore c fun k => { k with kvQ := k.kvQ ++ [m] }
  pure ({ s with nextId := s.nextId + 1 }.countKv c m (· + 1))

/-- The fence of R370 and R372. -/
def kvFence (s : State) (c x : Nat) : Except Stop Unit := need (s.fenceDone c x 5 3) (.park .fence 0)

def execKvSt (f : EX) (s : State) : Host.Outcome State Fault Refusal :=
  issue s (exForm .dest .read .read f) fun s c x vs => do
    notPlaza x
    kvAddr (uVal vs 1)
    need (s.refOk (uVal vs 0)) (.code eKv)
    kvFence s c x
    let s ← queueKv s c x .st (uVal vs 0) (uVal vs 1) (some f.d.toNat)
    pure { s := s.emptyS c x f.d.toNat, dest := BitVec.ofNat 8 (64 + f.d.toNat) }

def execKvLd (f : EX) (s : State) : Host.Outcome State Fault Refusal :=
  issue s (exForm .dest .read .read f) fun s c x vs => do
    kvAddr (uVal vs 1)
    need (s.refOk (uVal vs 0)) (.code eKv)
    let s ← queueKv s c x .ld (uVal vs 0) (uVal vs 1) (some f.d.toNat)
    pure { s := s.emptyS c x f.d.toNat, dest := BitVec.ofNat 8 (64 + f.d.toNat) }

/-- Queue a command that parks its gang, or take up its verdict. -/
def kvParked (s : State) (c x : Nat) (op : KvOp) (a b : W) (checks : Except Stop Unit) : Except Stop Done := do
  notPlaza x
  match (s.core c).kvQ.find? fun m => m.ctx == x && m.pc == (s.gang c x).pc && m.op == op with
  | none =>
    checks
    kvFence s c x
    let s ← queueKv s c x op a b none
    pure { s := s, parks := some (.verdict, 1) }
  | some m =>
    match m.ans with
    | none => .error (.park .verdict 1)
    | some v =>
      if v = vKv then .error (.code eKv)
      else if v = vPerm then .error (.code ePerm)
      else if v = vPoison then .error (.fault ePoison 3 0 0 0)
      else pure (done (s.dropKv c m))

def execKvVqlut (f : EX) (s : State) : Host.Outcome State Fault Refusal :=
  issue s (exForm .zero .read .read f true) fun s c x vs =>
    kvParked s c x .vqlut (uVal vs 0) (uVal vs 1) do
      kvAddr (uVal vs 0)
      kvAddr (uVal vs 1)

def execKvVqsc (f : EX) (s : State) : Host.Outcome State Fault Refusal :=
  issue s (exForm .zero .read .read f true) fun s c x vs =>
    kvParked s c x .vqsc (uVal vs 0) (uVal vs 1) do
      kvAddr (uVal vs 1)
      need (s.refOk (uVal vs 0)) (.code eKv)

/-! ### The service's instructions (R368, R369) -/

/-- The fence of R369. -/
def svcFence (s : State) (c x : Nat) : Except Stop Unit := need (s.fenceDone c x 9 3) (.park .fence 0)

def execKvMap (f : EX) (s : State) : Host.Outcome State Fault Refusal :=
  issue s (exForm .dest .read .read f) fun s c x vs => do
    notPlaza x
    let t := (uVal vs 1).toNat
    kvAddr (uVal vs 0)
    need (t % 32 < 24) (.code ePerm)
    let p := s.pool (t % 32) (t / 32 % 2)
    need (p.nhome != 0) (.code eKv)
    svcFence s c x
    pure (s.call c x f.d.toNat p.svc (uVal vs 0) 1 (uVal vs 1))

/-- A request that names a block. -/
def callBlock (f : EX) (svc : Nat) (s : State) : Host.Outcome State Fault Refusal :=
  issue s (exForm .dest .read .zero f) fun s c x vs => do
    notPlaza x
    need (s.refOk (uVal vs 0)) (.code eKv)
    svcFence s c x
    pure (s.call c x f.d.toNat (s.refPool (uVal vs 0)).svc (uVal vs 0) svc 0)

def execKvFork (f : EX) (s : State) : Host.Outcome State Fault Refusal := callBlock f 2 s
def execKvDrop (f : EX) (s : State) : Host.Outcome State Fault Refusal := callBlock f 3 s

def execKvUnpin (f : EX) (s : State) : Host.Outcome State Fault Refusal :=
  issue s (exForm .zero .read .zero f) fun s c x vs => do
    notPlaza x
    need (s.refOk (uVal vs 0)) (.code eKv)
    svcFence s c x
    pure (done (s.sendPkt c x (s.refPool (uVal vs 0)).svc false [(0, uVal vs 0)] .none 4 0))

/-! ### `kv.had` (R373) -/

/-- `kv.had`: the banks of its destinations are written at issue, above what still pends there. -/
def execKvHad (f : EX) (s : State) : Host.Outcome State Fault Refusal :=
  let a := f.a.toNat
  let d := f.d.toNat
  issue s { exForm .vdest .vread .zero f with
      names := [(a, 4), (d, 4)]
      srcs := (List.range 4).map fun i => { cls := .vt, code := a + i, blk := f.ba == 1 }
      dests := (List.range 4).map fun i => d + i } fun s c x vs => do
    notPlaza x
    need (vs.all (tagOk [1])) (.code eFmt)
    let xs := (vs.map Val.lanes).flatMap fun r => (List.range 32).map fun l => (r.lane l).toNat
    let y := hadamard xs
    let m := (s.gang c x).lanes
    let s := (List.range 4).foldl (fun s i =>
      (s.writeV c x (d + i) m (Lanes.of fun l => BitVec.ofNat 32 (y.getD (32 * i + l) 0)) tagF32).modGang c x fun g =>
        g.commit 0 (d + i)) s
    pure { s := s, dest := BitVec.ofNat 8 d }

end Sys2Proof.Machine
end

