-- ==== Sys2Proof/Machine/Frontend.lean ====
section
/-! DEFINITION. Sys2Proof/Machine/Frontend.lean: the front end on die 0: queues and doorbells (R378, R379), packets (R380
to R383), stride arbitration (R395), completion signals (R397), and the journal with take-over (R399, R400). -/

namespace Sys2Proof.Machine

/-! ### Queues (R378) -/

def State.queue (s : State) (q : Nat) : Queue := sgetD s.fe.queues q {}
def State.setQueue (s : State) (q : Nat) (x : Queue) : State := { s with fe := { s.fe with queues := sput s.fe.queues q x } }
def State.modQueue (s : State) (q : Nat) (f : Queue → Queue) : State := s.setQueue q (f (s.queue q))

/-- Reasons for a halt. -/
def errQtail : Nat := 1
def errIbDepth : Nat := 2
def errBadPkt : Nat := 3
def errPf : Nat := 4
def errBadLaunch : Nat := 5

/-- The head packet is no longer held, and a launch that it waits with is withdrawn. -/
def State.unselect (s : State) (q : Nat) : State :=
  let s := s.modQueue q fun x => { x with head := none }
  { s with fe := { s.fe with waiting := s.fe.waiting.filter fun w => w.queue != q || w.stream.isSome } }

/-- A queue halts with an error, on a packet where one is at fault. -/
def State.haltQueue (s : State) (q err : Nat) (pkt : Option Nat) : State :=
  (s.unselect q).modQueue q fun x =>
    { x with st := 2, err := err, errpkt := (pkt.map (BitVec.ofNat 64)).getD x.errpkt }

/-- The address of the head packet: in the innermost buffer, or in the ring. -/
def Queue.pktAddr (x : Queue) : Option Nat :=
  match x.chain with
  | i :: _ => some i.next
  | [] => if x.ridx = x.widx then none else some ((x.ring.toNat + 64 * (x.ridx.toNat % 2 ^ x.log2size)) % 2 ^ 48)

/-- A queue that runs, has tickets and has a head packet that is not held. -/
def Queue.runs (x : Queue) : Bool := x.st == 1 && x.tickets != 0 && x.head.isNone && x.pktAddr.isSome

/-! ### The journal and held completions (R399) -/

/-- The policy core journals a decision. During a take-over it does not. -/
def State.journal (s : State) : State :=
  if s.fe.failover then s
  else
    let i := s.fe.jidx
    let a := s.fe.jbase + 32 * (i % (Config.journalSize + 1))
    let s := { s with fe := { s.fe with jidx := i + 1, kicks := [] } }
    if s.fe.jbase = 0 || !hbmUsable (a + 31) then s
    else s.put (hbmKey a) ((List.range 32).map (Config.journalByte i))

/-- Set a bit of the pending-kick bitmap: a queue, or 256 + a stream. -/
def State.kick (s : State) (i : Nat) : State := { s with fe := { s.fe with kicks := insNat i s.fe.kicks } }

/-- The hold queue cannot take `n` more completions. -/
def State.holdShort (s : State) (n : Nat) : Bool := s.fe.failover && decide (4096 < s.fe.held.length + n)

/-- The hold queue takes no more completions. -/
def State.holdFull (s : State) : Bool := s.holdShort 1

/-! ### Reading (R380) -/

/-- Bytes read by the front end in an address space; none where a page or a word fails. -/
def State.feRead (s : State) (asid : Byte) (va n : Nat) : State × Option (List Byte) :=
  match readVa (fun s va => s.lookupDie 0 asid va .load) n s (va % 2 ^ 48) with
  | (s, .ok bs) => (s, some bs)
  | (s, .error _) => (s, none)

/-- Bytes of one page written by the front end; none where the page fails. -/
def State.feWrite (s : State) (asid : Byte) (va : Nat) (bs : List Byte) : Option State :=
  match s.lookupDie 0 asid (va % 2 ^ 48) .store with
  | (s, .ok e) => some (s.put (e.key (va % 2 ^ 48)) bs)
  | (_, .error _) => none

/-! ### Packets (R380, R382) -/

/-- The bytes from `off` on are all 0. -/
def zeroAt (bs : List Byte) (off n : Nat) : Bool := bytesNat bs off n == 0

def pktFlags (bs : List Byte) : Nat := bytesNat bs 1 1
def pktOrder (bs : List Byte) : Bool := pktFlags bs % 2 == 1
def pktHasSig (bs : List Byte) : Bool := pktFlags bs / 2 % 2 == 1

/-- The kind of a packet: its TYPE, and OP × 16 with it for a STREAM packet. -/
def pktKind (bs : List Byte) : Nat :=
  if bytesNat bs 0 1 = 7 then 7 + 16 * bytesNat bs 0x18 4 else bytesNat bs 0 1

/-- The header and body hold no bad value. -/
def State.pktOk (s : State) (bs : List Byte) : Bool :=
  let ty := bytesNat bs 0 1
  let f (off n : Nat) : Nat := bytesNat bs off n
  ty ≤ 8 && pktFlags bs / 16 == 0 && pktFlags bs / 4 % 4 != 3 && zeroAt bs 2 6 && (!pktHasSig bs || f 8 8 % 32 == 0) &&
  (match ty with
    | 1 => f 0x39 1 ≤ 8 && zeroAt bs 0x3a 6
    | 2 => f 0x28 8 < 2 ^ 40
    | 4 => f 0x18 8 % 8 == 0 && f 0x28 8 ≤ 3
    | 5 => f 0x18 8 % 64 == 0 && 1 ≤ f 0x20 8 && f 0x20 8 ≤ 65536
    | 7 => s.feature 2 && f 0x18 4 ≤ 3 && f 0x1c 4 < 16384 && f 0x30 8 % 8 == 0
    | _ => true)

/-- The signal of a packet of a queue. -/
def pktSig (q addr : Nat) (asid : Byte) (bs : List Byte) : Option Sig :=
  if pktHasSig bs then
    some { va := bytesNat bs 8 8 % 2 ^ 48, asid := asid, op := pktFlags bs / 4 % 4, val := BitVec.ofNat 64 (bytesNat bs 16 8),
           queue := q, pkt := addr }
  else none

/-- ORDER and FENCE: every earlier packet but the buffers that hold this one has completed (R381, R382). -/
def Queue.orderOk (x : Queue) (bs : List Byte) : Bool :=
  !(pktOrder bs || bytesNat bs 0 1 == 8) || x.outst.all fun o => x.chain.any fun i => i.num == o.num

/-- The bytes of the head packet. -/
def State.headBytes (s : State) (q : Nat) : State × Option (List Byte) :=
  let x := s.queue q
  match x.pktAddr with
  | none => (s, none)
  | some a => s.feRead x.asid a 64

/-! ### Stride arbitration (R395) -/

/-- A queue that can start a packet or take a LAUNCH up: a head that cannot be read, or holds a bad value, counts, since
it halts the queue. A WAIT or TIMER does not (R382). -/
def State.canStart (s : State) (q : Nat) : Bool :=
  (s.queue q).runs &&
  match (s.headBytes q).2 with
  | none => true
  | some bs => !s.pktOk bs || (bytesNat bs 0 1 != 4 && bytesNat bs 0 1 != 6 && (s.queue q).orderOk bs)

/-- The lowest PASS of some queues. -/
def lowPass (l : List (Nat × Queue)) : Option (BitVec 64) :=
  l.foldl (fun (m : Option (BitVec 64)) p => match m with
    | none => some p.2.pass
    | some v => some (if p.2.pass < v then p.2.pass else v)) none

/-- Note which queues are ready; one that becomes ready takes PASS := max(PASS, V). -/
def State.refresh (s : State) : State :=
  let old := s.fe.queues.filter fun p => p.2.ready && s.canStart p.1
  { s with fe := { s.fe with queues := s.fe.queues.map fun p =>
      let now := s.canStart p.1
      let pass := match lowPass old with
        | some v => if now && !p.2.ready && p.2.pass < v then v else p.2.pass
        | none => p.2.pass
      (p.1, { p.2 with ready := now, pass := pass }) } }

/-- The queue whose packet starts next: the lowest PASS of the ready queues, the lowest id among equals. -/
def State.pickQueue (s : State) : Option Nat :=
  let ready := s.fe.queues.filter fun p => s.canStart p.1
  match lowPass ready with
  | none => none
  | some v => (ready.find? fun p => p.2.pass == v).map (·.1)

/-- Drop the innermost buffers of which nothing is left. -/
def popDone : List Indirect → List Indirect
  | i :: r => if i.left = 0 then popDone r else i :: r
  | [] => []

/-- The place after the head packet of a queue. -/
def Queue.advance (x : Queue) : Queue :=
  match x.chain with
  | i :: r => { x with chain := { i with left := i.left - 1, next := (i.next + 64) % 2 ^ 48 } :: r }
  | [] => { x with ridx := x.ridx + 1 }

/-- A start of a queue: PASS rises by the stride. -/
def Queue.stride (x : Queue) : Queue := { x with pass := x.pass + BitVec.ofNat 64 (2 ^ 20 / x.tickets) }

/-- The head packet of a queue starts; `inner` is the buffer of an INDIRECT. -/
def Queue.start (x : Queue) (sig : Option Sig) (inner : Option Indirect) : Queue :=
  let up := x.chain.map (·.num)
  let y := x.advance.stride
  { y with head := none, num := x.num + 1, outst := x.outst ++ [{ num := x.num, up := up, inner := inner.isSome, sig := sig }],
           chain := popDone (inner.toList ++ y.chain) }

def State.startHead (s : State) (q : Nat) (sig : Option Sig) (inner : Option Indirect) : State :=
  (s.modQueue q fun x => x.start sig inner).journal

/-! ### Completion and signals (R381, R397) -/

/-- Update a signal: an atomic write with release, then the interrupt write. A signal that cannot be written halts the
queue. -/
def State.signal (s : State) (g : Sig) : State :=
  match s.lookupDie 0 g.asid g.va .store with
  | (s, .error _) => s.haltQueue g.queue errPf (some g.pkt)
  | (s, .ok e) =>
    let k := e.key g.va
    if s.isBad k 32 then s.haltQueue g.queue errPf (some g.pkt)
    else
      let old := BitVec.ofNat 64 (s.load k 8)
      let new := match g.op with
        | 0 => g.val
        | 1 => old + g.val
        | _ => old - g.val
      let s := s.put k (leBytes 8 new.toNat)
      let mode := s.load (k + 0x14) 1
      if mode = 1 || mode = 2 then
        s.sendMsi { addr := BitVec.ofNat 64 (s.load (k + 8) 8), data := BitVec.ofNat 32 (s.load (k + 0x10) 4), mode := mode }
      else s

/-- Release a completion: its journal record first, then its signal. -/
def State.releaseSig (s : State) (g : Option Sig) : State :=
  match g with
  | none => s.journal
  | some g => s.journal.signal g

/-- A completion is released, or held during a take-over. -/
def State.deliverSig (s : State) (g : Option Sig) : State :=
  if s.fe.failover then { s with fe := { s.fe with held := s.fe.held ++ [g] } } else s.releaseSig g

/-- A packet is no longer outstanding. -/
def Queue.retire (x : Queue) (num : Nat) : Queue := { x with outst := x.outst.filter fun o => o.num != num }

/-- INDIRECT `n` of a queue has started, and its packets have started and completed. -/
def Queue.over (x : Queue) (n : Nat) : Bool :=
  x.outst.any (fun o => o.num == n && o.inner) && !x.chain.any (fun i => i.num == n) && !x.outst.any fun o => o.up.contains n

/-- An INDIRECT completes once its packets have started and completed (R383). While the hold queue is full its completion
waits (R399). -/
def State.endIndirect (s : State) (q n : Nat) : State :=
  let x := s.queue q
  if !x.over n || s.holdFull then s
  else
    match x.outst.find? fun o => o.num == n with
    | none => s
    | some o => (s.modQueue q fun x => x.retire n).deliverSig o.sig

/-- An INDIRECT that waited for a place in the hold queue completes. -/
def indirectEnd (q n : Nat) (s : State) : State := (s.endIndirect q n).refresh

/-- A packet completes, and with it the INDIRECTs that waited for it. -/
def State.completePkt (s : State) (q num : Nat) (g : Option Sig) : State :=
  let up := match (s.queue q).outst.find? fun o => o.num == num with
    | some o => o.up
    | none => []
  up.foldl (fun s n => s.endIndirect q n) ((s.modQueue q fun x => x.retire num).deliverSig g)

/-! ### Starting a packet -/

/-- The head packet of a queue when it is the turn of the queue and the packet is of a kind; WAIT and TIMER are taken up
whatever the turn. A packet that cannot be read or holds a bad value halts its queue. -/
def State.takeHead (s : State) (q kind : Nat) : State × Option (Nat × List Byte) :=
  let s := s.refresh
  let x := s.queue q
  let turn := s.pickQueue == some q
  if !x.runs || s.holdFull then (s, none)
  else
    match x.pktAddr with
    | none => (s, none)
    | some a =>
      match s.headBytes q with
      | (s, none) => (if turn then s.haltQueue q errPf (some a) else s, none)
      | (s, some bs) =>
        if !s.pktOk bs then (if turn then s.haltQueue q errBadPkt (some a) else s, none)
        else if pktKind bs != kind || !(turn || kind == 4 || kind == 6) then (s, none)
        else (s, some (a, bs))

/-- A packet that completes at once. -/
def State.atOnce (s : State) (q kind : Nat) : State :=
  match s.takeHead q kind with
  | (s, none) => s.refresh
  | (s, some (a, bs)) =>
    let g := pktSig q a (s.queue q).asid bs
    ((s.startHead q none none).completePkt q (s.queue q).num g).refresh

/-- PACKET_NOP. -/
def execPacketNop (q : Nat) (s : State) : Host.Outcome State Fault Refusal := .next (s.atOnce q 0)
/-- PACKET_SIGNAL. -/
def execPacketSignal (q : Nat) (s : State) : Host.Outcome State Fault Refusal := .next (s.atOnce q 3)
/-- PACKET_FENCE. -/
def execPacketFence (q : Nat) (s : State) : Host.Outcome State Fault Refusal := .next (s.atOnce q 8)

/-! ### WAIT and TIMER (R382) -/

/-- The condition of a WAIT on the value it has read. -/
def condHolds (cond : Nat) (v w : BitVec 64) : Bool :=
  match cond with
  | 0 => w ≤ v
  | 1 => v == w
  | 2 => v != w
  | _ => v < w

/-- The WAIT at the head of a queue holds: none where its word cannot be read. -/
def State.waitHolds (s : State) (q : Nat) (bs : List Byte) : State × Option Bool :=
  match s.feRead (s.queue q).asid (bytesNat bs 0x18 8) 8 with
  | (s, none) => (s, none)
  | (s, some w) =>
    (s, some (condHolds (bytesNat bs 0x28 8) (BitVec.ofNat 64 (leNat w)) (BitVec.ofNat 64 (bytesNat bs 0x20 8))))

/-- The held head of a queue starts and completes. -/
def State.passHead (s : State) (q : Nat) (bs : List Byte) : State :=
  let x := s.queue q
  let g := pktSig q (x.pktAddr.getD 0) x.asid bs
  (s.startHead q none none).completePkt q x.num g

/-- The held head may start: its queue runs with tickets, ORDER is met, and the completion can be held. -/
def State.headFree (s : State) (q : Nat) (bs : List Byte) : Bool :=
  (s.queue q).st == 1 && (s.queue q).tickets != 0 && (s.queue q).orderOk bs && !s.holdFull

/-- The WAIT at the head reads its word. -/
def State.tryWait (s : State) (q : Nat) (bs : List Byte) : State :=
  if !s.headFree q bs then s
  else
    match s.waitHolds q bs with
    | (s, none) => s.haltQueue q errPf ((s.queue q).pktAddr)
    | (s, some true) => s.passHead q bs
    | (s, some false) => s

/-- The TIMER at the head looks at device time; no timer fires during a take-over (R399). -/
def State.tryTimer (s : State) (q : Nat) (bs : List Byte) : State :=
  if s.headFree q bs && !s.fe.failover && bytesNat bs 0x18 8 ≤ s.ns then s.passHead q bs else s

/-- The head of a queue that holds a packet of a type. -/
def State.heldHead (s : State) (q ty : Nat) : Option (List Byte) :=
  match (s.queue q).head with
  | some bs => if bytesNat bs 0 1 = ty then some bs else none
  | none => none

/-- PACKET_WAIT: the packet holds its queue, and its word is read. -/
def execPacketWait (q : Nat) (s : State) : Host.Outcome State Fault Refusal :=
  match s.takeHead q 4 with
  | (s, none) => .next s.refresh
  | (s, some (_, bs)) => .next ((s.modQueue q fun x => { x with head := some bs }).tryWait q bs).refresh

/-- WAIT_REREAD. -/
def execWaitReread (q : Nat) (s : State) : Host.Outcome State Fault Refusal :=
  match s.heldHead q 4 with
  | none => .next s
  | some bs => .next (s.tryWait q bs).refresh

/-- PACKET_TIMER: the packet holds its queue until T. -/
def execPacketTimer (q : Nat) (s : State) : Host.Outcome State Fault Refusal :=
  match s.takeHead q 6 with
  | (s, none) => .next s.refresh
  | (s, some (_, bs)) => .next ((s.modQueue q fun x => { x with head := some bs }).tryTimer q bs).refresh

/-- TIMER_PACKET_DUE. -/
def execTimerPacketDue (q : Nat) (s : State) : Host.Outcome State Fault Refusal :=
  match s.heldHead q 6 with
  | none => .next s
  | some bs => .next (s.tryTimer q bs).refresh

/-! ### INDIRECT (R383) -/

/-- PACKET_INDIRECT: the buffer's packets come next; depth 5 and a repeated IBVA halt the queue. -/
def execPacketIndirect (q : Nat) (s : State) : Host.Outcome State Fault Refusal :=
  match s.takeHead q 5 with
  | (s, none) => .next s.refresh
  | (s, some (a, bs)) =>
    let x := s.queue q
    let ibva := bytesNat bs 0x18 8 % 2 ^ 48
    if 4 ≤ x.chain.length || x.chain.any (fun i => i.ibva == ibva) then
      .next (s.haltQueue q errIbDepth (some a)).refresh
    else
      let i : Indirect := { ibva := ibva, left := bytesNat bs 0x20 8, next := ibva, num := x.num }
      .next (s.startHead q (pktSig q a x.asid bs) (some i)).refresh

/-! ### COPY (R382) -/

/-- PACKET_COPY. -/
def execPacketCopy (q : Nat) (s : State) : Host.Outcome State Fault Refusal :=
  match s.takeHead q 2 with
  | (s, none) => .next s.refresh
  | (s, some (a, bs)) =>
    let x := s.queue q
    let f (off n : Nat) : Nat := bytesNat bs off n
    let job : CopyJob := { queue := q, num := x.num, src := f 0x18 8 % 2 ^ 48, dst := f 0x20 8 % 2 ^ 48, len := f 0x28 8,
                           asid := BitVec.ofNat 8 (f 0x38 1), pkt := a, sig := pktSig q a x.asid bs }
    let s := s.startHead q none none
    .next { s with fe := { s.fe with copies := sput s.fe.copies s.nextId job }, nextId := s.nextId + 1 }.refresh

/-- The runs of one page that a range of `n` bytes at `va` meets, translated in an address space: their keys and
lengths. `pages` bounds their number. -/
def State.feRuns (s : State) (asid : Byte) (k : AccKind) : Nat → Nat → Nat → State × Option (List (Nat × Nat))
  | 0, _, _ => (s, some [])
  | pages + 1, va, n =>
    if n = 0 then (s, some [])
    else
      match s.lookupDie 0 asid va k with
      | (s, .error _) => (s, none)
      | (s, .ok e) =>
        let len := min n (65536 - va % 65536)
        match s.feRuns asid k pages ((va + len) % 2 ^ 48) (n - len) with
        | (s, none) => (s, none)
        | (s, some r) => (s, some ((e.key va, len) :: r))

/-- Move a byte of the source to a destination key; a byte that the move has overwritten is read as it stood in `s0` or as it is
(log 11). A word marked uncorrectable marks the words it reaches (R193). -/
def State.moveByte (s0 s : State) (src dst : Nat) : State :=
  let s := s.storeBytes dst [memRead (if Config.copyOld s0.tick src then s0.mem else s.mem) src]
  if s0.isBad src 1 then s.markBad dst 1 else s

/-- The keys of the bytes of runs, in order. -/
def runKeys (l : List (Nat × Nat)) : List Nat := l.flatMap fun p => (List.range p.2).map (p.1 + ·)

/-- Copy runs of bytes, through the memory-side caches (R215). The marks of the words that the destination covers whole go
first. -/
def State.moveRuns (s : State) (src dst : List (Nat × Nat)) : State :=
  let t := src.foldl (fun (t : State) p => t.touchAll p.1 p.2 false) s
  let t := dst.foldl (fun (t : State) p => (t.touchAll p.1 p.2 true).clearBad p.1 p.2) t
  ((runKeys src).zip (runKeys dst)).foldl (fun t p => s.moveByte t p.1 p.2) t

/-- A page of a copy has failed: the queue halts, and the copy goes on once the queue runs again. -/
def State.stickCopy (s : State) (job : Nat) (j : CopyJob) : State :=
  let s := { s with fe := { s.fe with copies := sput s.fe.copies job { j with stuck := true } } }
  (s.haltQueue j.queue errPf (some j.pkt)).refresh

/-- COPY_PACKET_DONE: the bytes are written, and the packet completes, whatever its queue does meanwhile (R382). -/
def execCopyPacketDone (job : Nat) (s : State) : Host.Outcome State Fault Refusal :=
  match sget s.fe.copies job with
  | none => .next s
  | some j =>
    if (j.stuck && (s.queue j.queue).st != 1) || s.holdFull then .next s
    else
      let n := j.len / 65536 + 2
      match s.feRuns j.asid .load n j.src j.len with
      | (s, none) => .next (s.stickCopy job j)
      | (s, some src) =>
        match s.feRuns j.asid .store n j.dst j.len with
        | (s, none) => .next (s.stickCopy job j)
        | (s, some dst) =>
          let s := s.moveRuns src dst
          .next (({ s with fe := { s.fe with copies := sdel s.fe.copies job } }).completePkt j.queue j.num j.sig).refresh

/-! ### Writes of queue registers (R378, R379, R395) -/

/-- WIDX_WRITE: the doorbell. -/
def execWidxWrite (q : Nat) (v : W) (s : State) : Host.Outcome State Fault Refusal :=
  if 256 ≤ q then .next s
  else
    let s := s.refresh
    let x := s.queue q
    let ok : Bool := (v - x.ridx).toNat ≤ 2 ^ x.log2size && (v - x.widx).toNat ≤ 2 ^ x.log2size
    let s := s.kick q
    .next (if ok then s.modQueue q fun x => { x with widx := v } else s.haltQueue q errQtail none).refresh

/-- The chain of INDIRECT buffers is dropped: their packets that have not started never do, so the INDIRECTs never complete
(R378, R383; log 42). -/
def Queue.dropChain (x : Queue) : Queue :=
  { x with chain := [], outst := x.outst.filter fun o => !(o.inner && x.chain.any fun i => i.num == o.num) }

/-- QUEUE_STATE_WRITE. -/
def execQueueStateWrite (q : Nat) (v : W) (s : State) : Host.Outcome State Fault Refusal :=
  if 256 ≤ q || 3 ≤ v.toNat then .next s
  else
    let s := s.refresh
    let s := if v = 1 then s else s.unselect q
    .next (s.modQueue q fun x => { (if v = 0 then x.dropChain else x) with st := v.toNat }).refresh

/-- TICKETS_WRITE. -/
def execTicketsWrite (q : Nat) (v : W) (s : State) : Host.Outcome State Fault Refusal :=
  if 256 ≤ q || 65536 ≤ v.toNat then .next s
  else .next (s.refresh.modQueue q fun x => { x with tickets := v.toNat }).refresh

/-- Write a descriptor field that has no row of its own: RIDX while STATE is 0 or 2, the others while it is 0. A value outside
the range of a field is ignored (R378). -/
def Queue.writeField (x : Queue) (f : QField) (v : W) : Queue :=
  match f with
  | .ridx => if x.st = 1 then x else { x.dropChain with ridx := v }
  | .ringLo => if x.st != 0 || v.toNat % 64 != 0 then x else { x with ring := x.ring.extractLsb' 32 32 ++ v }
  | .ringHi => if x.st != 0 || 65536 ≤ v.toNat then x else { x with ring := v ++ x.ring.extractLsb' 0 32 }
  | .log2size => if x.st != 0 || v = 0 || 16 < v.toNat then x else { x with log2size := v.toNat }
  | .prio => if x.st != 0 || 3 < v.toNat then x else { x with prio := v.toNat }
  | .asid => if x.st != 0 || 255 < v.toNat then x else { x with asid := v.setWidth 8 }
  | .err => if x.st != 0 || 5 < v.toNat then x else { x with err := v.toNat }
  | .errpktLo => if x.st != 0 then x else { x with errpkt := x.errpkt.extractLsb' 32 32 ++ v }
  | .errpktHi => if x.st != 0 then x else { x with errpkt := v ++ x.errpkt.extractLsb' 0 32 }

/-! ### Take-over (R399, R400) -/

/-- FAILOVER. -/
def execFailover (s : State) : Host.Outcome State Fault Refusal := .next { s with fe := { s.fe with failover := true } }

/-- STANDBY_ACK: the held completions are journalled and released in hold order; the journal and the kick bitmap have
given the standby the state of the queues and contexts, and it acts from now on (R13, R400). -/
def execStandbyAck (s : State) : Host.Outcome State Fault Refusal :=
  if !s.fe.failover then .next s
  else
    let held := s.fe.held
    let s := { s with fe := { s.fe with failover := false, held := [], acting := 1 - s.fe.acting } }
    .next (held.foldl (fun (s : State) g => s.releaseSig g) s).refresh

end Sys2Proof.Machine
end

