-- ==== Sys2Proof/Machine/Launches.lean ====
section
/-! DEFINITION. Sys2Proof/Machine/Launches.lean: launches: the LAUNCH packet and the descriptor (R54, R382, R384, R386),
admission (R19, R108, R385), and the start of a crew (R54, R61). -/

namespace Sys2Proof.Machine

/-! ### Targets (R384, R413, R414) -/

/-- The cores of a TARGET. -/
def targetCores (t : BitVec 64) : List Nat :=
  (List.range 1536).filter fun c => bit t (c / 64) && bit t (24 + c % 64 / 4) && bit t (40 + c % 4)

/-- A TARGET that names cores, all of them in service. R384 wants bits [63:44] to be 0; that a TARGET with one of them set halts
the queue as BADLAUNCH is the model's choice (DEDUCED, log 56). -/
def State.targetOk (s : State) (t : BitVec 64) : Bool :=
  fld t 63 44 == 0 && fld t 23 0 != 0 && fld t 39 24 != 0 && fld t 43 40 != 0 &&
  (List.range 24).all (fun d => !bit t d || s.dieUp d) && (s.full || fld t 39 28 == 0)

/-! ### The descriptor (R54, R382) -/

/-- The record entries of a descriptor: index and record. -/
def descRecs (bs : List Byte) (n : Nat) : List (Nat × BitVec 128) :=
  (List.range n).map fun i => (bytesNat bs (20 * i) 1, BitVec.ofNat 128 (bytesNat bs (20 * i + 4) 16))

/-- The share entries: first register, count, id. -/
def descShares (bs : List Byte) (off n : Nat) : List (Nat × Nat × Nat) :=
  (List.range n).map fun i =>
    let w := bytesNat bs (off + 4 * i) 4
    (w % 64, w / 64 % 64 + 1, w / 4096 % 64)

/-- No two entries of a list are related. -/
def allDistinct {α : Type} (r : α → α → Bool) : List α → Bool
  | [] => true
  | a :: l => l.all (fun b => !r a b) && allDistinct r l

/-- Two share entries meet in a register or repeat an id. -/
def sharesMeet (a b : Nat × Nat × Nat) : Bool := a.2.2 == b.2.2 || (a.1 < b.1 + b.2.1 && b.1 < a.1 + a.2.1)

/-- The head of a descriptor is well formed. -/
def descHeadOk (h : List Byte) : Bool :=
  let f (off n : Nat) : Nat := bytesNat h off n
  f 0 4 == 0x5a4b0001 && f 4 2 == 64 + 20 * f 0x24 1 + 4 * f 0x25 1 && zeroAt h 6 2 && zeroAt h 0x12 2 && zeroAt h 0x26 26 &&
  1 ≤ f 0x10 1 && f 0x10 1 ≤ 16 && 8 ≤ f 0x11 1 && f 0x11 1 ≤ 64 && f 0x11 1 % 8 == 0 &&
  f 0x14 4 ≤ 2 ^ 21 && f 0x14 4 % 65536 == 0 && f 0x20 4 ≤ f 0x14 4 && f 0x24 1 ≤ 16 && f 0x25 1 ≤ 64

/-- The entries of a descriptor are well formed. -/
def descEntriesOk (bs : List Byte) (vregs nrec nshare : Nat) : Bool :=
  let recs := descRecs bs nrec
  let shares := descShares bs (20 * nrec) nshare
  (List.range nrec).all (fun i => zeroAt bs (20 * i + 1) 3) && recs.all (fun r => r.1 ≤ 15) &&
  allDistinct (fun a b => a.1 == b.1) recs &&
  (List.range nshare).all (fun i => bytesNat bs (20 * nrec + 4 * i) 4 < 2 ^ 18) &&
  shares.all (fun e => e.1 + e.2.1 ≤ vregs) && allDistinct sharesMeet shares

/-- The windows of PWTAB: one that is misaligned or too large is unbound (R386). -/
def windowsOf (bs : List Byte) : List (Nat × Nat) :=
  (List.range 4).map fun i =>
    let base := bytesNat bs (16 * i) 8
    let size := bytesNat bs (16 * i + 8) 4
    if base % 64 != 0 || 65536 < size then (base % 2 ^ 48, 0) else (base % 2 ^ 48, size)

/-- What a LAUNCH packet asks for, or the error that halts its queue. Of ENTRY, bits 47 to 1 are the start PC: R54 and R382 name
no fate for the others, and bit 0 of a PC is always 0 (R23). Of the 8 bytes of KDESC, PWTAB and SIMG, bits 47 to 0 are the
device address, and no fate is named for the others either: they are cut (DEDUCED, log 52). -/
def State.readLaunch (s : State) (q addr : Nat) (p : List Byte) : State × Except Nat LaunchReq :=
  let asid : Byte := BitVec.ofNat 8 (bytesNat p 0x38 1)
  let target := BitVec.ofNat 64 (bytesNat p 0x20 8)
  let kdesc := bytesNat p 0x18 8
  let pwtab := bytesNat p 0x28 8
  if !s.targetOk target then (s, .error errBadLaunch)
  else
    match s.feRead asid kdesc 64 with
    | (s, none) => (s, .error errPf)
    | (s, some h) =>
      if !descHeadOk h then (s, .error errBadLaunch)
      else
        let f (off n : Nat) : Nat := bytesNat h off n
        let nrec := f 0x24 1
        let nshare := f 0x25 1
        match s.feRead asid (kdesc + 64) (20 * nrec + 4 * nshare) with
        | (s, none) => (s, .error errPf)
        | (s, some bs) =>
          if !descEntriesOk bs (f 0x11 1) nrec nshare then (s, .error errBadLaunch)
          else
            match (if pwtab = 0 then (s, some (zeros 64)) else s.feRead asid pwtab 64) with
            | (s, none) => (s, .error errPf)
            | (s, some w) =>
              (s, .ok { asid := asid, entry := BitVec.ofNat 48 (f 8 8) &&& ~~~1, gangs := f 0x10 1, vregs := f 0x11 1, sram := f 0x14 4,
                        simg := f 0x18 8 % 2 ^ 48, simglen := f 0x20 4, recs := descRecs bs nrec,
                        shares := descShares bs (20 * nrec) nshare, wins := windowsOf w, targets := targetCores target,
                        phases := bytesNat p 0x30 8 % 2 ^ 48, nphase := bytesNat p 0x39 1, pkt := addr,
                        sig := pktSig q addr (s.queue q).asid p })

/-! ### What admission needs (R385) -/

/-- Region `i` of a core is neither owned by a crew nor withheld for streams. -/
def State.regionFree (s : State) (c i : Nat) : Bool :=
  !((s.core c).crews.any fun p => p.2.pin < (i + 1) * 65536 && i * 65536 < p.2.pin + p.2.sram) &&
    !bit (sgetD s.fe.withheld c 0) i

/-- The lowest place of a pinned region of `n` regions. -/
def State.pinPlace (s : State) (c n : Nat) : Option Nat :=
  (List.range 33).find? fun i => i + n ≤ 32 && (List.range n).all fun j => s.regionFree c (i + j)

/-- The contexts of a core that hold a gang. -/
def Core.ctxUsed (k : Core) : Nat := (k.gangs.filter fun p => p.1 < 64).length

/-- A core can take the crew of a launch. -/
def State.crewFits (s : State) (r : LaunchReq) (c : Nat) : Bool :=
  let k := s.core c
  (sfree k.crews 4 0).isSome && k.ctxUsed + r.gangs ≤ 16 && r.vregs / 8 * r.gangs ≤ k.poolFree &&
    (s.pinPlace c (r.sram / 65536)).isSome

/-- A free firmware entry of a die. -/
def State.kioskFree (s : State) (die : Nat) : Option Nat :=
  (List.range 64).find? fun i => !bit (sgetD (s.die die).objs i 0) 0

/-- The next stamp does not lie 2^23 or more after the oldest live launch (R108). -/
def State.stampOk (s : State) : Bool := s.fe.launches.all fun p => (s.fe.stamp - p.2.stamp).toNat < 2 ^ 23

/-- A stream's launch is a start of its queue (R395): while the queue has a packet that could start, it comes when it is the
queue's turn, so that the bound of R396 holds. A LAUNCH packet has had its turn. -/
def State.launchTurn (s : State) (w : Waiting) : Bool :=
  w.stream.isNone || !s.canStart w.queue || s.pickQueue == some w.queue

/-- Everything that a launch needs is free. -/
def State.fits (s : State) (w : Waiting) : Bool :=
  let x := s.queue w.queue
  s.launchTurn w && x.st == 1 && x.tickets != 0 && (sfree s.fe.launches 256 0).isSome && s.stampOk &&
    (s.kioskFree (dieOf (w.req.targets.headD 0))).isSome && w.req.targets.all (s.crewFits w.req)

/-- Two target sets meet. -/
def overlaps (a b : LaunchReq) : Bool := a.targets.any fun c => b.targets.contains c

/-- The first of the waiting launches, oldest first, that fits and is not held back by a senior one. -/
def State.firstFit (s : State) : List Waiting → List Waiting → Option Waiting
  | _, [] => none
  | older, w :: rest =>
    if s.fits w && !(older.any fun o => o.senior && overlaps o.req w.req) then some w
    else s.firstFit (older ++ [w]) rest

/-- The launch that admission would take. -/
def State.admissible (s : State) : Option Waiting :=
  if s.fe.failover then none else s.firstFit [] s.fe.waiting

/-! ### Admission (R385, R54, R61) -/

/-- A gang at the start of a kernel. -/
def startGang (r : LaunchReq) : Gang :=
  { pcs := Vector.replicate 8 r.entry, valloc := r.vregs, pre := r.shares
    recs := r.recs.foldl (fun v p => vput v p.1 p.2) (Vector.replicate 16 0) }

/-- Place the crew of a launch on a core. -/
def State.placeCrew (s : State) (r : LaunchReq) (slot prio : Nat) (kiosk : W) (stream : Option Nat) (c : Nat) : State :=
  let k := s.core c
  let q := (sfree k.crews 4 0).getD 0
  let pin := (s.pinPlace c (r.sram / 65536)).getD 0 * 65536
  let win (i : Nat) : Nat × Nat :=
    let w := r.wins.getD i (0, 0)
    if i = 0 && stream.isSome then (w.1, max w.2 4) else w
  let w : Crew := { launch := s.fe.stamp ++ BitVec.ofNat 8 slot, asid := r.asid, prio := prio, pin := pin, sram := r.sram,
                    gangs := r.gangs, vregs := r.vregs, wins := Vector.ofFn fun i : Fin 4 => win i.val,
                    stream := stream.map (BitVec.ofNat 32), kiosk := kiosk }
  let s := s.modCore c fun k =>
    { k with crews := sput k.crews q w, poolFree := k.poolFree - r.vregs / 8 * r.gangs
             gangs := (List.range r.gangs).foldl (fun g i => sput g (q * 16 + i) (startGang r)) k.gangs }
  if r.sram = 0 then s else s.openRegions c pin r.sram false (BitVec.ofNat 8 slot)

/-- Load the image into the pinned region of the crew that a launch has on a core. -/
def State.loadImage (s : State) (launch : BitVec 32) (src : List (Nat × Nat)) (c : Nat) : State :=
  match (s.core c).crews.find? fun p => p.2.launch == launch with
  | none => s
  | some (_, w) => s.moveRuns src [(sramKey (c * 2 ^ 21 + w.pin), (src.map (·.2)).sum)]

/-- Firmware's entry of a kiosk (R289, R385). -/
def kioskEntry (slot home : Nat) (asid : Byte) : BitVec 128 :=
  BitVec.ofNat 128 (1 + slot * 2 ^ 8 + 31 * 2 ^ 16 + home * 2 ^ 21 + asid.toNat * 2 ^ 120)

/-- Take everything for a waiting launch in one step, and journal the admission with what else it changes (R399). -/
def State.takeLaunch (s : State) (w : Waiting) (src : List (Nat × Nat)) : State :=
  let r := w.req
  let slot := (sfree s.fe.launches 256 0).getD 0
  let low := r.targets.headD 0
  let die := dieOf low
  let ki := (s.kioskFree die).getD 0
  let kiosk : W := BitVec.ofNat 32 (die * 4096 + ki)
  let x := s.queue w.queue
  let l : Launch := { stamp := s.fe.stamp, asid := r.asid, queue := w.queue, num := x.num, sig := r.sig, cores := r.targets,
                      kiosk := kiosk, nphase := r.nphase, phases := r.phases, stream := w.stream }
  let id := s.fe.stamp ++ BitVec.ofNat 8 slot
  let s := s.modDie die fun d => { d with objs := sput d.objs ki (kioskEntry slot (low % 64) r.asid) }
  let s := r.targets.foldl (fun (s : State) c => s.placeCrew r slot x.prio kiosk w.stream c) s
  let s := r.targets.foldl (fun (s : State) c => s.loadImage id src c) s
  let s := { s with fe := { s.fe with launches := sput s.fe.launches slot l, stamp := s.fe.stamp + 1,
                                      waiting := s.fe.waiting.filter fun y => y != w } }
  let s := s.journal
  match w.stream with
  | none => s.startHead w.queue none none
  | some id =>
    let s := s.modQueue w.queue fun x => x.stride
    { s with fe := { s.fe with streams := smod s.fe.streams id fun t => { t with flight := some slot } } }.journal

/-- Drop a waiting launch of a stream. -/
def State.dropWaiting (s : State) (w : Waiting) : State :=
  { s with fe := { s.fe with waiting := s.fe.waiting.filter fun y => y != w } }

/-- Drop every waiting launch of a stream. -/
def State.withdraw (s : State) (id : Nat) : State :=
  { s with fe := { s.fe with waiting := s.fe.waiting.filter fun y => y.stream != some id } }

/-! ### Stream contexts (R390, R391) -/

/-- The stream context `id`; none while it is FREE. -/
def State.stream? (s : State) (id : Nat) : Option Stream := (sget s.fe.streams id).filter fun t => t.st != .free
def State.putStream (s : State) (id : Nat) (t : Stream) : State :=
  { s with fe := { s.fe with streams := sput s.fe.streams id t } }.journal

/-- A context becomes FREE: what was in progress goes, and the fields stay for the device kernel to read (R390). -/
def Stream.freed (t : Stream) : Stream :=
  { t with st := .free, flight := none, evict := false, copying := false, pend := false, touched := false, held := false,
           closing := none }
def State.freeStream (s : State) (id : Nat) : State :=
  { s with fe := { s.fe with streams := smod s.fe.streams id Stream.freed } }.journal

/-- Write the status word of a STREAM packet, and complete it. -/
def State.endStream (s : State) (c : Closing) (status : Nat) : State :=
  if c.status = 0 then s.completePkt c.queue c.num c.sig
  else
    match s.feWrite c.asid c.status (leBytes 8 status) with
    | some s => s.completePkt c.queue c.num c.sig
    | none => (s.modQueue c.queue fun x => x.retire c.num).haltQueue c.queue errPf (some c.pkt)

/-- A CLOSE that waited takes effect: no launch of the stream is waiting or in flight any more. -/
def State.closeStream (s : State) (id : Nat) : State :=
  match (s.stream? id).bind (·.closing) with
  | some c => (s.freeStream id).endStream c 0
  | none => s

/-- Admit a launch: the pages of the image are translated first, and a failure halts the queue with nothing taken. A stream's
launch is dropped then, and a CLOSE that waited for it takes effect. -/
def State.admitLaunch (s : State) (w : Waiting) : State :=
  match s.feRuns w.req.asid .load (w.req.simglen / 65536 + 2) w.req.simg w.req.simglen with
  | (s, none) =>
    let s := (s.dropWaiting w).haltQueue w.queue errPf (some w.req.pkt)
    match w.stream with
    | some id => s.closeStream id
    | none => s
  | (s, some src) => s.takeLaunch w src

/-- LAUNCH_ADMISSION: admission runs again. -/
def execLaunchAdmission (q : Nat) (s : State) : Host.Outcome State Fault Refusal :=
  match s.admissible with
  | none => .next s
  | some w => if w.queue = q then .next (s.refresh.admitLaunch w).refresh else .next s

/-- PACKET_LAUNCH: selection reads the packet and tries admission. -/
def execPacketLaunch (q : Nat) (s : State) : Host.Outcome State Fault Refusal :=
  match s.takeHead q 1 with
  | (s, none) => .next s.refresh
  | (s, some (a, bs)) =>
    match s.readLaunch q a bs with
    | (s, .error e) => .next (s.haltQueue q e (some a)).refresh
    | (s, .ok r) =>
      let w : Waiting := { queue := q, since := s.clock, req := r }
      let s := s.modQueue q fun x => { x with head := some bs }
      let s := { s with fe := { s.fe with waiting := s.fe.waiting ++ [w] } }
      .next (if s.admissible == some w then s.admitLaunch w else s).refresh

/-- 1 ms in cycles (R385). -/
def seniorAfter : Nat := 800000

/-- LAUNCH_SENIOR. -/
def execLaunchSenior (q : Nat) (s : State) : Host.Outcome State Fault Refusal :=
  .next { s with fe := { s.fe with waiting := s.fe.waiting.map fun w =>
    if w.queue = q && w.since + seniorAfter ≤ s.clock then { w with senior := true } else w } }

/-! ### The shares of a new crew (R54, R110) -/

/-- The first pending binding of a gang takes effect as `rshare` does; a refusal faults E_RES. After that fault the binding is
still pending, and is tried again before the first instruction (log 49). -/
def State.startShare (s : State) (c x : Nat) : State :=
  match (s.gang c x).pre with
  | [] => s
  | (first, count, id) :: rest =>
    let bound (s : State) : State := (s.bindShare c x id first count).modGang c x fun g => { g with pre := rest }
    match sget (s.crew c (crewSlot x)).shares id with
    | some h =>
      if h.regs.length = count then bound (s.modCore c fun k => k.dropPool x)
      else s.takeFault c x eRes 0 (BitVec.ofNat 32 first) 0 0
    | none =>
      match s.askPool c x ((count + 7) / 8) true with
      | (s, none) => s
      | (s, some true) => bound (s.makeShare c x id count)
      | (s, some false) => s.takeFault c x eRes 0 (BitVec.ofNat 32 first) 0 0

end Sys2Proof.Machine
end

