-- ==== Sys2Proof/Machine/Streams.lean ====
section
/-! DEFINITION. Sys2Proof/Machine/Streams.lean: stream contexts (R390 to R394), and the end of a launch (R20). -/

namespace Sys2Proof.Machine

/-! ### Pins (R391, R393) -/

/-- The pinned range of a stream. -/
def Stream.pinSize (t : Stream) : Nat := t.pinLen * 1024

/-- A context that pins its range: ACTIVE, SILENT or RESTORING. -/
def Stream.pins (t : Stream) : Bool := t.st == .active || t.st == .silent || t.st == .restoring

/-- PINUSED. -/
def State.pinUsed (s : State) : Nat := ((s.fe.streams.filter fun p => p.2.pins).map (·.2.pinSize)).sum

/-- Two ranges of bytes meet; an empty one meets none. -/
def rangesMeet (a n b m : Nat) : Bool := 0 < n && 0 < m && a < b + m && b < a + n

/-- Every region that a pinned range meets, and in any case that of PINADDR, is withheld from admission. -/
def State.pinWithheld (s : State) (a n : Nat) : Bool :=
  (List.range 32).all fun i => !rangesMeet a (max n 1) (a / 2 ^ 21 * 2 ^ 21 + i * 65536) 65536 ||
    bit (sgetD s.fe.withheld (a / 2 ^ 21) 0) i

/-! ### A stream launch (R392) -/

/-- A launch of a stream is waiting or in flight. -/
def State.inFlight? (s : State) (id : Nat) : Bool :=
  s.fe.waiting.any (fun w => w.stream == some id) || ((s.stream? id).bind (·.flight)).isSome

/-- Launch a stream from its template, as a packet of its queue. -/
def State.streamLaunch (s : State) (id : Nat) : State :=
  match s.stream? id with
  | none => s
  | some t =>
    let q := t.queue
    match s.feRead (s.queue q).asid t.tmpl 64 with
    | (s, none) => s.haltQueue q errPf (some t.tmpl)
    | (s, some bs) =>
      if !s.pktOk bs || bytesNat bs 0 1 != 1 then s.haltQueue q errBadPkt (some t.tmpl)
      else
        match s.readLaunch q t.tmpl bs with
        | (s, .error e) => s.haltQueue q e (some t.tmpl)
        | (s, .ok r) =>
          let w : Waiting := { queue := q, stream := some id, since := s.clock, req := r }
          let s := { s with fe := { s.fe with waiting := s.fe.waiting ++ [w] } }
          if s.admissible == some w then s.admitLaunch w else s

/-! ### STREAM packets (R391) -/

/-- Statuses of a STREAM packet. -/
def stDone : Nat := 0
def stNoSpace : Nat := 1
def stNoPin : Nat := 2
def stBadState : Nat := 3
def stBadDesc : Nat := 4

/-- A stream descriptor (R390), or none where it is bad. R390 and R391 name no fate for reserved bytes that are not 0: they are
ignored (R3, log 44). -/
def streamDesc (bs : List Byte) (next : Nat) (asid : Byte) : Option Stream :=
  let f (off n : Nat) : Nat := bytesNat bs off n
  let a := f 8 4
  let n := f 0xc 2 * 1024
  if a % 1024 = 0 && f 0xc 2 ≤ 64 && a % 2 ^ 21 + n ≤ 2 ^ 21 && a / 2 ^ 27 < 24 && 1 ≤ f 0xe 1 && f 0xe 1 ≤ 15 &&
      10000 ≤ f 0x18 4 then
    some { st := .active, tmpl := f 0 8 % 2 ^ 48, pinAddr := a, pinLen := f 0xc 2, silentMax := f 0xe 1, queue := f 0xf 1,
           slot := BitVec.ofNat 32 (f 0x10 4), kvseq := BitVec.ofNat 32 (f 0x14 4), period := f 0x18 4, next := next,
           asid := asid }
  else none

/-- OPEN of a FREE context with a descriptor: the status, and the state. LATE and OVERRUN go on from what they were (log 44). -/
def State.openStream (s : State) (id : Nat) (bs : List Byte) (next : Nat) (asid : Byte) : State × Nat :=
  match streamDesc bs next asid with
  | none => (s, stBadDesc)
  | some t =>
    let n := t.pinSize
    if s.fe.pinBudget < s.pinUsed + n then (s, stNoPin)
    else if s.fe.streams.any (fun p => p.2.pins && rangesMeet t.pinAddr n p.2.pinAddr p.2.pinSize) then (s, stNoPin)
    else if !s.pinWithheld t.pinAddr n then (s, stNoPin)
    else
      let old := sgetD s.fe.streams id {}
      (s.putStream id { t with late := old.late, overrun := old.overrun }, stDone)

/-- TOUCH: it sets ACT, and starts a restore of an evicted stream, or of one that is being evicted behind the eviction (R394). -/
def State.touchStream (s : State) (id : Nat) : State × Nat :=
  match s.stream? id with
  | none => (s, stBadState)
  | some t => (s.putStream id { t with act := true, touched := t.evict, st := if t.st = .evicted then .restoring else t.st }, stDone)

/-- The start of a STREAM packet of a kind, with what it needs to end. -/
def State.startStream (s : State) (q op : Nat) : State × Option (Closing × List Byte) :=
  match s.takeHead q (7 + 16 * op) with
  | (s, none) => (s, none)
  | (s, some (a, bs)) =>
    let x := s.queue q
    let c : Closing := { queue := q, num := x.num, pkt := a, status := bytesNat bs 0x30 8 % 2 ^ 48, asid := x.asid,
                         sig := pktSig q a x.asid bs }
    (s, some (c, bs))

/-- STREAM_OPEN. -/
def execStreamOpen (q : Nat) (s : State) : Host.Outcome State Fault Refusal :=
  match s.startStream q 0 with
  | (s, none) => .next s.refresh
  | (s, some (c, bs)) =>
    let id := bytesNat bs 0x1c 4
    match s.feRead c.asid (bytesNat bs 0x20 8) 64 with
    | (s, none) => .next (s.haltQueue q errPf (some c.pkt)).refresh
    | (s, some d) =>
      let s := s.startHead q none none
      let (s, st) := if (s.stream? id).isSome then (s, stNoSpace) else s.openStream id d (bytesNat bs 0x28 8) c.asid
      .next (s.endStream c st).refresh

/-- STREAM_TOUCH. -/
def execStreamTouch (q : Nat) (s : State) : Host.Outcome State Fault Refusal :=
  match s.startStream q 1 with
  | (s, none) => .next s.refresh
  | (s, some (c, bs)) =>
    let (s, st) := (s.startHead q none none).touchStream (bytesNat bs 0x1c 4)
    .next (s.endStream c st).refresh

/-- STREAM_RETIME. -/
def execStreamRetime (q : Nat) (s : State) : Host.Outcome State Fault Refusal :=
  match s.startStream q 2 with
  | (s, none) => .next s.refresh
  | (s, some (c, bs)) =>
    let id := bytesNat bs 0x1c 4
    let s := s.startHead q none none
    match s.stream? id with
    | none => .next (s.endStream c stBadState).refresh
    | some t => .next ((s.putStream id { t with next := bytesNat bs 0x28 8 }).endStream c stDone).refresh

/-- STREAM_CLOSE: the context is FREE once the launch in flight has ended. That of an evicted stream is FREE at once (R394): a
launch that waits for admission is withdrawn with it, and one in flight goes on (log 44). -/
def execStreamClose (q : Nat) (s : State) : Host.Outcome State Fault Refusal :=
  match s.startStream q 3 with
  | (s, none) => .next s.refresh
  | (s, some (c, bs)) =>
    let id := bytesNat bs 0x1c 4
    let s := s.startHead q none none
    match s.stream? id with
    | none => .next (s.endStream c stBadState).refresh
    | some t =>
      if t.closing.isSome then .next (s.endStream c stBadState).refresh
      else if t.st = .evicted then .next ((s.withdraw id).freeStream id |>.endStream c stDone).refresh
      else if s.inFlight? id then .next (s.putStream id { t with closing := some c }).refresh
      else .next ((s.freeStream id).endStream c stDone).refresh

/-- TOUCH_REGISTER_WRITE. -/
def execTouchRegisterWrite (v : W) (s : State) : Host.Outcome State Fault Refusal :=
  if 16384 ≤ v.toNat then .next s else .next ((s.kick (256 + v.toNat)).touchStream v.toNat).1

/-! ### Due times (R392, R394) -/

/-- NEXT after a due time, and how many periods were missed. -/
def nextDue (next period now : Nat) : Nat × Nat :=
  let n := next + period
  if now < n then (n, 0) else let k := (now - n) / period + 1; (n + k * period, k)

/-- A due time of a context that launches: `act` clears, and the launch leaves now or when the one in flight has
ended. -/
def State.dueLaunch (s : State) (id : Nat) (t : Stream) : State :=
  let t := { t with act := false, silent := 0, st := .active }
  if s.inFlight? id then s.putStream id { t with overrun := t.overrun + 1, pend := true }
  else (s.putStream id t).streamLaunch id

/-- STREAM_DUE: device time has reached NEXT, behind the packets of that cycle (R394). During a take-over the due time is held;
it counts as late when it acts more than 1 µs after NEXT. An eviction in progress changes nothing (R392). -/
def execStreamDue (id : Nat) (s : State) : Host.Outcome State Fault Refusal :=
  match s.stream? id with
  | none => .next s
  | some t =>
    let now := s.ns
    if now < t.next then .next s
    else if s.fe.failover then .next (s.putStream id { t with held := true })
    else
      let (next, missed) := nextDue t.next t.period now
      let launches := t.st != .evicted && t.st != .restoring && t.act
      let late : W := t.late + BitVec.ofNat 32 missed + (if launches && t.held && t.next + 1000 < now then 1 else 0)
      let u := { t with next := next, late := late, held := false }
      .next (if t.st = .restoring then s.putStream id { u with pend := true }
        else if t.st = .evicted then s.putStream id u
        else if t.act then s.dueLaunch id u
        else
          let n := min (t.silent + 1) 15
          s.putStream id { u with silent := n, st := .silent, evict := t.evict || n == t.silentMax }).refresh

/-! ### Eviction and restore (R393) -/

/-- The area of an evicted stream. -/
def State.evictKey (s : State) (id : Nat) : Nat := hbmKey (s.fe.evictBase + 65536 * id)

/-- STREAM_EVICT_DONE: the pinned bytes have been copied out. A touch that came meanwhile starts the restore. -/
def execStreamEvictDone (id : Nat) (s : State) : Host.Outcome State Fault Refusal :=
  match s.stream? id with
  | none => .next s
  | some t =>
    if !t.evict then .next s
    else
      let s := s.moveRuns [(sramKey t.pinAddr, t.pinSize)] [(s.evictKey id, t.pinSize)]
      .next (s.putStream id { t with evict := false, touched := false, st := if t.act || t.touched then .restoring else .evicted })

/-- PINADDR is free of the other streams that are not evicted, and the budget admits the pin. -/
def State.restoreFits (s : State) (id : Nat) (t : Stream) : Bool :=
  let others := s.fe.streams.filter fun p => p.1 != id && p.2.pins
  others.all (fun p => !rangesMeet t.pinAddr t.pinSize p.2.pinAddr p.2.pinSize) &&
    (others.map (·.2.pinSize)).sum + t.pinSize ≤ s.fe.pinBudget

/-- STREAM_RESTORE_START. -/
def execStreamRestoreStart (id : Nat) (s : State) : Host.Outcome State Fault Refusal :=
  match s.stream? id with
  | none => .next s
  | some t =>
    if t.st = .restoring && !t.copying && s.restoreFits id t then .next (s.putStream id { t with copying := true })
    else .next s

/-- STREAM_RESTORE_DONE: the bytes are back; a due time that fell meanwhile launches. -/
def execStreamRestoreDone (id : Nat) (s : State) : Host.Outcome State Fault Refusal :=
  match s.stream? id with
  | none => .next s
  | some t =>
    if !t.copying then .next s
    else
      let s := s.moveRuns [(s.evictKey id, t.pinSize)] [(sramKey t.pinAddr, t.pinSize)]
      let t := { t with copying := false, st := .active, pend := false }
      .next (if (s.stream? id).any (·.pend) then s.dueLaunch id t else s.putStream id t).refresh

/-! ### The end of a launch (R20, R331, R392) -/

/-- The flight of a stream's launch, in a slot, has ended: a CLOSE frees the context, else a launch that waits for it leaves. A
context that has been closed or opened again meanwhile is not concerned. -/
def State.endFlight (s : State) (id slot : Nat) : State :=
  match (s.stream? id).filter fun t => t.flight == some slot with
  | none => s
  | some t =>
    match t.closing with
    | some _ => s.closeStream id
    | none =>
      let ready := t.pend && t.st != .evicted && t.st != .restoring
      let s := s.putStream id { t with flight := none, pend := t.pend && !ready }
      if ready then s.streamLaunch id else s

/-- A launch of a stream that waited for one before it leaves, once that one has been dropped. -/
def streamGo (id : Nat) (s : State) : State :=
  match s.stream? id with
  | none => s
  | some t =>
    if t.pend && !s.inFlight? id && t.closing.isNone && (t.st == .active || t.st == .silent) then
      ((s.putStream id { t with pend := false }).streamLaunch id).refresh
    else s

/-- Every crew of a launch is gone. -/
def State.launchOver (s : State) (slot : Nat) (l : Launch) : Bool :=
  let id : BitVec 32 := l.stamp ++ BitVec.ofNat 8 slot
  l.cores.all fun c => !(s.core c).crews.any fun p => p.2.launch == id

/-- Crews of a launch that are over and have nothing in progress are gone. -/
def State.sweepLaunch (s : State) (slot : Nat) (l : Launch) : State :=
  let id : BitVec 32 := l.stamp ++ BitVec.ofNat 8 slot
  l.cores.foldl (fun (s : State) c =>
    ((s.core c).crews.filter fun p => p.2.launch == id).foldl (fun (s : State) p => s.crewSweep c p.1) s) s

/-- The completions that the end of a launch brings: its own, and that of a CLOSE which waits for it. -/
def State.endsWith (s : State) (slot : Nat) (l : Launch) : Nat :=
  match l.stream.bind s.stream? with
  | some t => if t.flight == some slot && t.closing.isSome then 2 else 1
  | none => 1

/-- LAUNCH_COMPLETE: its crews that are over are gone, and with the last of them the launch ends; its barriers, kiosk,
parameter lines and slot are free, the end is journalled, and its signal is updated. -/
def execLaunchComplete (slot : Nat) (s : State) : Host.Outcome State Fault Refusal :=
  match sget s.fe.launches slot with
  | none => .next s
  | some l =>
    let s := s.sweepLaunch slot l
    if !s.launchOver slot l || s.holdShort (s.endsWith slot l) then .next s
    else
      let id : BitVec 32 := l.stamp ++ BitVec.ofNat 8 slot
      let s := { s with barriers := s.barriers.filter fun p => p.2.owner != id
                        fe := { s.fe with launches := sdel s.fe.launches slot } }
      let s := s.modDie (l.kiosk.toNat / 4096) fun d => { d with objs := sdel d.objs (l.kiosk.toNat % 4096) }
      let s := l.cores.foldl (fun (s : State) c => s.modCore c fun k =>
        { k with pcache := k.pcache.filter fun p => p.launch != BitVec.ofNat 8 slot }) s
      let s := s.journal
      match l.stream with
      | none => .next (s.refresh.completePkt l.queue l.num l.sig).refresh
      | some sid => .next ((s.deliverSig l.sig).endFlight sid slot).refresh

end Sys2Proof.Machine
end

