-- ==== Sys2Proof/Machine/Crews.lean ====
section
/-! DEFINITION. Sys2Proof/Machine/Crews.lean: the crew commands of a hart (R404, R405) and pre-emption (R80, R406, R407). -/

namespace Sys2Proof.Machine

/-! ### Commands (R404) -/

/-- The crew slots that a command names. -/
def cmdSlots (t : CCmd) : List Nat := (List.range 4).filter fun q => bit t.crews q

/-- BADCMD of any crew command: reserved bytes, a core that does not exist, an unusable DONE, or a slot not in use. Bits
[7:4] of CREWS, which R404 gives the value 0 and no fate by name, are ignored, as R3 says of reserved bits (DEDUCED, log 57). -/
def State.ccmdBad (s : State) (t : CCmd) : Bool :=
  t.resv || !gidOk t.core || (t.done != 0 && !hbmUsable t.done.toNat) ||
    (cmdSlots t).any fun q => (s.crew? (coreOf t.core.toNat) q).isNone

/-- A SAVEBASE that can be used for the crews of a command. -/
def saveBaseOk (a : BitVec 64) : Bool := a.toNat < 2 ^ 48 && a.toNat % 65536 == 0 && hbmUsable a.toNat

/-- The area of the i-th crew of a command (log 20). -/
def saveArea (base i : Nat) : Nat := if i = 0 then base else base + Config.saveOffset i

/-- Take a crew command from a die's queue: a full queue discards it and sets CQERR. -/
def crewCommand (die : Nat) (s : State) (act : State → State) : Host.Outcome State Fault Refusal :=
  if 32 ≤ (s.die die).cqUsed then .next (s.modDie die fun d => { d with cqErr := true }) else .next (act s)

/-- End a command with a status. -/
def State.endCrewCmd (s : State) (t : CCmd) (status : Nat) : State := s.doneWord t.done.toNat t.tag status

/-! ### SAVE (R406) -/

/-- SAVE: the gangs of the named crews issue no more; the area is written with SAVE_COMPLETE. -/
def execSave (die : Nat) (t : CCmd) (s : State) : Host.Outcome State Fault Refusal :=
  crewCommand die s fun s =>
    let c := coreOf t.core.toNat
    if s.ccmdBad t || !saveBaseOk t.addr || (cmdSlots t).any (fun q => (s.crew c q).allEnded) then s.endCrewCmd t 1
    else if (cmdSlots t).any fun q => (s.crew c q).saved.isSome || (s.crew c q).saving.isSome then s.endCrewCmd t 4
    else if (cmdSlots t).isEmpty then s.endCrewCmd t 0
    else
      let n := (cmdSlots t).length
      let s := ((cmdSlots t).zip (List.range n)).foldl (fun (s : State) p => s.modCrew c p.1 fun w =>
        { w with saving := some { base := saveArea t.addr.toNat p.2, die := die,
                                  done := if p.2 + 1 = n then some (t.done.toNat, t.tag) else none } }) s
      s.modDie die fun d => { d with cqUsed := d.cqUsed + 1 }

/-- The bindings of the ended gangs of a crew go with the share storage that a SAVE frees (R406): their producers, which hold
their contexts, complete where they were issued. -/
def State.dropEndedBinds (s : State) (c q : Nat) : State :=
  let drop (p : Nat × Gang) : Nat × Gang :=
    if p.1 < 64 && crewSlot p.1 == q && p.2.ended then (p.1, { p.2 with binds := [] }) else p
  s.modCore c fun k => { k with gangs := k.gangs.map drop }

/-- The gangs of a crew that have not ended, by context. -/
def State.crewGangs (s : State) (c q : Nat) : List (Nat × Gang) :=
  (s.core c).gangs.filter fun p => p.1 < 64 && crewSlot p.1 == q && !p.2.ended

/-- The lookups that gangs of a crew wait for end, in success or in a page fault. -/
def State.endLookups (s : State) (c q : Nat) : State :=
  (s.crewGangs c q).foldl (fun (s : State) p =>
    match (s.gang c p.1).look with
    | some what => s.endLookup c p.1 what false
    | none => s) s

/-- Blocks of share storage of a crew. -/
def Crew.shareBlocks (w : Crew) : Nat := (w.shares.map fun p => (p.2.regs.length + 7) / 8).sum

/-- The bindings of a gang beyond the first one of each id, which SHAREF names. -/
def moreBinds (seen : List Nat) : List Bind → List Bind
  | [] => []
  | b :: r => if seen.contains b.id then b :: moreBinds seen r else moreBinds (b.id :: seen) r

/-- The value that a varying or uniform register shows, by bank and operand code. -/
def Gang.shows (g : Gang) (bank dest : Nat) : Val :=
  if bank = 0 then .v (vget g.v dest {}).val (vget g.v dest {}).tag else .s (g.sreg (dest - 64)).val

/-- What is kept of a gang beside its entry. -/
def Gang.keep (g : Gang) : SavedGang :=
  { halt := g.halt, pf := g.pf, active := g.active, run := g.run, pre := g.pre, pend := g.window.map (·.old.isSome)
    held := g.groups.filterMap fun q => q.held.map fun w => (q.slices, w)
    shown := g.unbanked.map fun p => (p.1, p.2.1, g.shows p.1 p.2.1), more := moreBinds [] g.binds }

/-- Write the area of a crew, with the verdicts that its parked groups have not taken up, and free its contexts and blocks. -/
def State.saveCrew (s : State) (c q base : Nat) : State :=
  let s := s.endLookups c q
  let gs := s.crewGangs c q
  let w := s.crew c q
  let s := gs.foldl (fun (t : State) p =>
    (gangPieces s c p.1 p.2).foldl (fun (t : State) e => t.putArea (gangKey base (p.1 % 16) + e.1) e.2) t) s
  let s := (crewPieces w q gs.length).foldl (fun (s : State) p => s.putArea (crewKey base + p.1) p.2) s
  let s := gs.foldl (fun (s : State) p => (s.freeSlot c p.1).modCore c fun k =>
    { k.dropPool p.1 with gangs := sdel k.gangs p.1, sfuQ := k.sfuQ.filter (fun y => y != p.1)
                          chosen := k.chosen.filter fun y => y != p.1 }) s
  let s := (s.fins.filter fun p => p.2.core == c && p.2.place == 4 && crewSlot p.2.ctx == q).foldl
    (fun (s : State) p => s.recordVerdict (gangKey base (p.2.ctx % 16)) p.1 p.2) s
  ((s.modCore c fun k => { k with poolFree := k.poolFree + (gs.map fun p => p.2.valloc / 8).sum + w.shareBlocks }).modCrew c q
    (fun w => { w with saved := some base, saving := none, shares := [], sns := w.shares.map fun p => (p.1, p.2.sn)
                       kept := gs.map fun p => (p.1 % 16, p.2.keep) })).dropEndedBinds c q

/-- SAVE_COMPLETE: the crews of a core that are being saved are written out, and DONE is written. -/
def execSaveComplete (core : Nat) (s : State) : Host.Outcome State Fault Refusal :=
  .next ((s.core core).crews.foldl (fun (s : State) p =>
    match p.2.saving with
    | none => s
    | some sv =>
      let s := if p.2.allEnded then (s.modCrew core p.1 fun w => { w with saving := none }).crewSweep core p.1
        else s.saveCrew core p.1 sv.base
      match sv.done with
      | none => s
      | some (a, tag) => (s.doneWord a tag 0).modDie sv.die fun d => { d with cqUsed := d.cqUsed - 1 }) s)

/-! ### RESTORE (R407) -/

/-- The gangs that a saved crew still has, by index. -/
def Crew.savedIdx (w : Crew) : List Nat := (w.kept.map (·.1)).filter fun g => !bit w.ended g

/-- The area of a saved crew is well formed. -/
def State.areaOk (s : State) (c q base : Nat) : Bool :=
  let w := s.crew c q
  s.crewPartOk (crewKey base) w q w.kept.length && w.savedIdx.all fun g => s.gangEntryOk (gangKey base g)

/-- The gangs in an area. -/
def State.areaGangs (s : State) (c q base : Nat) : List (Nat × Gang) :=
  let w := s.crew c q
  w.savedIdx.map fun g =>
    let kept := sgetD w.kept g {}
    let y := s.readGang (gangKey base g) (crewKey base) kept w.sns
    (q * 16 + g, { y with binds := y.binds ++ kept.more.filter fun b => y.binds.any fun e => e.id == b.id })

/-- The shares in an area that its gangs bind. -/
def State.areaShares (s : State) (base : Nat) (gs : List (Nat × Gang)) (sns : Store Nat) : Store Share :=
  (s.readShares (crewKey base) (fun i => (gs.filter fun p => p.2.binds.any fun b => b.id == i).length) sns).filter fun p =>
    p.2.bound != 0

/-- Blocks that requests of older launches wait for come first (R107). -/
def State.olderBlocks (s : State) (c q : Nat) : Nat :=
  (((s.core c).poolQ.filter fun r => r.ans.isNone && olderStamp (s.stampOf c r.ctx) (s.stampOf c (q * 16))).map (·.blocks)).sum

/-- A crew with its gangs and shares. -/
structure Reload where
  slot : Nat
  gangs : List (Nat × Gang)
  shares : Store Share

def Reload.blocks (r : Reload) : Nat :=
  (r.gangs.map fun p => p.2.valloc / 8).sum + (r.shares.map fun p => (p.2.regs.length + 7) / 8).sum

/-- Contexts and blocks for every crew are free. -/
def State.reloadFits (s : State) (c : Nat) (rs : List Reload) : Bool :=
  (s.core c).ctxUsed + (rs.map fun r => r.gangs.length).sum ≤ 16 &&
    (rs.map Reload.blocks).sum + (rs.map fun r => s.olderBlocks c r.slot).foldl max 0 ≤ (s.core c).poolFree

/-- Put a crew back. -/
def State.reload (s : State) (c : Nat) (r : Reload) : State :=
  (s.modCore c fun k =>
    { k with gangs := r.gangs.foldl (fun g p => sput g p.1 p.2) k.gangs, poolFree := k.poolFree - r.blocks }).modCrew c r.slot
    fun w => { w with saved := none, kept := [], sns := [], shares := r.shares }

/-- A mark of a command acts on a restored gang (R226), and the command that waited for it is told. -/
def State.actMark (s : State) (c x : Nat) : State :=
  match (s.gang c x).pf with
  | none => s
  | some p =>
    let s := match p.cmd.toNat with
      | 0 => s
      | 1 => s.replayOne c none (.live x { p with cmd := 0, waits := none })
      | _ => s.cancelOne c none (.live x p)
    s.settle p.waits

/-- The areas of saved crews are read, from the memory-side caches (R215). -/
def State.seeAreas (s : State) (c : Nat) (l : List (Nat × Nat)) : State :=
  l.foldl (fun (s : State) p =>
    ((s.crew c p.1).savedIdx.foldl (fun (s : State) g => s.touchAll (gangKey p.2 g) 0x2c00 false) s).touchAll (crewKey p.2) 0x24000
      false) s

/-- RESTORE. -/
def execRestore (die : Nat) (t : CCmd) (s : State) : Host.Outcome State Fault Refusal :=
  crewCommand die s fun s =>
    let c := coreOf t.core.toNat
    if s.ccmdBad t || !saveBaseOk t.addr then s.endCrewCmd t 1
    else if (cmdSlots t).any fun q => (s.crew c q).saved.isNone then s.endCrewCmd t 4
    else
      let areas := (cmdSlots t).zip ((List.range 4).map (saveArea t.addr.toNat))
      let s := s.seeAreas c areas
      if areas.any fun p => !s.areaOk c p.1 p.2 then s.endCrewCmd t 5
      else
        let rs : List Reload := areas.map fun p =>
          let gs := s.areaGangs c p.1 p.2
          { slot := p.1, gangs := gs, shares := s.areaShares p.2 gs (s.crew c p.1).sns }
        if !s.reloadFits c rs then s.endCrewCmd t 3
        else
          let s := rs.foldl (fun (s : State) r => s.reload c r) s
          let s := (rs.flatMap fun r => r.gangs.map (·.1)).foldl (fun (s : State) x => (s.takeVerdicts c x).actMark c x) s
          s.endCrewCmd t 0

/-! ### KILL, RESUME, HANDLER (R79, R405) -/

/-- A gang of a saved crew ends: its entry is discarded, and a command that waits for its record waits no longer. -/
def State.killSaved (s : State) (c q g : Nat) : State :=
  let x := q * 16 + g
  let s := (s.settle ((sgetD (s.crew c q).kept g {}).pf.bind (·.waits))).dropReceives c x
  let s := s.dropUnsent c x
  let s := s.modCrew c q fun w =>
    { w with ended := w.ended ||| BitVec.ofNat 16 (2 ^ g), kept := smod w.kept g fun e => { e with halt := none, pf := none } }
  let s := s.modCore c fun k =>
    { k with accs := k.accs.filter fun p => !(p.2.ctx == x && p.2.awaited)
             kvQ := k.kvQ.filter fun m => !(m.ctx == x && m.ans.isSome)
             mx := { k.mx with waits := k.mx.waits.filter fun r => r.ctx != x } }
  let s := { s with fins := s.fins.filter fun p => !(p.2.core == c && p.2.ctx == x && p.2.place == 4) }
  (s.strandBarriers c x).crewSweep c q

/-- End gang `g` of a crew, live or saved; one that has ended already is left. -/
def State.killGang (s : State) (c q g : Nat) : State :=
  let w := s.crew c q
  if w.gangs ≤ g || bit w.ended g || (s.crew? c q).isNone then s
  else if (s.gang? c (q * 16 + g)).isSome then s.endGang c (q * 16 + g)
  else s.killSaved c q g

/-- The gang indices of a mask. -/
def gangIdx (m : BitVec 16) : List Nat := (List.range 16).filter fun g => bit m g

/-- KILL. -/
def execKill (die : Nat) (t : CCmd) (s : State) : Host.Outcome State Fault Refusal :=
  crewCommand die s fun s =>
    if s.ccmdBad t then s.endCrewCmd t 1
    else
      let c := coreOf t.core.toNat
      let s := (cmdSlots t).foldl (fun (s : State) q => (gangIdx t.gangs).foldl (fun (s : State) g => s.killGang c q g) s) s
      s.endCrewCmd t 0

/-- A gang of a core that a fault halts. -/
def State.faulted (s : State) (c x : Nat) : Bool := ((s.gang? c x).bind (·.halt)).isSome

/-- Let the fault-halted gangs that a command names go on, by `f`. -/
def State.letGo (s : State) (t : CCmd) (f : Gang → Gang) : State :=
  let c := coreOf t.core.toNat
  match (cmdSlots t) with
  | [q] =>
    let halted := (List.range 16).filter fun g => s.faulted c (q * 16 + g)
    if (t.gangs == 0xffff && halted.isEmpty) || (t.gangs != 0xffff && (gangIdx t.gangs).any fun g => !halted.contains g) then
      s.endCrewCmd t 2
    else
      let named := if t.gangs == 0xffff then halted else gangIdx t.gangs
      (named.foldl (fun (s : State) g => s.modGang c (q * 16 + g) f) s).endCrewCmd t 0
  | [] => s.endCrewCmd t 2
  | _ => s.endCrewCmd t 1

/-- RESUME: the named gangs go on at their PC. -/
def execResume (die : Nat) (t : CCmd) (s : State) : Host.Outcome State Fault Refusal :=
  crewCommand die s fun s => if s.ccmdBad t then s.endCrewCmd t 1 else s.letGo t Gang.resume

/-- HANDLER: the named gangs start a new run at ADDR, with word 0 of their record in s31. -/
def execHandler (die : Nat) (t : CCmd) (s : State) : Host.Outcome State Fault Refusal :=
  crewCommand die s fun s =>
    if s.ccmdBad t || 2 ^ 48 ≤ t.addr.toNat || bit t.addr 0 then s.endCrewCmd t 1
    else s.letGo t fun g => g.handler (t.addr.setWidth 48)

end Sys2Proof.Machine
end

