-- ==== Sys2Proof/Machine/CrossLane.lean ====
section
/-! DEFINITION. Sys2Proof/Machine/CrossLane.lean: shuffles, votes, reductions, scans and ranking within partition tiles
(R162 to R179), and `vtake` (R113). -/

namespace Sys2Proof.Machine

/-! ### Tiles (R162 to R164) -/

/-- The tile width of a gang. -/
def Gang.tileW (g : Gang) : Nat := 2 ^ g.ptile.toNat
/-- base(l). -/
def tileBase (w l : Nat) : Nat := l - l % w
/-- tile_act(l): the active lanes of the tile of lane `l`, ascending. -/
def tileAct (w : Nat) (m : W) (l : Nat) : List Nat := (activeList m).filter fun k => tileBase w k == tileBase w l
/-- tile_param(B, l): the value in the first active lane of the tile. -/
def tileParam (w : Nat) (m : W) (b : Lanes) (l : Nat) : W := b.lane ((tileAct w m l).headD l)

/-- Position of `l` in a list of lanes. -/
def posOf (l : Nat) (ls : List Nat) : Nat := (ls.takeWhile fun k => k != l).length

/-! ### A cross-lane operation: all sources are read, then the active lanes are written (R165) -/

/-- A result given per active lane from the tile width, the active lanes and the sources. -/
def crossV (f : T3) (fa fb : List Nat) (tag : List Val → Byte)
    (op : Nat → W → Lanes → Lanes → Nat → W × BitVec 14)
    (s : State) (c x : Nat) (vs : List Val) : Except Stop Done := do
  needTags [fa, fb] vs
  let g := s.gang c x
  let m := g.lanes
  let a := srcLanes vs 0; let b := srcLanes vs 1
  pure (giveV s c x f m (runLanes m (op g.tileW m a b)) (tag vs))

def issueX2 (s : State) (f : T3) (fa fb : List Nat) (tag : List Val → Byte)
    (op : Nat → W → Lanes → Lanes → Nat → W × BitVec 14) : Host.Outcome State Fault Refusal :=
  issue s (t3Form .v .any .any f) (crossV f fa fb tag op)

/-! ### Shuffles (R166) -/

/-- A move from the lane that `src` names by the tile width, the lane and d. -/
def opShuffle (src : Nat → Nat → Nat → Nat) (w : Nat) (_ : W) (a b : Lanes) (l : Nat) : W × BitVec 14 :=
  plain (a.lane (src w l (shiftBy (b.lane l))))

def srcShfl (w l d : Nat) : Nat := tileBase w l + d % w
def srcXor (w l d : Nat) : Nat := tileBase w l + Nat.xor (l % w) (d % w)
def srcUp (w l d : Nat) : Nat := if d ≤ l % w then l - d else l
def srcDn (w l d : Nat) : Nat := if l % w + d < w then l + d else l

def execVshfl (f : T3) (s : State) : Host.Outcome State Fault Refusal := issueX2 s f fmtNoMx fmtAny moveTag (opShuffle srcShfl)
def execVshflXor (f : T3) (s : State) : Host.Outcome State Fault Refusal := issueX2 s f fmtNoMx fmtAny moveTag (opShuffle srcXor)
def execVshflUp (f : T3) (s : State) : Host.Outcome State Fault Refusal := issueX2 s f fmtNoMx fmtAny moveTag (opShuffle srcUp)
def execVshflDn (f : T3) (s : State) : Host.Outcome State Fault Refusal := issueX2 s f fmtNoMx fmtAny moveTag (opShuffle srcDn)

/-! ### Reductions and scans (R167, R168) -/

/-- The operation of a code over a list of words, with its identity for the empty list. -/
def reduce (rm : Rnd) (code : Nat) (xs : List W) : W × BitVec 14 :=
  match code with
  | 0 => plain (xs.foldl (· + ·) 0)
  | 1 =>
    let vs := xs.map f32Dec
    if xs.isEmpty then plain 0
    else
      let (r, fl) := fp32.sum rm vs
      w32 (r, fl ||| sigFlag vs)
  | 2 => plain (xs.foldl maxS 0x80000000)
  | 3 => fold1 (f32Pick true) 0xff800000 xs
  | 4 => plain (xs.foldl minS 0x7fffffff)
  | 5 => fold1 (f32Pick false) 0x7f800000 xs
  | 6 => plain (xs.foldl (· &&& ·) 0xffffffff)
  | _ => plain (xs.foldl (· ||| ·) 0)
where
  /-- Repeated R131; one NaN alone is canonical, and a signalling one invalid (R168). -/
  fold1 (f : W → W → W × BitVec 14) (e : W) : List W → W × BitVec 14
    | [] => plain e
    | y :: ys => ys.foldl (fun p z => let q := f p.1 z; (q.1, p.2 ||| q.2)) (f y y)

/-- Accepted tags of a reduction code, and its result tag (R165). -/
def redFmt (code : Nat) : List Nat :=
  match code with
  | 0 | 2 | 4 => fmtRaw
  | 1 | 3 | 5 => fmtF32
  | _ => fmtNoMx
def redTag (code : Nat) : Byte := if code = 1 || code = 3 || code = 5 then tagF32 else tagRaw

def execVred (f : T3) (s : State) : Host.Outcome State Fault Refusal :=
  let code := f.b.toNat % 8
  issue s (t3Form .v .any (.code 8) f) (crossV f (redFmt code) fmtAny (fun _ => redTag code)
    fun w m a _ l => reduce s.rnd code ((tileAct w m l).map a.lane))

def execVscan (f : T3) (s : State) : Host.Outcome State Fault Refusal :=
  let code := f.b.toNat % 8
  let excl := f.b.toNat / 8 % 2 = 1
  issue s (t3Form .v .any (.code 16) f) (crossV f (redFmt code) fmtAny (fun _ => redTag code)
    fun w m a _ l => reduce s.rnd code (((tileAct w m l).filter fun k => if excl then k < l else k ≤ l).map a.lane))

/-! ### Votes and ballots (R169, R170) -/

/-- A vote into a k register. -/
def voteBody (f : T3) (all : Bool) (s : State) (c x : Nat) (vs : List Val) : Except Stop Done := do
  needTags [fmtNoMx] vs
  let g := s.gang c x
  let m := g.lanes
  let a := srcLanes vs 0
  let res := maskOf 32 fun l =>
    let t := (tileAct g.tileW m l).map fun k => a.lane k != 0
    if all then t.all id else t.any id
  pure (giveK s c x f m res 0)

/-- `vvote.any`: B is 0. -/
def execVvoteAny (f : T3) (s : State) : Host.Outcome State Fault Refusal :=
  issue s (t3Form .k .any (.code 2) f) (voteBody f (f.b == 1))
/-- `vvote.all`: B is 1. -/
def execVvoteAll (f : T3) (s : State) : Host.Outcome State Fault Refusal :=
  issue s (t3Form .k .any (.code 2) f) (voteBody f (f.b == 1))

def opBallot (w : Nat) (m : W) (a b : Lanes) (l : Nat) : W × BitVec 14 :=
  plain (maskOf 32 fun j => j < w && bit m (tileBase w l + j) && a.lane (tileBase w l + j) != b.lane (tileBase w l + j))

def execVballot (f : T3) (s : State) : Host.Outcome State Fault Refusal := issueX2 s f fmtNoMx fmtAny rawTag opBallot

/-! ### Broadcast, lane numbers, first active lane (R171 to R173) -/

def opBcast (w : Nat) (m : W) (a b : Lanes) (l : Nat) : W × BitVec 14 :=
  plain (a.lane (tileBase w l + shiftBy (tileParam w m b l) % w))

def execVbcast (f : T3) (s : State) : Host.Outcome State Fault Refusal := issueX2 s f fmtNoMx fmtAny moveTag opBcast

def execVlaneid (f : T3) (s : State) : Host.Outcome State Fault Refusal :=
  issue s (t3Form .v .zero .zero f) fun s c x _ =>
    pure (giveV s c x f (s.gang c x).lanes (Lanes.of fun l => BitVec.ofNat 32 l, 0) tagRaw)

def execVrfa (f : T3) (s : State) : Host.Outcome State Fault Refusal :=
  issue s (t3Form .s .vt .zero f) fun s c x vs =>
    let a := srcLanes vs 0
    let v := match activeList (s.gang c x).lanes with
      | l :: _ => a.lane l
      | [] => 0
    pure (doneS s c x f.d.toNat v)

/-! ### Selection (R174, R175) -/

def opSel (w : Nat) (_ : W) (a b : Lanes) (l : Nat) : W × BitVec 14 :=
  plain (if bit (b.lane l) (l % w) then a.lane l else 0)

def execVsel (f : T3) (s : State) : Host.Outcome State Fault Refusal := issueX2 s f fmtNoMx fmtAny moveTag opSel

def opComp (w : Nat) (m : W) (a b : Lanes) (l : Nat) : W × BitVec 14 :=
  let act := tileAct w m l
  plain (((act.filter fun k => b.lane k != 0).map a.lane).getD (posOf l act) 0)

def execVcomp (f : T3) (s : State) : Host.Outcome State Fault Refusal := issueX2 s f fmtNoMx fmtAny moveTag opComp

/-! ### Ranking (R176 to R179) -/

/-- A word as a rank: signed for RAW; for F32 by value, every NaN above every number. -/
def rankOf (f32 : Bool) (w : W) : Int :=
  if f32 then (if (f32Dec w).isNan then 2 ^ 32 else f32Val w) else sgn w

/-- Insert a lane by descending rank, after those of equal rank. -/
def insRank (r : Nat → Int) (l : Nat) : List Nat → List Nat
  | [] => [l]
  | k :: t => if r k < r l then l :: k :: t else k :: insRank r l t

/-- Lanes by descending rank; equal ranks keep their order. -/
def byRank (r : Nat → Int) (ls : List Nat) : List Nat := ls.foldl (fun acc l => insRank r l acc) []

/-- A's order: F32 by its tag, RAW otherwise. -/
def isF32Src (vs : List Val) : Bool :=
  match vs with
  | .v _ t :: _ => fmtOf t == 1
  | _ => false

/-- The unused result position. -/
def noIndex : W := 0xffffffff

/-- An index result: lane positions given per tile, in order. -/
def indexAt (w : Nat) (act idx : List Nat) (l : Nat) : W :=
  match idx[posOf l act]? with
  | some k => BitVec.ofNat 32 (k % w)
  | none => noIndex

/-- Issue of a ranking instruction. -/
def issueRank (s : State) (f : T3) (tag : State → W → Nat → Lanes → List Val → Byte)
    (op : Bool → Nat → W → Lanes → Lanes → Nat → W) (wmod : Nat → W → Lanes → Bool) : Host.Outcome State Fault Refusal :=
  issue s (t3Form .v .any .any f) fun s c x vs => do
    needTags [[0, 1], fmtAny] vs
    let g := s.gang c x
    let m := g.lanes
    let a := srcLanes vs 0; let b := srcLanes vs 1
    let s := if wmod g.tileW m b then s.modGang c x Gang.setWmod else s
    let t := tag s m g.tileW b vs
    pure (giveV s c x f m (runLanes m fun l => plain (op (isF32Src vs) g.tileW m a b l)) t)

def opSelgt (f32 : Bool) (w : Nat) (m : W) (a b : Lanes) (l : Nat) : W :=
  let act := tileAct w m l
  let t := rankOf f32 (tileParam w m b l)
  indexAt w act (act.filter fun k => t < rankOf f32 (a.lane k)) l

def execVselgt (f : T3) (s : State) : Host.Outcome State Fault Refusal :=
  issueRank s f (fun _ _ _ _ _ => tagRaw) opSelgt (fun _ _ _ => false)

def opTopk (f32 : Bool) (w : Nat) (m : W) (a b : Lanes) (l : Nat) : W :=
  let act := tileAct w m l
  indexAt w act ((byRank (fun k => rankOf f32 (a.lane k)) act).take (tileParam w m b l).toNat) l

/-- `vtopk`; a k above the tile width takes row 14 of R40 as it executes (R178). -/
def execVtopk (f : T3) (s : State) : Host.Outcome State Fault Refusal :=
  issueRank s f (fun _ _ _ _ _ => tagRaw) opTopk
    (fun w m b => (activeList m).any fun l => w < (tileParam w m b l).toNat)

def opSort (f32 : Bool) (w : Nat) (m : W) (a b : Lanes) (l : Nat) : W :=
  let act := tileAct w m l
  let ctl := tileParam w m b l
  let rk (k : Nat) : Int := if bit ctl 0 then -(rankOf f32 (a.lane k)) else rankOf f32 (a.lane k)
  let srt := byRank rk act
  let k := srt.getD (posOf l act) l
  if bit ctl 1 then BitVec.ofNat 32 (k % w) else a.lane k

/-- The tag of `vsort`: RAW for indices, A's for values; where the active tiles differ it is one of the two, free (log 16). -/
def sortTag (s : State) (m : W) (w : Nat) (b : Lanes) (vs : List Val) : Byte :=
  let idx (l : Nat) : Bool := bit (tileParam w m b l) 1
  if (activeList m).all idx && (activeList m).any idx then tagRaw
  else if (activeList m).any idx && Config.sortRaw s.tick then tagRaw
  else moveTag vs

/-- `vsort`. -/
def execVsort (f : T3) (s : State) : Host.Outcome State Fault Refusal :=
  issueRank s f sortTag opSort (fun _ _ _ => false)

/-! ### vtake (R113) -/

/-- `vtake`: the active lanes move, and a register source becomes empty. With D = A and no W it is E_ILL. R34's table
gives A as v only, and R113 as a v register or a t naming a varying result: the t is taken (DESIGN CHOICE, log 50). -/
def execVtake (f : T3) (s : State) : Host.Outcome State Fault Refusal :=
  issue s { t3Form .v .vt .zero f with
      legal := t3Legal .v .vt .zero f && (f.w == 1 || f.d != f.a.setWidth 6 || 64 ≤ f.a.toNat) } fun s c x vs =>
    let r := giveV s c x f (s.gang c x).lanes (srcLanes vs 0, 0) (moveTag vs)
    let n := f.a.toNat
    pure (if n < 64 then { r with s := r.s.takeV c x n } else r)

end Sys2Proof.Machine
end

