-- ==== Sys2Proof/Machine/Sfu.lean ====
section
/-! DEFINITION. Sys2Proof/Machine/Sfu.lean: the special functions as long-latency producers (R102, R137) and their
completion. -/

namespace Sys2Proof.Machine

/-- A group of a context is parked for the unit and can offer its instruction again (R62, R137). -/
def State.sfuOffers (s : State) (c x : Nat) : Bool :=
  let g := s.gang c x
  s.gangFree c x g && g.groups.any fun q => q.park == some (.engine, 8) && (g.run == 0 || g.run == q.slices)

/-- The first context that waits for the unit and can offer its instruction (R137). -/
def State.sfuHead (s : State) (c : Nat) : Option Nat := (s.core c).sfuQ.find? (s.sfuOffers c)

/-- The unit takes one instruction each cycle, waiting gangs oldest first. -/
def State.sfuFree (s : State) (c x : Nat) : Bool :=
  (s.core c).sfu.all (fun p => p.2.issued != s.clock) && (match s.sfuHead c with
    | some y => y == x
    | none => true)

/-- Issue to the unit: D becomes empty; the results are held until the completion. -/
def sfuBody (f : T3) (lat : Nat) (op : W → W × BitVec 14) (s : State) (c x : Nat) (vs : List Val) : Except Stop Done := do
  needTags [fmtF32] vs
  if s.sfuFree c x then
    let m := (s.gang c x).lanes
    let a := srcLanes vs 0
    let r := runLanes m fun l => op (a.lane l)
    let o : SfuOp := { ctx := x, binds := (s.gang c x).binds, dst := if f.w = 1 then none else some f.d.toNat, val := r.1, mask := m, flags := r.2,
                       issued := s.clock, due := s.clock + lat }
    let s := s.modCore c fun k =>
      { k with sfu := sput k.sfu ((sfree k.sfu (k.sfu.length + 1) 0).getD 0) o, sfuQ := k.sfuQ.filter fun y => y != x }
    pure { s := if f.w = 1 then s else s.emptyV c x f.d.toNat 1, dest := f.d.setWidth 8, w := f.w == 1 }
  else
    let s := s.modCore c fun k => { k with sfuQ := if k.sfuQ.contains x then k.sfuQ else k.sfuQ ++ [x] }
    pure { s := s, parks := some (.engine, 8) }

def issueSfu (s : State) (f : T3) (lat : Nat) (op : W → W × BitVec 14) : Host.Outcome State Fault Refusal :=
  issue s (t3Form .v .any .zero f) (sfuBody f lat op)

def execVrcp (f : T3) (s : State) : Host.Outcome State Fault Refusal := issueSfu s f 10 rcp32
def execVrsqrt (f : T3) (s : State) : Host.Outcome State Fault Refusal := issueSfu s f 10 rsqrt32
def execVsqrt (f : T3) (s : State) : Host.Outcome State Fault Refusal := issueSfu s f 10 sqrt32
def execVexp2 (f : T3) (s : State) : Host.Outcome State Fault Refusal := issueSfu s f 12 exp2Lane
def execVlog2 (f : T3) (s : State) : Host.Outcome State Fault Refusal := issueSfu s f 12 log232
def execVtanh (f : T3) (s : State) : Host.Outcome State Fault Refusal := issueSfu s f 18 tanh32
def execVsinpi (f : T3) (s : State) : Host.Outcome State Fault Refusal := issueSfu s f 18 sinpi32

/-- SFU_COMPLETION: the active lanes and tag F32 are written, D is full, and the flags are raised; with W = 1 nothing
is. -/
def execSfuCompletion (core op : Nat) (s : State) : Host.Outcome State Fault Refusal :=
  match sget (s.core core).sfu op with
  | none => .next s
  | some o =>
    let s := s.modCore core fun k => { k with sfu := sdel k.sfu op }
    match o.dst with
    | none => .next (s.completed core o.ctx)
    | some d => .next (((s.fillV core o.ctx o.binds d o.mask o.val tagF32).raiseAt core o.ctx o.flags).completed core o.ctx)

end Sys2Proof.Machine
end

