-- ==== Sys2Proof/Machine/System.lean ====
section
/-! DEFINITION. Sys2Proof/Machine/System.lean: start-up, features, attestation (R412 to R416), device time (R15), the host's
window (R410, R411), control-block registers, fault rings (R401), background work (R417), illegal encodings (R39), and the
control cores' wait-on-address (R398). -/

namespace Sys2Proof.Machine

/-- Change the management registers. -/
def State.modSys (s : State) (f : Sys → Sys) : State := { s with sys := f s.sys }

/-! ### Start-up (R413, R415) -/

/-- POWER_GOOD: everything is at its reset value; what is fused stays. Inputs that have not acted stay too. -/
def execPowerGood (s : State) : Host.Outcome State Fault Refusal :=
  .next { State.reset with
    sys := { keyDigest := s.sys.keyDigest, minSvn := s.sys.minSvn, attCert := s.sys.attCert }
    tick := s.tick, inputs := s.inputs }

/-- The signature's length (R415). -/
def sigLen : Nat := 29792

/-- The header of an image is well formed. -/
def imageHeaderOk (bs : List Byte) : Bool :=
  let f (off n : Nat) : Nat := bytesNat bs off n
  let len := f 4 4
  64 ≤ bs.length && f 0 4 == 0x5a465731 && 0x80 ≤ len && len ≤ 2 ^ 31 && f 0x10 4 == len - 64 && zeroAt bs 0x14 44 &&
    len + sigLen ≤ bs.length

/-- The image is accepted: its digest and SVN. -/
def Sys.checkImage (y : Sys) (bs : List Byte) : Option (BitVec 512 × BitVec 64) :=
  if !imageHeaderOk bs then none
  else
    let len := bytesNat bs 4 4
    let signed := bs.take len
    let key := signed.drop (len - 64)
    let sig := (bs.drop len).take sigLen
    let svn := BitVec.ofNat 64 (bytesNat bs 8 8)
    if Config.shake256 key == y.keyDigest && Config.slhVerify key signed sig && y.minSvn ≤ svn then
      some (Config.shake256 (bs.take (len + sigLen)), svn)
    else none

/-- BOOT_ROM_IMAGE_CHECK: the image of root port 0, or of port 1 when port 0 holds none. -/
def execBootRomImageCheck (port0 port1 : Option (List Byte)) (s : State) : Host.Outcome State Fault Refusal :=
  if s.sys.bootstat != 0 then .next s
  else
    let img := match port0 with
      | some bs => some bs
      | none => port1
    match img.bind s.sys.checkImage with
    | some i => .next (s.modSys fun y => { y with image := some i })
    | none => .next (s.modSys fun y => { y with bootstat := 3 })

/-- FEATOFF in the reduced service: REDUCED and ATTEST. -/
def offReduced : BitVec 128 := 0x401
/-- FEATOFF in full function: bits 1 to 10; FULL is left out when a die failed. -/
def offFull (all : Bool) : BitVec 128 := if all then 0x7fe else 0x7fc

/-- An entry of the MSI-X table (R410). Every vector is masked at reset, as PCI Express has it (PRESUMED, log 62). -/
def State.vector (s : State) (v : Nat) : Vec := sgetD s.sys.msix v {}

/-- The MSI-X write of a vector: address and data are those of its entry in BAR4, and a masked vector becomes pending (R410,
log 62). -/
def State.sendVector (s : State) (v : Nat) : State :=
  let e := s.vector v
  if e.masked then s.modSys fun y => { y with msixPend := insNat v y.msixPend }
  else s.sendMsi { addr := e.addr, data := e.data, mode := 3 }

/-- The host writes an entry of the MSI-X table; a vector that is pending is sent once it is not masked. -/
def msixWrite (v : Nat) (x : Vec) (s : State) : State :=
  if 2048 ≤ v then s
  else
    let s := s.modSys fun y => { y with msix := sput y.msix v x }
    if !x.masked && s.sys.msixPend.contains v then
      (s.modSys fun y => { y with msixPend := y.msixPend.filter fun w => w != v }).sendVector v
    else s

/-- REDUCED_SERVICE_REACHED: the offer changes, so vector 0 is sent (R412). BOOTSTAT 3 stays after a refused image. -/
def execReducedServiceReached (s : State) : Host.Outcome State Fault Refusal :=
  if s.sys.bootstat != 0 && s.sys.bootstat != 3 then .next s
  else .next ((s.modSys fun y =>
    { y with featOff := offReduced, bootstat := if y.bootstat = 3 then 3 else 1 }).sendVector 0)

/-- The object entry of the block service of a die's pool (R289): V = 1, OPEN = 1, OWNER = 0 and MAXW = 31; firmware chooses the
rest (log 12). -/
def serviceEntry (d cls : Nat) : BitVec 128 := (Config.svcEntry d cls &&& objMask &&& ~~~0x1fffff) ||| 0x1f0003

/-- Firmware installs the block services of the pools of a die (R271, R289). -/
def State.installServices (s : State) (d : Nat) : State :=
  (List.range 2).foldl (fun s cls =>
    let p := vget (s.die d).pools cls {}
    let i := p.svc.toNat % 4096
    if p.nhome = 0 || 64 ≤ i || p.svc.toNat / 4096 != d then s
    else s.modDie d fun x => { x with objs := sput x.objs i (serviceEntry d cls) }) s

/-- FULL_FUNCTION_REACHED with the dies that passed their checks. A failed die 0 keeps the reduced service. -/
def execFullFunctionReached (good : BitVec 24) (s : State) : Host.Outcome State Fault Refusal :=
  if s.sys.bootstat != 1 || s.sys.image.isNone then .next s
  else if !bit good 0 then .next (s.modSys fun y => { y with bootstat := 5 })
  else
    let all := good == 0xffffff
    let s := (List.range 24).foldl (fun (s : State) d =>
      let s := s.modDie d fun x => { x with ok := bit good d }
      if bit good d then s.installServices d else s) s
    .next ((s.modSys fun y => { y with featOff := offFull all, bootstat := if all then 2 else 4 }).sendVector 0)

/-! ### The host's window (R410) -/

/-- The address of a byte of BAR2. -/
def State.apAddr (s : State) (off : Nat) : Nat := (s.sys.apbase.toNat + off) % 2 ^ 48

/-- Bytes read through BAR2; none where a page fails. -/
def State.apRead? (s : State) (off n : Nat) : State × Option (List Byte) := s.feRead s.sys.apasid (s.apAddr off) n

/-- HOST_APERTURE_ACCESS: a read of `n` bytes, or a write of bytes, at an offset of BAR2. -/
def execHostApertureAccess (off n : Nat) (wr : Option (List Byte)) (s : State) : Host.Outcome State Fault Refusal :=
  let miss (s : State) : State := s.modSys fun y => { y with aperr := y.aperr + 1 }
  match wr with
  | none =>
    if 2 ^ 38 < off + n then .next s
    else
      match s.apRead? off n with
      | (s, some bs) => .next { s with apRead := bs }
      | (s, none) => .next { miss s with apRead := List.replicate n 0xff }
  | some bs =>
    if 2 ^ 38 < off + bs.length then .next s
    else
      match s.feRuns s.sys.apasid .store (bs.length / 65536 + 2) (s.apAddr off) bs.length with
      | (s, none) => .next (miss s)
      | (s, some runs) =>
        .next (runs.foldl (fun (p : State × List Byte) r => (p.1.put r.1 (p.2.take r.2), p.2.drop r.2)) (s, bs)).1

/-- BOOTLOAD: the check is repeated on the image that the host has placed at the start of BAR2. -/
def execBootload (len : W) (s : State) : Host.Outcome State Fault Refusal :=
  if s.sys.bootstat != 3 then .next s
  else
    match s.apRead? 0 len.toNat with
    | (s, none) => .next (s.modSys fun y => { y with aperr := y.aperr + 1 })
    | (s, some bs) =>
      match s.sys.checkImage bs with
      | none => .next s
      | some i => .next (s.modSys fun y => { y with image := some i, bootstat := 1 })

/-! ### Features (R412) and attestation (R416) -/

/-- The discipline source that accepted features choose (R15). -/
def sourceOf (feats : BitVec 128) : Option TimeSrc :=
  if bit feats 7 then some .ptm else if bit feats 8 then some .ptp else none

/-- FEATCOMMIT. A discipline source that the accepted features do not choose is followed no longer (R15). -/
def execFeatcommit (v : W) (s : State) : Host.Outcome State Fault Refusal :=
  if v != 1 then .next s
  else
    let y := s.sys
    let refused := s.fe.queues.any (fun q => q.2.st != 0) || y.featAcc &&& ~~~y.featOff != 0 ||
      (bit y.featOff 0 && !bit y.featAcc 0)
    if refused then .next (s.modSys fun y => { y with featStat := 2 })
    else
      let s := s.modSys fun y => { y with featStat := 1, committed := y.featAcc }
      .next (if s.time.source = sourceOf y.featAcc then s
        else { s with time := { s.time with source := none, target := none } })

/-- ATTGO: with ATTEST accepted, a report is begun. -/
def execAttgo (v : W) (s : State) : Host.Outcome State Fault Refusal :=
  if v != 1 || !bit s.sys.committed 10 || s.sys.attBusy.isSome then .next s
  else .next (s.modSys fun y => { y with attBusy := some y.attNonce, attStat := 0 })

/-- DIEMAP. -/
def State.dieMap (s : State) : BitVec 24 := maskOf 24 fun d => (s.die d).ok

/-- What an attestation report says, in the order of R416, each part least significant byte first: what is signed. -/
def Report.signed (r : Report) : List Byte :=
  leBytes 64 r.digest.toNat ++ leBytes 8 r.svn.toNat ++ leBytes 16 r.off.toNat ++ leBytes 16 r.acc.toNat ++
    leBytes 4 r.diemap.toNat ++ leBytes 32 r.nonce.toNat

/-- The bytes of a report as ATTREP shows them: what is signed, and the signature after it (DEDUCED, log 70). -/
def Report.bytes (r : Report) : List Byte := r.signed ++ r.sig

/-- ATTESTATION_REPORT_READY. -/
def execAttestationReportReady (s : State) : Host.Outcome State Fault Refusal :=
  match s.sys.attBusy with
  | none => .next s
  | some nonce =>
    let y := s.sys
    let (digest, svn) := y.image.getD Config.romImage
    let r : Report := { digest := digest, svn := svn, off := y.featOff, acc := y.committed, diemap := s.dieMap, nonce := nonce,
                        sig := [] }
    .next (s.modSys fun y =>
      { y with attBusy := none, attStat := 1, attRep := some { r with sig := Config.slhSign r.signed } })

/-! ### Device time (R15) -/

/-- The discipline source that the accepted features choose. -/
def State.chosenSource (s : State) : Option TimeSrc := sourceOf s.sys.committed

/-- TIME_SOURCE_LOCK: the first lock of a source steps device time, a later one slews it. That 'the first lock of a source' of R15
is the first lock of each source, and not of any, is the model's reading (DEDUCED, log 54). -/
def execTimeSourceLock (src : TimeSrc) (ns : Nat) (s : State) : Host.Outcome State Fault Refusal :=
  if s.chosenSource != some src then .next s
  else
    let t := s.time
    .next { s with time :=
      if t.lockedOnce.contains src then { t with source := some src, target := some ((4 * ns : Int) - t.now) }
      else { now := 4 * ns, lockedOnce := t.lockedOnce ++ [src], source := some src, target := some 0 } }

/-- TIME_SOURCE_LOSS. -/
def execTimeSourceLoss (src : TimeSrc) (s : State) : Host.Outcome State Fault Refusal :=
  if s.time.source = some src then .next { s with time := { s.time with source := none, target := none } } else .next s

/-- One cycle of the core clock: 1.25 ns, or 2.5 ns in the reduced service (R14, R414). -/
def State.cycleTime (s : State) : Nat := if s.full then 5 else 10

/-- The slew of a cycle in quarter nanoseconds: at most one in 2,000 cycles, so at most 100 parts per million, towards the
source (R15). Whether it is taken is free. -/
def State.slew (s : State) : Int :=
  match s.time.target with
  | none => 0
  | some d =>
    if s.clock % 2000 != 0 then 0
    else
      match Config.pick s.tick % 3 with
      | 0 => 0
      | 1 => if d ≤ 0 then 0 else 1
      | _ => if 0 ≤ d then 0 else -1

/-- Device time after a cycle. -/
def State.passTime (s : State) : Time :=
  let d := s.slew
  { s.time with now := ((s.time.now : Int) + s.cycleTime + d).toNat, target := s.time.target.map (· - d) }

/-! ### Fault rings (R401) -/

/-- A ring of the module. -/
def ringExists : RingId → Bool
  | .place c q => c < 1536 && q < 4
  | .plaza d => d < 24

/-- FAULT_RING_BASE_WRITE: the records that waited are posted. -/
def execFaultRingBaseWrite (r : RingId) (base : Nat) (s : State) : Host.Outcome State Fault Refusal :=
  if !ringExists r || base % 2048 != 0 || !hbmUsable base then .next s
  else
    let x := s.ring r
    .next ((s.setRing r { x with base := some base }).drainRing r x.waiting.length)

/-- FQR_WRITE: a record that waited for a place is posted. -/
def execFqrWrite (r : RingId) (v : W) (s : State) : Host.Outcome State Fault Refusal :=
  if !ringExists r then .next s
  else
    let x := s.ring r
    .next ((s.setRing r { x with fqr := v }).drainRing r x.waiting.length)

/-! ### Control-block registers -/

/-- REGION_TABLE_WRITE (R185): every copy is the one table. -/
def execRegionTableWrite (core idx : Nat) (v : W) (s : State) : Host.Outcome State Fault Refusal :=
  if 1536 ≤ core || 32 ≤ idx then .next s
  else .next (s.modCore core fun k =>
    { k with regions := vput k.regions idx (v.extractLsb' 0 2, bit v 2, v.extractLsb' 8 8) })

/-- Put a word into one half of a 64-bit number. -/
def putHalf (x : Nat) (hi : Bool) (v : W) : Nat :=
  if hi then x % 2 ^ 32 + v.toNat * 2 ^ 32 else x / 2 ^ 32 * 2 ^ 32 + v.toNat

def putHalf64 (x : BitVec 64) (hi : Bool) (v : W) : BitVec 64 := BitVec.ofNat 64 (putHalf x.toNat hi v)

/-- Put a word into a longer register. -/
def putWord {n : Nat} (x : BitVec n) (i : Nat) (v : W) : BitVec n :=
  (x &&& ~~~(BitVec.ofNat n ((2 ^ 32 - 1) * 2 ^ (32 * i)))) ||| BitVec.ofNat n (v.toNat * 2 ^ (32 * i))

/-- Write word `w` of the configuration of a KV pool of die `d` (R354). A value that R354 does not allow is ignored (log 63). -/
def Pool.writeWord (p : Pool) (d w : Nat) (v : W) : Pool :=
  let here := v.toNat / 128 == d
  let at_ (x align : Nat) (f : Nat → Pool) : Pool := if v.toNat % align = 0 then f (putHalf x false v) else p
  let on (x : Nat) (f : Nat → Pool) : Pool := if here then f (putHalf x true v) else p
  match w with
  | 0 => if v.toNat + p.novf < 2 ^ 20 then { p with nhome := v.toNat } else p
  | 1 => if v.toNat + p.nhome < 2 ^ 20 then { p with novf := v.toNat } else p
  | 2 => at_ p.blkpa 65536 fun x => { p with blkpa := x }
  | 3 => on p.blkpa fun x => { p with blkpa := x }
  | 4 => at_ p.tblpa 16 fun x => { p with tblpa := x }
  | 5 => on p.tblpa fun x => { p with tblpa := x }
  | 6 => at_ p.cbpa 4096 fun x => { p with cbpa := x }
  | 7 => on p.cbpa fun x => { p with cbpa := x }
  | 8 => { p with svc := v }
  | _ => p

/-- Write a register of a die that is in service. -/
def State.writeDie (s : State) (d : Nat) (f : Die → Die) : State := if 24 ≤ d || !s.dieUp d then s else s.modDie d f

/-- Write what firmware sets at start-up, before full function, and never again: MODID and the pod route table (R253), and the
KV pools (R354), of any die. -/
def State.writeBoot (s : State) (d : Nat) (f : Die → Die) : State := if 24 ≤ d || s.full then s else s.modDie d f

/-- Write a register that has no row of its own. -/
def State.writeReg (s : State) (r : Reg) (v : W) : State :=
  match r with
  | .queue q f => if 256 ≤ q then s else (s.refresh.modQueue q fun x => x.writeField f v).refresh
  | .featAcc i => if i < 4 then s.modSys fun y => { y with featAcc := putWord y.featAcc i v } else s
  | .attNonce i => if i < 8 then s.modSys fun y => { y with attNonce := putWord y.attNonce i v } else s
  | .apasid => s.modSys fun y => { y with apasid := v.setWidth 8 }
  | .apbase hi => s.modSys fun y => { y with apbase := putHalf64 y.apbase hi v }
  | .plzlim d => s.writeDie d fun x => { x with plzlim := v }
  | .modid d => s.writeBoot d fun x => { x with modid := v.setWidth 8 }
  | .podRoute d m => if 256 ≤ m then s else s.writeBoot d fun x => { x with podRoute := vput x.podRoute m (v.setWidth 4) }
  | .kvPool d cls w => if 2 ≤ cls then s else s.writeBoot d fun x => { x with pools := vput x.pools cls ((vget x.pools cls {}).writeWord d w v) }
  | .pinBudget hi => { s with fe := { s.fe with pinBudget := putHalf s.fe.pinBudget hi v } }
  | .evictBase hi => { s with fe := { s.fe with evictBase := putHalf s.fe.evictBase hi v } }
  | .withheld c => if 1536 ≤ c then s else { s with fe := { s.fe with withheld := sput s.fe.withheld c v } }
  | .root a hi =>
    if 256 ≤ a then s
    else { s with fe := { s.fe with roots := sput s.fe.roots a (putHalf64 (sgetD s.fe.roots a 0) hi v) } }
  | .tqErr d => s.writeDie d fun x => { x with tqErr := x.tqErr && !bit v 0 }
  | .cqErr d => s.writeDie d fun x => { x with cqErr := x.cqErr && !bit v 0 }
  | .ringMsiAddr r hi =>
    if !ringExists r then s else s.setRing r { s.ring r with msiAddr := putHalf64 (s.ring r).msiAddr hi v }
  | .ringMsiData r => if !ringExists r then s else s.setRing r { s.ring r with msiData := v }
  | .telemetryBase d hi => s.writeDie d fun x => { x with telBase := putHalf x.telBase hi v }
  | .journalBase hi => { s with fe := { s.fe with jbase := putHalf s.fe.jbase hi v } }
  | .reserved => s

/-- Half of a 64-bit number, and word `i` of a longer one. -/
def halfOf (x : Nat) (hi : Bool) : W := BitVec.ofNat 32 (if hi then x / 2 ^ 32 else x)
def wordOf (x i : Nat) : W := BitVec.ofNat 32 (x / 2 ^ (32 * i))

/-- Word `i` of bytes that a register window shows: 0 past the last of them. -/
def wordAt (bs : List Byte) (i : Nat) : W := BitVec.ofNat 32 (leNat ((bs.drop (4 * i)).take 4))

/-- Word `w` of a queue's descriptor (R378). -/
def Queue.word (x : Queue) (w : Nat) : W :=
  match w with
  | 0 => halfOf x.ring.toNat false
  | 1 => halfOf x.ring.toNat true
  | 2 => BitVec.ofNat 32 (x.log2size + x.prio * 2 ^ 8 + x.asid.toNat * 2 ^ 16 + x.st * 2 ^ 24)
  | 3 => BitVec.ofNat 32 (x.tickets + x.err * 2 ^ 16)
  | 4 => x.widx
  | 5 => x.ridx
  | 6 => halfOf x.pass.toNat false
  | 7 => halfOf x.pass.toNat true
  | 8 => halfOf x.errpkt.toNat false
  | 9 => halfOf x.errpkt.toNat true
  | _ => 0

/-- A field of a queue's descriptor. -/
def Queue.field (x : Queue) : QField → W
  | .ridx => x.ridx
  | .ringLo => x.word 0
  | .ringHi => x.word 1
  | .log2size => BitVec.ofNat 32 x.log2size
  | .prio => BitVec.ofNat 32 x.prio
  | .asid => x.asid.setWidth 32
  | .err => BitVec.ofNat 32 x.err
  | .errpktLo => x.word 8
  | .errpktHi => x.word 9

/-- Word `w` of a pool's configuration. -/
def Pool.word (p : Pool) (w : Nat) : W :=
  match w with
  | 0 => BitVec.ofNat 32 p.nhome
  | 1 => BitVec.ofNat 32 p.novf
  | 2 => halfOf p.blkpa false
  | 3 => halfOf p.blkpa true
  | 4 => halfOf p.tblpa false
  | 5 => halfOf p.tblpa true
  | 6 => halfOf p.cbpa false
  | 7 => halfOf p.cbpa true
  | 8 => p.svc
  | _ => 0

/-- What a register that can be written reads as; a reserved one reads 0 (R411). -/
def State.readReg (s : State) (r : Reg) : W :=
  match r with
  | .queue q f => (s.queue q).field f
  | .featAcc i => wordOf s.sys.featAcc.toNat i
  | .attNonce i => wordOf s.sys.attNonce.toNat i
  | .apasid => s.sys.apasid.setWidth 32
  | .apbase hi => halfOf s.sys.apbase.toNat hi
  | .plzlim d => (s.die d).plzlim
  | .modid d => (s.die d).modid.setWidth 32
  | .podRoute d m => (vget (s.die d).podRoute m 0).setWidth 32
  | .kvPool d cls w => (vget (s.die d).pools cls {}).word w
  | .pinBudget hi => halfOf s.fe.pinBudget hi
  | .evictBase hi => halfOf s.fe.evictBase hi
  | .withheld c => sgetD s.fe.withheld c 0
  | .root a hi => halfOf (sgetD s.fe.roots a 0).toNat hi
  | .tqErr d => BitVec.ofNat 32 (s.die d).tqErr.toNat
  | .cqErr d => BitVec.ofNat 32 (s.die d).cqErr.toNat
  | .ringMsiAddr r hi => halfOf (s.ring r).msiAddr.toNat hi
  | .ringMsiData r => (s.ring r).msiData
  | .telemetryBase d hi => halfOf (s.die d).telBase hi
  | .journalBase hi => halfOf s.fe.jbase hi
  | .reserved => 0

/-- What a register of BAR0 reads as. TQFREE and CQFREE are the free entries of a die's command queues (R220, R404). -/
def State.readBar (s : State) (r : RReg) : W :=
  match r with
  | .reg r => s.readReg r
  | .bootstat => BitVec.ofNat 32 s.sys.bootstat
  | .featOff i => wordOf s.sys.featOff.toNat i
  | .featStat => BitVec.ofNat 32 s.sys.featStat
  | .aperr => s.sys.aperr
  | .attStat => BitVec.ofNat 32 s.sys.attStat
  | .attRep i => wordAt ((s.sys.attRep.map Report.bytes).getD []) i
  | .attCert i => wordAt s.sys.attCert i
  | .dieMap => s.dieMap.setWidth 32
  | .tqFree d => BitVec.ofNat 32 (32 - ((s.die d).tsyncs.length + (s.die d).tqWaits.length))
  | .cqFree d => BitVec.ofNat 32 (32 - (s.die d).cqUsed)
  | .queueDesc q w => (s.queue q).word w
  | .objEntry d i w => wordOf (sgetD (s.die d).objs i 0).toNat w
  | .rbtok d => (s.die d).rbtok.setWidth 32
  | .fqw r => (s.ring r).fqw
  | .fqr r => (s.ring r).fqr
  | .fqLost r => (s.ring r).lost
  | .corr d => (s.die d).corr
  | .uncorr d => (s.die d).uncorr

/-- The registers of BAR0 whose addresses the spec gives (R410, R412, R413). -/
def barReg (a : Nat) : Option RReg :=
  if a = 0x20 then some .dieMap
  else if 0x100000 ≤ a && a < 0x100010 then some (.featOff ((a - 0x100000) / 4))
  else if 0x100010 ≤ a && a < 0x100020 then some (.reg (.featAcc ((a - 0x100010) / 4)))
  else if a = 0x100024 then some .featStat
  else if 0x200000 ≤ a && a < 0x300000 && a % 4096 < 64 then some (.queueDesc ((a - 0x200000) / 4096) (a % 4096 / 4))
  else none

/-- What an answer leaves of `s`: its next state, where it is one. -/
def leftBy (s : State) (o : Host.Outcome State Fault Refusal) : State :=
  match o with
  | .next t => t
  | _ => s

/-- Write word `w` of the descriptor of queue `q` through BAR0 (R378, R411): each field of the word as a write of its own, STATE
behind the fields that only a DISABLED queue takes (DESIGN CHOICE, log 63). PASS is read-only. -/
def State.writeDesc (s : State) (q w : Nat) (v : W) : State :=
  let part (lo n : Nat) : W := (v.extractLsb' lo n).setWidth 32
  let put (s : State) (f : QField) (v : W) : State := s.writeReg (.queue q f) v
  match w with
  | 0 => put s .ringLo v
  | 1 => put s .ringHi v
  | 2 =>
    let s := put (put (put s .log2size (part 0 8)) .prio (part 8 8)) .asid (part 16 8)
    leftBy s (execQueueStateWrite q (part 24 8) s)
  | 3 => let s := put s .err (part 16 8); leftBy s (execTicketsWrite q (part 0 16) s)
  | 4 => leftBy s (execWidxWrite q v s)
  | 5 => put s .ridx v
  | 8 => put s .errpktLo v
  | 9 => put s .errpktHi v
  | _ => s

/-- A write of 4 bytes to a register of BAR0: what can only be read ignores it. -/
def State.writeBar (s : State) (r : RReg) (v : W) : State :=
  match r with
  | .reg r => s.writeReg r v
  | .queueDesc q w => s.writeDesc q w v
  | .objEntry d i w => leftBy s (execObjectTableWrite d i (putWord (sgetD (s.die d).objs i 0) w v) false s)
  | .rbtok d => leftBy s (execRbtokWrite d v s)
  | .fqr r => leftBy s (execFqrWrite r v s)
  | _ => s

/-- An access to BAR0 (R411): one that is not 4 bytes wide, or not aligned, completes as an unsupported request; a read answers,
and a write is taken as `writeBar` says. `r` is the register at an address that the spec does not give. -/
def barAccess (addr width : Nat) (r : RReg) (wr : Option W) (s : State) : State :=
  let r := (barReg addr).getD r
  if width != 4 || addr % width != 0 then s.modSys fun y => { y with barRead := none }
  else
    match wr with
    | none => s.modSys fun y => { y with barRead := some (s.readBar r) }
    | some v => s.writeBar r v

/-- REGISTER_WRITE: an access that is not 4 bytes wide is an unsupported request (R411). -/
def execRegisterWrite (width : Nat) (r : Reg) (v : W) (s : State) : Host.Outcome State Fault Refusal :=
  .next (if width = 4 then s.writeReg r v else s)

/-! ### Background work (R417) -/

/-- The die whose memory holds a key, if one of the module's does. -/
def keyDie (k : Nat) : Option Nat :=
  if k < 24 * 2 ^ 27 then some (k / 2 ^ 27)
  else if 2 ^ 64 ≤ k && k < 2 ^ 65 && hbmUsable (k - 2 ^ 64) then some ((k - 2 ^ 64) / 2 ^ 39) else none

/-- PATROL_SCRUB: a single-bit error at `key` is corrected, and both kinds are counted; no value changes. -/
def execPatrolScrub (key : Nat) (single : Bool) (s : State) : Host.Outcome State Fault Refusal :=
  match keyDie key with
  | none => .next s
  | some d =>
    if s.isBad key 1 then .next (s.modDie d fun x => { x with uncorr := x.uncorr + 1 })
    else if single then .next (s.modDie d fun x => { x with corr := x.corr + 1 })
    else .next s

/-- TELEMETRY_RECORD. -/
def execTelemetryRecord (die : Nat) (temp current power : W) (s : State) : Host.Outcome State Fault Refusal :=
  if 24 ≤ die || !s.dieUp die then .next s
  else
    let x := s.die die
    let fields := [temp, current, power, x.rbtok.setWidth 32, x.corr, x.uncorr].map (·.toNat)
    let a := x.telBase + 32 * (x.telIdx % (Config.telemetrySize + 1))
    let s := s.modDie die fun x => { x with telIdx := x.telIdx + 1 }
    .next (if x.telBase = 0 || !hbmUsable (a + 31) then s
      else s.put (hbmKey a) ((List.range 32).map (Config.telemetryByte fields)))

/-- LINK_RECALIBRATION: flits are held and none is dropped; only time passes. -/
def execLinkRecalibration (_link : Nat) (s : State) : Host.Outcome State Fault Refusal := .next s

/-! ### Illegal encodings (R39) -/

/-- ILLEGAL_ENCODING: the fetched word, or halfword, is no instruction; E_ILL, and nothing else. -/
def execIllegalEncoding (word : BitVec 32) (wide : Bool) (s : State) : Host.Outcome State Fault Refusal :=
  match s.cur with
  | none => .fault .noIssuer
  | some (c, x) => .next (s.takeFault c x eIll 0 (if wide then word else word &&& 0xffff) 0 0)

/-! ### Wait-on-address (R398) -/

def State.hart (s : State) (h : Nat) : Hart := sgetD s.harts h {}
def State.setHart (s : State) (h : Nat) (x : Hart) : State := { s with harts := sput s.harts h x }

/-- Register `i` of a hart: x0 reads 0. -/
def Hart.reg (x : Hart) (i : Nat) : BitVec 64 := if i = 0 then 0 else vget x.x i 0
/-- Write a register of a hart: x0 discards it. -/
def Hart.setReg (x : Hart) (i : Nat) (v : BitVec 64) : Hart := if i = 0 then x else { x with x := vput x.x i v }

/-- Memory as a hart sees it: with its own stores that have not been performed. -/
def State.seenBy (s : State) (h : Nat) : State :=
  s.flight.foldl (fun t e => match e with
    | .storeDone _ hart a d => if hart = h then t.storeBytes (hbmKey a) d else t
    | _ => t) s

/-- The 8-byte word that a hart reads at a physical address; free where the line holds an uncorrectable error. -/
def State.hartWord (s : State) (h a : Nat) : BitVec 64 :=
  if s.isBad (hbmKey a) 8 then Config.freeWord s.tick 0 ++ Config.freeWord s.tick 1
  else BitVec.ofNat 64 ((s.seenBy h).load (hbmKey a) 8)

/-- A hart at a `zwait` reads the word: it goes on, or parks. -/
def State.zwaitRead (s : State) (h : Nat) (f : Zw) : State :=
  let x := s.hart h
  let a := (x.reg f.rs1.toNat).toNat
  let s := s.touch (hbmKey a) true false
  let w := s.hartWord h a
  if w != x.reg f.rs2.toNat || x.irq then
    s.setHart h { x.setReg f.rd.toNat w with pc := x.pc + 4, parked := none }
  else s.setHart h { x with parked := some (a, f) }

/-- ZWAIT on the hart that executes: a misaligned rs1 raises load-address-misaligned (4), and an address that no memory
has, load access fault (5). -/
def execZwait (f : Zw) (s : State) : Host.Outcome State Fault Refusal :=
  let h := s.curHart
  let x := s.hart h
  let a := x.reg f.rs1.toNat
  if x.parked.isSome || x.trap.isSome then .next s
  else if a.toNat % 8 != 0 then .next (s.setHart h { x with trap := some (4, a) })
  else if !hbmUsable a.toNat then .next (s.setHart h { x with trap := some (5, a) })
  else .next (s.zwaitRead h f)

/-- ZWAIT_RESUME: a parked hart reads its word again. -/
def execZwaitResume (hart : Nat) (s : State) : Host.Outcome State Fault Refusal :=
  match (s.hart hart).parked with
  | none => .next s
  | some (_, f) => .next (s.zwaitRead hart f)

end Sys2Proof.Machine
end

