-- ==== Sys2Proof/Machine/Dispatch.lean ====
section
/-! DEFINITION. Sys2Proof/Machine/Dispatch.lean: the meaning of each instruction and step. -/

namespace Sys2Proof.Machine

def exec (i : Instr) (s : State) : Host.Outcome State Fault Refusal :=
  match i with
  | .powerGood => Sys2Proof.Machine.execPowerGood s
  | .bootRomImageCheck port0 port1 => Sys2Proof.Machine.execBootRomImageCheck port0 port1 s
  | .reducedServiceReached => Sys2Proof.Machine.execReducedServiceReached s
  | .fullFunctionReached good => Sys2Proof.Machine.execFullFunctionReached good s
  | .bootload len => Sys2Proof.Machine.execBootload len s
  | .featcommit v => Sys2Proof.Machine.execFeatcommit v s
  | .attgo v => Sys2Proof.Machine.execAttgo v s
  | .attestationReportReady => Sys2Proof.Machine.execAttestationReportReady s
  | .timeSourceLock src ns => Sys2Proof.Machine.execTimeSourceLock src ns s
  | .timeSourceLoss src => Sys2Proof.Machine.execTimeSourceLoss src s
  | .registerWrite width r v => Sys2Proof.Machine.execRegisterWrite width r v s
  | .hostApertureAccess off n wr => Sys2Proof.Machine.execHostApertureAccess off n wr s
  | .regionTableWrite core idx v => Sys2Proof.Machine.execRegionTableWrite core idx v s
  | .objectTableWrite die idx v firmware => Sys2Proof.Machine.execObjectTableWrite die idx v firmware s
  | .rbtokWrite die v => Sys2Proof.Machine.execRbtokWrite die v s
  | .faultRingBaseWrite r base => Sys2Proof.Machine.execFaultRingBaseWrite r base s
  | .fqrWrite r v => Sys2Proof.Machine.execFqrWrite r v s
  | .thermalBurstHalt die => Sys2Proof.Machine.execThermalBurstHalt die s
  | .thermalHaltLift die => Sys2Proof.Machine.execThermalHaltLift die s
  | .patrolScrub key single => Sys2Proof.Machine.execPatrolScrub key single s
  | .telemetryRecord die temp current power => Sys2Proof.Machine.execTelemetryRecord die temp current power s
  | .linkRecalibration link => Sys2Proof.Machine.execLinkRecalibration link s
  | .contextAged core ctx => Sys2Proof.Machine.execContextAged core ctx s
  | .implicitTrailer core ctx => Sys2Proof.Machine.execImplicitTrailer core ctx s
  | .loadCompletion core acc => Sys2Proof.Machine.execLoadCompletion core acc s
  | .sfuCompletion core op => Sys2Proof.Machine.execSfuCompletion core op s
  | .accessPerformedAtHome core acc line => Sys2Proof.Machine.execAccessPerformedAtHome core acc line s
  | .accessAck core acc line => Sys2Proof.Machine.execAccessAck core acc line s
  | .bridgeCountReport core acc unit => Sys2Proof.Machine.execBridgeCountReport core acc unit s
  | .paramLineFill core ctx => Sys2Proof.Machine.execParamLineFill core ctx s
  | .translationLookupEnd core ctx => Sys2Proof.Machine.execTranslationLookupEnd core ctx s
  | .replay die c => Sys2Proof.Machine.execReplay die c s
  | .cancel die c => Sys2Proof.Machine.execCancel die c s
  | .tsync die c => Sys2Proof.Machine.execTsync die c s
  | .tsyncComplete die op => Sys2Proof.Machine.execTsyncComplete die op s
  | .messageArrival msg => Sys2Proof.Machine.execMessageArrival msg s
  | .msendStatus msg => Sys2Proof.Machine.execMsendStatus msg s
  | .routerPowerDown router => Sys2Proof.Machine.execRouterPowerDown router s
  | .routerWakeSignal router => Sys2Proof.Machine.execRouterWakeSignal router s
  | .routerWakeDone router => Sys2Proof.Machine.execRouterWakeDone router s
  | .objTableRequest pkt => Sys2Proof.Machine.execObjTableRequest pkt s
  | .plazaPacketArrival pkt => Sys2Proof.Machine.execPlazaPacketArrival pkt s
  | .plazaPacketRetry pkt => Sys2Proof.Machine.execPlazaPacketRetry pkt s
  | .waveTimeoutClose core wave => Sys2Proof.Machine.execWaveTimeoutClose core wave s
  | .waveStart core => Sys2Proof.Machine.execWaveStart core s
  | .waveBudgetExceeded core => Sys2Proof.Machine.execWaveBudgetExceeded core s
  | .objReplyArrival reply => Sys2Proof.Machine.execObjReplyArrival reply s
  | .mxCommandRetire core => Sys2Proof.Machine.execMxCommandRetire core s
  | .mxArbiterGrant core => Sys2Proof.Machine.execMxArbiterGrant core s
  | .roundaboutTokenArrival die quad => Sys2Proof.Machine.execRoundaboutTokenArrival die quad s
  | .burstEnd die quad => Sys2Proof.Machine.execBurstEnd die quad s
  | .vregPoolGrant core => Sys2Proof.Machine.execVregPoolGrant core s
  | .copyNodeDone core => Sys2Proof.Machine.execCopyNodeDone core s
  | .barrierPhaseNotify core ctx => Sys2Proof.Machine.execBarrierPhaseNotify core ctx s
  | .finaliserOpen die => Sys2Proof.Machine.execFinaliserOpen die s
  | .finaliserRule die => Sys2Proof.Machine.execFinaliserRule die s
  | .finaliserPass die => Sys2Proof.Machine.execFinaliserPass die s
  | .finaliserSlotRead die => Sys2Proof.Machine.execFinaliserSlotRead die s
  | .finaliserKerbRead die => Sys2Proof.Machine.execFinaliserKerbRead die s
  | .finaliserReopen die => Sys2Proof.Machine.execFinaliserReopen die s
  | .finaliserClose die => Sys2Proof.Machine.execFinaliserClose die s
  | .finaliserKvSlotRead die => Sys2Proof.Machine.execFinaliserKvSlotRead die s
  | .kerbRetry die blk => Sys2Proof.Machine.execKerbRetry die blk s
  | .finaliserCommandRetry cmd => Sys2Proof.Machine.execFinaliserCommandRetry cmd s
  | .slotReplyArrival cmd => Sys2Proof.Machine.execSlotReplyArrival cmd s
  | .kvStExec core => Sys2Proof.Machine.execKvStExec core s
  | .kvLdExec core => Sys2Proof.Machine.execKvLdExec core s
  | .kvVqlutExec core => Sys2Proof.Machine.execKvVqlutExec core s
  | .kvVqscExec core => Sys2Proof.Machine.execKvVqscExec core s
  | .widxWrite q v => Sys2Proof.Machine.execWidxWrite q v s
  | .queueStateWrite q v => Sys2Proof.Machine.execQueueStateWrite q v s
  | .ticketsWrite q v => Sys2Proof.Machine.execTicketsWrite q v s
  | .packetNop q => Sys2Proof.Machine.execPacketNop q s
  | .packetLaunch q => Sys2Proof.Machine.execPacketLaunch q s
  | .launchAdmission q => Sys2Proof.Machine.execLaunchAdmission q s
  | .launchSenior q => Sys2Proof.Machine.execLaunchSenior q s
  | .launchComplete slot => Sys2Proof.Machine.execLaunchComplete slot s
  | .packetCopy q => Sys2Proof.Machine.execPacketCopy q s
  | .copyPacketDone job => Sys2Proof.Machine.execCopyPacketDone job s
  | .packetSignal q => Sys2Proof.Machine.execPacketSignal q s
  | .packetWait q => Sys2Proof.Machine.execPacketWait q s
  | .waitReread q => Sys2Proof.Machine.execWaitReread q s
  | .packetIndirect q => Sys2Proof.Machine.execPacketIndirect q s
  | .packetTimer q => Sys2Proof.Machine.execPacketTimer q s
  | .timerPacketDue q => Sys2Proof.Machine.execTimerPacketDue q s
  | .packetFence q => Sys2Proof.Machine.execPacketFence q s
  | .streamOpen q => Sys2Proof.Machine.execStreamOpen q s
  | .streamTouch q => Sys2Proof.Machine.execStreamTouch q s
  | .streamRetime q => Sys2Proof.Machine.execStreamRetime q s
  | .streamClose q => Sys2Proof.Machine.execStreamClose q s
  | .touchRegisterWrite v => Sys2Proof.Machine.execTouchRegisterWrite v s
  | .streamDue id => Sys2Proof.Machine.execStreamDue id s
  | .streamEvictDone id => Sys2Proof.Machine.execStreamEvictDone id s
  | .streamRestoreStart id => Sys2Proof.Machine.execStreamRestoreStart id s
  | .streamRestoreDone id => Sys2Proof.Machine.execStreamRestoreDone id s
  | .failover => Sys2Proof.Machine.execFailover s
  | .standbyAck => Sys2Proof.Machine.execStandbyAck s
  | .save die c => Sys2Proof.Machine.execSave die c s
  | .saveComplete core => Sys2Proof.Machine.execSaveComplete core s
  | .restore die c => Sys2Proof.Machine.execRestore die c s
  | .kill die c => Sys2Proof.Machine.execKill die c s
  | .resume die c => Sys2Proof.Machine.execResume die c s
  | .handler die c => Sys2Proof.Machine.execHandler die c s
  | .zwaitResume hart => Sys2Proof.Machine.execZwaitResume hart s
  | .illegalEncoding word wide => Sys2Proof.Machine.execIllegalEncoding word wide s
  | .barrierArrivalAtTable cmd => Sys2Proof.Machine.execBarrierArrivalAtTable cmd s
  | .finaliserCommandArrival cmd => Sys2Proof.Machine.execFinaliserCommandArrival cmd s
  | .zwait f => Sys2Proof.Machine.execZwait f s
  | .vmov16 f => Sys2Proof.Machine.execVmov16 f s
  | .vaddI3216 f => Sys2Proof.Machine.execVaddI3216 f s
  | .vsubI3216 f => Sys2Proof.Machine.execVsubI3216 f s
  | .vand16 f => Sys2Proof.Machine.execVand16 f s
  | .vor16 f => Sys2Proof.Machine.execVor16 f s
  | .vxor16 f => Sys2Proof.Machine.execVxor16 f s
  | .vshl16 f => Sys2Proof.Machine.execVshl16 f s
  | .vshr16 f => Sys2Proof.Machine.execVshr16 f s
  | .vmaxI3216 f => Sys2Proof.Machine.execVmaxI3216 f s
  | .vminI3216 f => Sys2Proof.Machine.execVminI3216 f s
  | .vfadd16 f => Sys2Proof.Machine.execVfadd16 f s
  | .vfsub16 f => Sys2Proof.Machine.execVfsub16 f s
  | .vfmul16 f => Sys2Proof.Machine.execVfmul16 f s
  | .vfmax16 f => Sys2Proof.Machine.execVfmax16 f s
  | .vfmin16 f => Sys2Proof.Machine.execVfmin16 f s
  | .vcvtF32I3216 f => Sys2Proof.Machine.execVcvtF32I3216 f s
  | .vaddI32 f => Sys2Proof.Machine.execVaddI32 f s
  | .vsubI32 f => Sys2Proof.Machine.execVsubI32 f s
  | .vmulLo f => Sys2Proof.Machine.execVmulLo f s
  | .vmulhI32 f => Sys2Proof.Machine.execVmulhI32 f s
  | .vmulhN32 f => Sys2Proof.Machine.execVmulhN32 f s
  | .vminI32 f => Sys2Proof.Machine.execVminI32 f s
  | .vmaxI32 f => Sys2Proof.Machine.execVmaxI32 f s
  | .vminN32 f => Sys2Proof.Machine.execVminN32 f s
  | .vmaxN32 f => Sys2Proof.Machine.execVmaxN32 f s
  | .vabsI32 f => Sys2Proof.Machine.execVabsI32 f s
  | .vclz f => Sys2Proof.Machine.execVclz f s
  | .vpopc f => Sys2Proof.Machine.execVpopc f s
  | .vmadLo f => Sys2Proof.Machine.execVmadLo f s
  | .vaddsI32 f => Sys2Proof.Machine.execVaddsI32 f s
  | .vsubsI32 f => Sys2Proof.Machine.execVsubsI32 f s
  | .vmov f => Sys2Proof.Machine.execVmov f s
  | .vand f => Sys2Proof.Machine.execVand f s
  | .vor f => Sys2Proof.Machine.execVor f s
  | .vxor f => Sys2Proof.Machine.execVxor f s
  | .vandn f => Sys2Proof.Machine.execVandn f s
  | .vshl f => Sys2Proof.Machine.execVshl f s
  | .vshr f => Sys2Proof.Machine.execVshr f s
  | .vsra f => Sys2Proof.Machine.execVsra f s
  | .vrol f => Sys2Proof.Machine.execVrol f s
  | .vfadd f => Sys2Proof.Machine.execVfadd f s
  | .vfsub f => Sys2Proof.Machine.execVfsub f s
  | .vfmul f => Sys2Proof.Machine.execVfmul f s
  | .vfmin f => Sys2Proof.Machine.execVfmin f s
  | .vfmax f => Sys2Proof.Machine.execVfmax f s
  | .vfabs f => Sys2Proof.Machine.execVfabs f s
  | .vfneg f => Sys2Proof.Machine.execVfneg f s
  | .vfcpys f => Sys2Proof.Machine.execVfcpys f s
  | .vfma f => Sys2Proof.Machine.execVfma f s
  | .vfms f => Sys2Proof.Machine.execVfms f s
  | .vfnma f => Sys2Proof.Machine.execVfnma f s
  | .vfnms f => Sys2Proof.Machine.execVfnms f s
  | .vhfmaBf16 f => Sys2Proof.Machine.execVhfmaBf16 f s
  | .vhfmaF16 f => Sys2Proof.Machine.execVhfmaF16 f s
  | .vdot2Bf16 f => Sys2Proof.Machine.execVdot2Bf16 f s
  | .vdot2F16 f => Sys2Proof.Machine.execVdot2F16 f s
  | .vcmpEq f => Sys2Proof.Machine.execVcmpEq f s
  | .vcmpNe f => Sys2Proof.Machine.execVcmpNe f s
  | .vcmpLtI32 f => Sys2Proof.Machine.execVcmpLtI32 f s
  | .vcmpGeI32 f => Sys2Proof.Machine.execVcmpGeI32 f s
  | .vcmpLtN32 f => Sys2Proof.Machine.execVcmpLtN32 f s
  | .vcmpGeN32 f => Sys2Proof.Machine.execVcmpGeN32 f s
  | .vcmpTst f => Sys2Proof.Machine.execVcmpTst f s
  | .vfcmpEq f => Sys2Proof.Machine.execVfcmpEq f s
  | .vfcmpNe f => Sys2Proof.Machine.execVfcmpNe f s
  | .vfcmpLt f => Sys2Proof.Machine.execVfcmpLt f s
  | .vfcmpLe f => Sys2Proof.Machine.execVfcmpLe f s
  | .vfcmpGt f => Sys2Proof.Machine.execVfcmpGt f s
  | .vfcmpGe f => Sys2Proof.Machine.execVfcmpGe f s
  | .vfcmpUn f => Sys2Proof.Machine.execVfcmpUn f s
  | .vfcmpOr f => Sys2Proof.Machine.execVfcmpOr f s
  | .vcvtF32I32 f => Sys2Proof.Machine.execVcvtF32I32 f s
  | .vcvtI32F32 f => Sys2Proof.Machine.execVcvtI32F32 f s
  | .vcvp2 f => Sys2Proof.Machine.execVcvp2 f s
  | .vcvp4 f => Sys2Proof.Machine.execVcvp4 f s
  | .vunpk f => Sys2Proof.Machine.execVunpk f s
  | .vcvtF32N32 f => Sys2Proof.Machine.execVcvtF32N32 f s
  | .vcvtN32F32 f => Sys2Proof.Machine.execVcvtN32F32 f s
  | .vcvq f => Sys2Proof.Machine.execVcvq f s
  | .vrcp f => Sys2Proof.Machine.execVrcp f s
  | .vrsqrt f => Sys2Proof.Machine.execVrsqrt f s
  | .vsqrt f => Sys2Proof.Machine.execVsqrt f s
  | .vexp2 f => Sys2Proof.Machine.execVexp2 f s
  | .vlog2 f => Sys2Proof.Machine.execVlog2 f s
  | .vtanh f => Sys2Proof.Machine.execVtanh f s
  | .vsinpi f => Sys2Proof.Machine.execVsinpi f s
  | .vtake f => Sys2Proof.Machine.execVtake f s
  | .vshfl f => Sys2Proof.Machine.execVshfl f s
  | .vshflXor f => Sys2Proof.Machine.execVshflXor f s
  | .vshflUp f => Sys2Proof.Machine.execVshflUp f s
  | .vshflDn f => Sys2Proof.Machine.execVshflDn f s
  | .vred f => Sys2Proof.Machine.execVred f s
  | .vscan f => Sys2Proof.Machine.execVscan f s
  | .vvoteAny f => Sys2Proof.Machine.execVvoteAny f s
  | .vvoteAll f => Sys2Proof.Machine.execVvoteAll f s
  | .vballot f => Sys2Proof.Machine.execVballot f s
  | .vselgt f => Sys2Proof.Machine.execVselgt f s
  | .vtopk f => Sys2Proof.Machine.execVtopk f s
  | .vsort f => Sys2Proof.Machine.execVsort f s
  | .vsel f => Sys2Proof.Machine.execVsel f s
  | .vbcast f => Sys2Proof.Machine.execVbcast f s
  | .vrfa f => Sys2Proof.Machine.execVrfa f s
  | .vlaneid f => Sys2Proof.Machine.execVlaneid f s
  | .vcomp f => Sys2Proof.Machine.execVcomp f s
  | .vdp4s f => Sys2Proof.Machine.execVdp4s f s
  | .vdp4n f => Sys2Proof.Machine.execVdp4n f s
  | .vdp4sn f => Sys2Proof.Machine.execVdp4sn f s
  | .vdp8s f => Sys2Proof.Machine.execVdp8s f s
  | .vdp4sW f => Sys2Proof.Machine.execVdp4sW f s
  | .vldB8 f => Sys2Proof.Machine.execVldB8 f s
  | .vldI8 f => Sys2Proof.Machine.execVldI8 f s
  | .vldH16 f => Sys2Proof.Machine.execVldH16 f s
  | .vldI16 f => Sys2Proof.Machine.execVldI16 f s
  | .vldW32 f => Sys2Proof.Machine.execVldW32 f s
  | .vldX2 f => Sys2Proof.Machine.execVldX2 f s
  | .vldX4 f => Sys2Proof.Machine.execVldX4 f s
  | .vldF16 f => Sys2Proof.Machine.execVldF16 f s
  | .vstB8 f => Sys2Proof.Machine.execVstB8 f s
  | .vstH16 f => Sys2Proof.Machine.execVstH16 f s
  | .vstW32 f => Sys2Proof.Machine.execVstW32 f s
  | .vstX2 f => Sys2Proof.Machine.execVstX2 f s
  | .vstX4 f => Sys2Proof.Machine.execVstX4 f s
  | .vstF16 f => Sys2Proof.Machine.execVstF16 f s
  | .vatomAdd f => Sys2Proof.Machine.execVatomAdd f s
  | .vatomFadd f => Sys2Proof.Machine.execVatomFadd f s
  | .vatomMinI32 f => Sys2Proof.Machine.execVatomMinI32 f s
  | .vatomMaxI32 f => Sys2Proof.Machine.execVatomMaxI32 f s
  | .vatomAnd f => Sys2Proof.Machine.execVatomAnd f s
  | .vatomOr f => Sys2Proof.Machine.execVatomOr f s
  | .vatomXchg f => Sys2Proof.Machine.execVatomXchg f s
  | .vatomCas f => Sys2Proof.Machine.execVatomCas f s
  | .sldW f => Sys2Proof.Machine.execSldW f s
  | .sldH f => Sys2Proof.Machine.execSldH f s
  | .sldB f => Sys2Proof.Machine.execSldB f s
  | .sstW f => Sys2Proof.Machine.execSstW f s
  | .sstH f => Sys2Proof.Machine.execSstH f s
  | .sstB f => Sys2Proof.Machine.execSstB f s
  | .satomAdd f => Sys2Proof.Machine.execSatomAdd f s
  | .satomCas f => Sys2Proof.Machine.execSatomCas f s
  | .sadd f => Sys2Proof.Machine.execSadd f s
  | .saddImm f => Sys2Proof.Machine.execSaddImm f s
  | .ssub f => Sys2Proof.Machine.execSsub f s
  | .ssubImm f => Sys2Proof.Machine.execSsubImm f s
  | .smul f => Sys2Proof.Machine.execSmul f s
  | .smulImm f => Sys2Proof.Machine.execSmulImm f s
  | .smulh f => Sys2Proof.Machine.execSmulh f s
  | .smulhImm f => Sys2Proof.Machine.execSmulhImm f s
  | .sand f => Sys2Proof.Machine.execSand f s
  | .sandImm f => Sys2Proof.Machine.execSandImm f s
  | .sor f => Sys2Proof.Machine.execSor f s
  | .sorImm f => Sys2Proof.Machine.execSorImm f s
  | .sxor f => Sys2Proof.Machine.execSxor f s
  | .sxorImm f => Sys2Proof.Machine.execSxorImm f s
  | .sshl f => Sys2Proof.Machine.execSshl f s
  | .sshlImm f => Sys2Proof.Machine.execSshlImm f s
  | .sshr f => Sys2Proof.Machine.execSshr f s
  | .sshrImm f => Sys2Proof.Machine.execSshrImm f s
  | .ssra f => Sys2Proof.Machine.execSsra f s
  | .ssraImm f => Sys2Proof.Machine.execSsraImm f s
  | .sminI32 f => Sys2Proof.Machine.execSminI32 f s
  | .sminI32Imm f => Sys2Proof.Machine.execSminI32Imm f s
  | .smaxI32 f => Sys2Proof.Machine.execSmaxI32 f s
  | .smaxI32Imm f => Sys2Proof.Machine.execSmaxI32Imm f s
  | .sminN32 f => Sys2Proof.Machine.execSminN32 f s
  | .sminN32Imm f => Sys2Proof.Machine.execSminN32Imm f s
  | .smaxN32 f => Sys2Proof.Machine.execSmaxN32 f s
  | .smaxN32Imm f => Sys2Proof.Machine.execSmaxN32Imm f s
  | .sdivN32 f => Sys2Proof.Machine.execSdivN32 f s
  | .sdivN32Imm f => Sys2Proof.Machine.execSdivN32Imm f s
  | .sremN32 f => Sys2Proof.Machine.execSremN32 f s
  | .sremN32Imm f => Sys2Proof.Machine.execSremN32Imm f s
  | .sli f => Sys2Proof.Machine.execSli f s
  | .slui f => Sys2Proof.Machine.execSlui f s
  | .amk f => Sys2Proof.Machine.execAmk f s
  | .aadd f => Sys2Proof.Machine.execAadd f s
  | .asub f => Sys2Proof.Machine.execAsub f s
  | .amul f => Sys2Proof.Machine.execAmul f s
  | .ashl f => Sys2Proof.Machine.execAshl f s
  | .ashr f => Sys2Proof.Machine.execAshr f s
  | .aget f => Sys2Proof.Machine.execAget f s
  | .a2v f => Sys2Proof.Machine.execA2v f s
  | .kand f => Sys2Proof.Machine.execKand f s
  | .kor f => Sys2Proof.Machine.execKor f s
  | .kxor f => Sys2Proof.Machine.execKxor f s
  | .kandn f => Sys2Proof.Machine.execKandn f s
  | .knot f => Sys2Proof.Machine.execKnot f s
  | .kmov f => Sys2Proof.Machine.execKmov f s
  | .kpop f => Sys2Proof.Machine.execKpop f s
  | .kfirst f => Sys2Proof.Machine.execKfirst f s
  | .beq f => Sys2Proof.Machine.execBeq f s
  | .bne f => Sys2Proof.Machine.execBne f s
  | .blt f => Sys2Proof.Machine.execBlt f s
  | .bge f => Sys2Proof.Machine.execBge f s
  | .bltN f => Sys2Proof.Machine.execBltN f s
  | .bgeN f => Sys2Proof.Machine.execBgeN f s
  | .bkany f => Sys2Proof.Machine.execBkany f s
  | .bkall f => Sys2Proof.Machine.execBkall f s
  | .jmp f => Sys2Proof.Machine.execJmp f s
  | .call f => Sys2Proof.Machine.execCall f s
  | .nop f => Sys2Proof.Machine.execNop f s
  | .endrun f => Sys2Proof.Machine.execEndrun f s
  | .regang f => Sys2Proof.Machine.execRegang f s
  | .exit f => Sys2Proof.Machine.execExit f s
  | .ret f => Sys2Proof.Machine.execRet f s
  | .jr f => Sys2Proof.Machine.execJr f s
  | .trap f => Sys2Proof.Machine.execTrap f s
  | .brk f => Sys2Proof.Machine.execBrk f s
  | .yield f => Sys2Proof.Machine.execYield f s
  | .kuse f => Sys2Proof.Machine.execKuse f s
  | .setpt f => Sys2Proof.Machine.execSetpt f s
  | .isync f => Sys2Proof.Machine.execIsync f s
  | .rdctl f => Sys2Proof.Machine.execRdctl f s
  | .wrctl f => Sys2Proof.Machine.execWrctl f s
  | .elect f => Sys2Proof.Machine.execElect f s
  | .wfetch f => Sys2Proof.Machine.execWfetch f s
  | .wphase f => Sys2Proof.Machine.execWphase f s
  | .prm f => Sys2Proof.Machine.execPrm f s
  | .brld f => Sys2Proof.Machine.execBrld f s
  | .brset f => Sys2Proof.Machine.execBrset f s
  | .grow f => Sys2Proof.Machine.execGrow f s
  | .shrink f => Sys2Proof.Machine.execShrink f s
  | .rshare f => Sys2Proof.Machine.execRshare f s
  | .runshare f => Sys2Proof.Machine.execRunshare f s
  | .feClr f => Sys2Proof.Machine.execFeClr f s
  | .feSet f => Sys2Proof.Machine.execFeSet f s
  | .fence f => Sys2Proof.Machine.execFence f s
  | .fenceX f => Sys2Proof.Machine.execFenceX f s
  | .barInit f => Sys2Proof.Machine.execBarInit f s
  | .barJoin f => Sys2Proof.Machine.execBarJoin f s
  | .barArr f => Sys2Proof.Machine.execBarArr f s
  | .barWait f => Sys2Proof.Machine.execBarWait f s
  | .barSync f => Sys2Proof.Machine.execBarSync f s
  | .barLeave f => Sys2Proof.Machine.execBarLeave f s
  | .barFree f => Sys2Proof.Machine.execBarFree f s
  | .mxLb f => Sys2Proof.Machine.execMxLb f s
  | .mxMma f => Sys2Proof.Machine.execMxMma f s
  | .mxZero f => Sys2Proof.Machine.execMxZero f s
  | .mxSt f => Sys2Proof.Machine.execMxSt f s
  | .mxRmax f => Sys2Proof.Machine.execMxRmax f s
  | .mxRd f => Sys2Proof.Machine.execMxRd f s
  | .mxWr f => Sys2Proof.Machine.execMxWr f s
  | .cbld f => Sys2Proof.Machine.execCbld f s
  | .accGet f => Sys2Proof.Machine.execAccGet f s
  | .accRel f => Sys2Proof.Machine.execAccRel f s
  | .mxLic f => Sys2Proof.Machine.execMxLic f s
  | .mxWait f => Sys2Proof.Machine.execMxWait f s
  | .mxUnlic f => Sys2Proof.Machine.execMxUnlic f s
  | .gnCp f => Sys2Proof.Machine.execGnCp f s
  | .gnMx f => Sys2Proof.Machine.execGnMx f s
  | .gnWk f => Sys2Proof.Machine.execGnWk f s
  | .gnEdge f => Sys2Proof.Machine.execGnEdge f s
  | .gnArm f => Sys2Proof.Machine.execGnArm f s
  | .gnWait f => Sys2Proof.Machine.execGnWait f s
  | .gnKill f => Sys2Proof.Machine.execGnKill f s
  | .gnFree f => Sys2Proof.Machine.execGnFree f s
  | .msend f => Sys2Proof.Machine.execMsend f s
  | .mrecv f => Sys2Proof.Machine.execMrecv f s
  | .mcancel f => Sys2Proof.Machine.execMcancel f s
  | .mprobe f => Sys2Proof.Machine.execMprobe f s
  | .objCall f => Sys2Proof.Machine.execObjCall f s
  | .objCallv f => Sys2Proof.Machine.execObjCallv f s
  | .objReply f => Sys2Proof.Machine.execObjReply f s
  | .objDone f => Sys2Proof.Machine.execObjDone f s
  | .objFail f => Sys2Proof.Machine.execObjFail f s
  | .slotOpen f => Sys2Proof.Machine.execSlotOpen f s
  | .slotRule f => Sys2Proof.Machine.execSlotRule f s
  | .slotPass f => Sys2Proof.Machine.execSlotPass f s
  | .slotSt f => Sys2Proof.Machine.execSlotSt f s
  | .slotKerb f => Sys2Proof.Machine.execSlotKerb f s
  | .slotReopen f => Sys2Proof.Machine.execSlotReopen f s
  | .slotClose f => Sys2Proof.Machine.execSlotClose f s
  | .kvMap f => Sys2Proof.Machine.execKvMap f s
  | .kvUnpin f => Sys2Proof.Machine.execKvUnpin f s
  | .kvSt f => Sys2Proof.Machine.execKvSt f s
  | .kvFork f => Sys2Proof.Machine.execKvFork f s
  | .kvDrop f => Sys2Proof.Machine.execKvDrop f s
  | .kvLd f => Sys2Proof.Machine.execKvLd f s
  | .kvVqlut f => Sys2Proof.Machine.execKvVqlut f s
  | .kvVqsc f => Sys2Proof.Machine.execKvVqsc f s
  | .kvHad f => Sys2Proof.Machine.execKvHad f s

end Sys2Proof.Machine
end

