-- ==== Sys2Proof/Machine/Events.lean ====
section
/-! DEFINITION. Sys2Proof/Machine/Events.lean: what can happen beside the rows of the opcode table: the stores of harts and
their command windows (R220, R404), the policy cores' TCM (R13, R399), and the meaning of every event; and the order that the
spec gives events of one cycle (R262, R275, R286, R324, R329, R342, R379, R394). -/

namespace Sys2Proof.Machine

/-! ### Harts (R220, R224, R404) -/

/-- The die of a hart. -/
def hartDie (h : Nat) : Nat := h / 4

/-- A hart stores bytes at a physical address; one that no memory has is not stored to (log 7). -/
def hartStore (hart addr : Nat) (data : List Byte) (s : State) : State :=
  if 96 ≤ hart || data.isEmpty || !hbmUsable addr || !hbmUsable (addr + data.length - 1) then s
  else { s with flight := s.flight ++ [.storeDone s.nextId hart addr data], nextId := s.nextId + 1 }

/-- An earlier store of the same hart to one of these bytes has not been performed. -/
def State.storeBehind (s : State) (n hart addr : Nat) (data : List Byte) : Bool :=
  s.flight.any fun e => match e with
    | .storeDone m h a d => m < n && h == hart && rangesMeet a d.length addr data.length
    | _ => false

/-- A store of a hart is performed. -/
def storeDone (n hart addr : Nat) (data : List Byte) (s : State) : State :=
  if s.storeBehind n hart addr data || !s.flight.contains (.storeDone n hart addr data) then s
  else { s with flight := s.flight.erase (.storeDone n hart addr data) }.put (hbmKey addr) data

/-- A hart executes a FENCE: it goes on when its earlier stores have been performed at their homes, as after a fence of scope
`.pkg` or `.pod` (R249, log 7). -/
def hartFence (hart : Nat) (s : State) : State :=
  if (s.hartStores hart).isEmpty then s else { s with flight := s.flight ++ [.hartFenceDone hart] }

/-- The stores before a FENCE have been performed. -/
def hartFenceDone (hart : Nat) (s : State) : State :=
  if (s.hartStores hart).isEmpty then { s with flight := s.flight.erase (.hartFenceDone hart) } else s

/-- A list of bytes with others at an offset. -/
def setBytes (l : List Byte) (off : Nat) (data : List Byte) : List Byte :=
  l.take off ++ data ++ l.drop (off + data.length)

/-- A hart writes bytes of the submission window of its die's translation or crew command queue. -/
def windowWrite (hart : Nat) (crew : Bool) (off : Nat) (data : List Byte) (s : State) : State :=
  if 96 ≤ hart || !s.dieUp (hartDie hart) || 32 < off + data.length then s
  else s.modDie (hartDie hart) fun d =>
    if crew then { d with cqWin := setBytes d.cqWin off data } else { d with tqWin := setBytes d.tqWin off data }

/-- The translation command in a window (R220). -/
def tcmdOf (bs : List Byte) : TCmd :=
  let f (off n : Nat) : Nat := bytesNat bs off n
  { asid := BitVec.ofNat 8 (f 1 1), core := BitVec.ofNat 16 (f 2 2), seq := BitVec.ofNat 32 (f 4 4),
    count := BitVec.ofNat 32 (f 8 4), tag := BitVec.ofNat 32 (f 0xc 4), va := BitVec.ofNat 48 (f 0x10 6),
    done := BitVec.ofNat 64 (f 0x18 8), resv := !zeroAt bs 0x16 2 }

/-- The crew command in a window (R404). -/
def ccmdOf (bs : List Byte) : CCmd :=
  let f (off n : Nat) : Nat := bytesNat bs off n
  { crews := BitVec.ofNat 8 (f 1 1), core := BitVec.ofNat 16 (f 2 2), gangs := BitVec.ofNat 16 (f 4 2),
    addr := BitVec.ofNat 64 (f 8 8), tag := BitVec.ofNat 32 (f 0x10 4), done := BitVec.ofNat 64 (f 0x18 8),
    resv := !zeroAt bs 6 2 || !zeroAt bs 0x14 4 }

/-- A translation command is submitted; an unknown OP ends BADCMD (R221). -/
def submitT (die op : Nat) (t : TCmd) (s : State) : Host.Outcome State Fault Refusal :=
  match op with
  | 1 => exec (.replay die t) s
  | 2 => exec (.cancel die t) s
  | 3 => exec (.tsync die t) s
  | _ => .next (if s.tqFull die then s.discardT die else s.doneWord t.done.toNat t.tag 1)

/-- A crew command is submitted; an unknown OP ends BADCMD (R404). -/
def submitC (die op : Nat) (t : CCmd) (s : State) : Host.Outcome State Fault Refusal :=
  match op with
  | 1 => exec (.save die t) s
  | 2 => exec (.restore die t) s
  | 3 => exec (.kill die t) s
  | 4 => exec (.resume die t) s
  | 5 => exec (.handler die t) s
  | _ => crewCommand die s fun s => s.endCrewCmd t 1

/-- A hart writes the doorbell of its die's translation or crew command queue: 1 submits what stands in the window. -/
def doorbell (hart : Nat) (crew : Bool) (v : W) (s : State) : Host.Outcome State Fault Refusal :=
  if 96 ≤ hart || !s.dieUp (hartDie hart) || v != 1 then .next s
  else
    let d := s.die (hartDie hart)
    let s := { s with curHart := hart }
    if crew then submitC (hartDie hart) (bytesNat d.cqWin 0 1) (ccmdOf d.cqWin) s
    else submitT (hartDie hart) (bytesNat d.tqWin 0 1) (tcmdOf d.tqWin) s

/-! ### The TCM of the policy cores (R13, R399) -/

def State.modPolicy (s : State) (core : Nat) (f : PolicyCore → PolicyCore) : State :=
  { s with fe := { s.fe with policy := vput s.fe.policy core (f (vget s.fe.policy core {})) } }

/-- The bytes of a TCM with one written. -/
def tcmPut (m : Store Byte) (off : Nat) (b : Byte) : Store Byte := if b = 0 then sdel m off else sput m off b

/-- A policy core writes its TCM. A word of 8 bytes that the write covers whole is correct again, as one of R193 is (log 64). -/
def tcmWrite (core off : Nat) (data : List Byte) (s : State) : State :=
  if 2 ≤ core || 2 ^ 18 < off + data.length then s
  else s.modPolicy core fun p =>
    { tcm := ((List.range data.length).zip data).foldl (fun m e => tcmPut m (off + e.1) e.2) p.tcm
      bad := p.bad.filter fun w => !(off ≤ 8 * w && 8 * w + 8 ≤ off + data.length) }

/-- An uncorrectable error arises in the TCM of a policy core. -/
def tcmError (core off : Nat) (s : State) : State :=
  if 2 ≤ core || 2 ^ 18 ≤ off then s else s.modPolicy core fun p => { p with bad := insNat (off / 8) p.bad }

/-- A policy core reads its TCM: the trap of the acting one on an uncorrectable error asserts FAILOVER (R399). -/
def tcmRead (core off : Nat) (s : State) : Host.Outcome State Fault Refusal :=
  if core = s.fe.acting && (vget s.fe.policy core {}).bad.contains (off / 8) then exec .failover s else .next s

/-! ### Events -/

/-- What an event does. -/
def act (e : Event) (s : State) : Host.Outcome State Fault Refusal :=
  match e with
  | .op i => exec i s
  | .bridgeAccept core acc line => .next (bridgeAccept core acc line s)
  | .payloadRead msg piece => .next (payloadRead msg piece s)
  | .hartStore hart addr data => .next (hartStore hart addr data s)
  | .storeDone n hart addr data => .next (storeDone n hart addr data s)
  | .hartFence hart => .next (hartFence hart s)
  | .hartFenceDone hart => .next (hartFenceDone hart s)
  | .window hart crew off data => .next (windowWrite hart crew off data s)
  | .doorbell hart crew v => doorbell hart crew v s
  | .barAccess addr width r wr => .next (barAccess addr width r wr s)
  | .msixWrite v x => .next (msixWrite v x s)
  | .closeForced die blk => .next (closeForced die blk s)
  | .tcmWrite core off data => .next (tcmWrite core off data s)
  | .tcmError core off => .next (tcmError core off s)
  | .tcmRead core off => tcmRead core off s
  | .retryArrives die blk => .next (retryArrives die blk s)
  | .indirectEnd q num => .next (indirectEnd q num s)
  | .streamGo id => .next (streamGo id s)

/-! ### The order of one cycle

A place is a unit at which the spec orders the events of one cycle, and a rank is an event's position there. An event acts only
where no event of a higher rank has acted at its place in this cycle; else it comes in a later cycle. -/

/-- The places: the message unit and the plaza queue of a core, the graphs of a core, the objects and the finaliser of a die, an
entry of a barrier table and the `bar.init` at it, a command queue, a stream context, and a line of HBM by a key in it, at which
every read of the cycle notes its rank of 1 (`noteRead`). -/
inductive Spot where
  | msgs (core : Nat)
  | plaza (core : Nat)
  | graph (core : Nat)
  | objects (die : Nat)
  | finaliser (die : Nat)
  | barrier (key : Nat)
  | barInit (key : Nat)
  | queue (q : Nat)
  | stream (id : Nat)
  | line (key : Nat)
  deriving DecidableEq, Repr

/-- The key of a place in `State.turns`. -/
def Spot.code : Spot → Nat
  | .msgs c => 16 * c
  | .plaza c => 16 * c + 1
  | .graph c => 16 * c + 2
  | .objects d => 16 * d + 3
  | .finaliser d => 16 * d + 4
  | .barrier k => 16 * k + 5
  | .barInit k => 16 * k + 6
  | .queue q => 16 * q + 7
  | .stream i => 16 * i + 8
  | .line k => lineSpot k

/-- A barrier command at its table (R329): arrivals, then leaves, then `bar.init`, `bar.join` and `bar.free`; two `bar.init` by
core and gang. -/
def BarCmd.turn (m : BarCmd) : List (Spot × Nat) :=
  match m.op with
  | 0 => [(.barrier m.key, 3), (.barInit m.key, 16 * m.core + m.ctx % 16)]
  | 1 => [(.barrier m.key, 3)]
  | 3 => []
  | 5 => [(.barrier m.key, 2)]
  | 6 => [(.barrier m.key, 3)]
  | _ => [(.barrier m.key, 1)]

/-- The end of gangs of a core at the barriers of which they are members (R329). -/
def State.endTurn (s : State) (c : Nat) (p : Nat → Bool) : List (Spot × Nat) :=
  (s.barriers.filter fun b => b.2.members.any fun m => m.core == c && p m.ctx).map fun b => (.barrier b.1, 2)

/-- A crew command, by OP: KILL ends gangs. -/
def State.crewTurn (s : State) (op : Nat) (t : CCmd) : List (Spot × Nat) :=
  if op = 3 then s.endTurn (coreOf t.core.toNat) fun x => bit t.crews (crewSlot x) else []

/-- A translation command, by OP: REPLAY and CANCEL may end a copy node (R324). -/
def tcmdTurn (op : Nat) (t : TCmd) : List (Spot × Nat) := if op = 1 ∨ op = 2 then [(.graph (coreOf t.core.toNat), 0)] else []

/-- The command that a doorbell submits. -/
def State.doorbellTurn (s : State) (hart : Nat) (crew : Bool) : List (Spot × Nat) :=
  let d := s.die (hartDie hart)
  if crew then s.crewTurn (bytesNat d.cqWin 0 1) (ccmdOf d.cqWin) else tcmdTurn (bytesNat d.tqWin 0 1) (tcmdOf d.tqWin)

/-- A command reaches its finaliser (R342): by source core, gang, issue slot and the order of issue, with the slot reads of `kv.st`
behind the instructions of their gang. -/
def FinCmd.turn (m : FinCmd) (n : Nat) : List (Spot × Nat) :=
  let kv : Nat := match m.op with
    | .kvRead _ => 1
    | _ => 0
  [(.finaliser m.die, (((m.core * 16 + m.ctx % 16) * 2 + kv) * 4 + m.slot) * 2 ^ 64 + n % 2 ^ 64)]

/-- The stream context that the head packet of a queue names. -/
def State.headStream (s : State) (q : Nat) : Nat :=
  match (s.headBytes q).2 with
  | some bs => bytesNat bs 0x1c 4
  | none => 0

/-- A store to bytes at keys: in the order of one line of HBM it comes before the loads and walk reads of the cycle (R216). Of two
stores either may come first: the spec does not number the request ports (log 1). -/
def writeTurn (ks : List Nat) : List (Spot × Nat) :=
  (ks.filter fun k => 2 ^ 64 ≤ k && k < 2 ^ 65).map fun k => (.line k, 0)

/-- The keys of the bytes that the line of a store or atomic writes. -/
def State.lineKeys (s : State) (c n i : Nat) : List Nat :=
  match s.acc c n with
  | some a => if a.op == .load then [] else (a.lines[i]?.map (·.key)).toList
  | none => []

/-- The keys of the bytes that the copy engine of a core writes next. -/
def State.copyKeys (s : State) (c : Nat) : List Nat :=
  match (s.copyHead c).bind fun p => s.copyCmd c p.1 p.2 with
  | some (_, cmd) => if cmd.pf.isNone && cmd.done < cmd.n then s.copyInto c cmd else []
  | none => []

/-- The places of an event of a unit, with its ranks there. -/
def State.turnOf (s : State) (e : Event) : List (Spot × Nat) :=
  let packet (q : Nat) : List (Spot × Nat) := [(.queue q, 0)]
  let stream (q : Nat) : List (Spot × Nat) := [(.queue q, 0), (.stream (s.headStream q), 0)]
  match e with
  | .op i => match i with
    | .messageArrival n => match sget s.msgs n with
      | some m => [(.msgs m.dst, m.src)]
      | none => []
    | .objTableRequest n => match sget s.pkts n with
      | some p => [(.objects (p.obj.toNat / 4096 % 32), 0)]
      | none => []
    | .plazaPacketArrival n => match (sget s.pkts n).bind fun p => p.home.map fun h => (p.core, h) with
      | some (src, h) => [(.plaza h, src), (.objects (dieOf h), 0)]
      | none => []
    | .waveTimeoutClose c _ => [(.plaza c, 2048)]
    | .waveStart c => [(.plaza c, 2049), (.objects (dieOf c), 0)]
    | .objectTableWrite d _ _ _ => [(.objects d, 1)]
    | .barrierArrivalAtTable n => match sget s.barCmds n with
      | some m => m.turn
      | none => []
    | .barrierPhaseNotify c x => match s.barCmd c x with
      | some (_, m) => m.turn
      | none => []
    | .kill _ t => s.crewTurn 3 t
    | .replay _ t => tcmdTurn 1 t
    | .cancel _ t => tcmdTurn 2 t
    | .copyNodeDone c => (.graph c, 0) :: writeTurn (s.copyKeys c)
    | .accessPerformedAtHome c n i => writeTurn (s.lineKeys c n i)
    | .mxCommandRetire c => match s.mxHead c with
      | some m => [(.graph m.core, 0)]
      | none => []
    | .finaliserCommandArrival n => match sget s.fins n with
      | some m => m.turn n
      | none => []
    | .widxWrite q _ => [(.queue q, 1)]
    | .packetNop q => packet q
    | .packetLaunch q => packet q
    | .launchAdmission q => packet q
    | .packetCopy q => packet q
    | .packetSignal q => packet q
    | .packetWait q => packet q
    | .waitReread q => packet q
    | .packetIndirect q => packet q
    | .packetTimer q => packet q
    | .timerPacketDue q => packet q
    | .packetFence q => packet q
    | .streamOpen q => stream q
    | .streamTouch q => stream q
    | .streamRetime q => stream q
    | .streamClose q => stream q
    | .streamDue id => [(.stream id, 1)]
    | _ => []
  | .doorbell hart crew v => if v = 1 then s.doorbellTurn hart crew else []
  | .storeDone _ _ a d => writeTurn ((List.range d.length).map fun i => hbmKey (a + i))
  | .retryArrives d b => [(.finaliser d, 2 ^ 96 + b)]
  | .barAccess addr _ r (some _) => match (barReg addr).getD r with
    | .queueDesc q 4 => [(.queue q, 1)]
    | .objEntry d _ _ => [(.objects d, 1)]
    | _ => []
  | _ => []

/-- The rank of an instruction that gang `x` of core `c` issues, at the places that order it: at the message unit behind the
arrivals (R262), at a graph (R324), and at the barriers of a gang that ends (R329). -/
def State.issueTurn (s : State) (c x : Nat) (i : Instr) : List (Spot × Nat) :=
  match i with
  | .mcancel _ => [(.msgs c, 2048)]
  | .mrecv _ => [(.msgs c, 2049)]
  | .mprobe _ => [(.msgs c, 2049)]
  | .gnKill _ => [(.graph c, 1)]
  | .gnArm _ => [(.graph c, 2)]
  | .gnEdge _ => [(.graph c, 3)]
  | .gnFree _ => [(.graph c, 4)]
  | .exit _ => s.endTurn c (· == x)
  | _ => []

/-- No event of a higher rank has acted in this cycle at these places. -/
def State.inTurn (s : State) (l : List (Spot × Nat)) : Bool := l.all fun p => sgetD s.turns p.1.code 0 ≤ p.2

/-- The ranks of an event that acts. -/
def State.noteTurn (s : State) (l : List (Spot × Nat)) : State :=
  { s with turns := l.foldl (fun m p => sput m p.1.code (max p.2 (sgetD m p.1.code 0))) s.turns }

/-- An event acts in its turn. -/
def State.actInTurn (s : State) (e : Event) : Host.Outcome State Fault Refusal := act e (s.noteTurn (s.turnOf e))

end Sys2Proof.Machine
end

