-- ==== Sys2Proof/Machine/Schedule.lean ====
section
/-! DEFINITION. Sys2Proof/Machine/Schedule.lean: what comes next: the steps that are due, those that could come, the
choice among them (log 1), the scheduler of a core (R63 to R68, R75), fetching (R23, R94, R213, R214), and the end of a
cycle. -/

namespace Sys2Proof.Machine

/-! ### Steps of units -/

/-- The event may act now and changes the state. -/
def State.changes (s : State) (e : Event) : Bool :=
  s.inTurn (s.turnOf e) &&
    match act e s with
    | .next t => t != s
    | _ => false

/-- The steps of units and instructions of the table as events. -/
def ops (l : List Instr) : List Event := l.map .op

/-- The events of a core that its state could call for. -/
def coreEvents (c : Nat) (k : Core) : List Event :=
  (k.accs.flatMap fun p =>
    ((List.range p.2.lines.length).flatMap fun i =>
      [.bridgeAccept c p.1 i, .op (.accessPerformedAtHome c p.1 i), .op (.accessAck c p.1 i)]) ++
    p.2.marked.map (fun u => .op (.bridgeCountReport c p.1 u)) ++ (if p.2.allDone then [.op (.loadCompletion c p.1)] else [])) ++
  ops (
    (k.gangs.flatMap fun p => (if p.2.look.isSome then [.translationLookupEnd c p.1] else []) ++ [.paramLineFill c p.1]) ++
    (if k.poolQ.isEmpty then [] else [.vregPoolGrant c]) ++
    (if k.copyQ.isEmpty then [] else [.copyNodeDone c]) ++
    (if k.mx.q.isEmpty then [] else [.mxCommandRetire c]) ++
    (if k.mx.waits.isEmpty then [] else [.mxArbiterGrant c]) ++
    (match k.kvQ.find? fun m => m.ans.isNone with
      | none => []
      | some m => match m.op with
        | .st => [.kvStExec c]
        | .ld => [.kvLdExec c]
        | .vqlut => [.kvVqlutExec c]
        | .vqsc => [.kvVqscExec c]) ++
    (if k.crews.any fun p => p.2.saving.isSome then [.saveComplete c] else []))

/-- The step of the finaliser for a command at the head of its queue. -/
def finStep (d : Nat) : FinOp → Instr
  | .open _ => .finaliserOpen d
  | .rule _ => .finaliserRule d
  | .pass _ _ => .finaliserPass d
  | .slotRead _ => .finaliserSlotRead d
  | .kerb => .finaliserKerbRead d
  | .reopen _ => .finaliserReopen d
  | .close => .finaliserClose d
  | .kvRead _ => .finaliserKvSlotRead d

/-- The events of a die. -/
def State.dieEvents (s : State) (d : Nat) (x : Die) : List Event :=
  ops (
    (x.tsyncs.map fun p => .tsyncComplete d p.1) ++
    (match s.finHead d with
      | none => []
      | some (_, m) => [finStep d m.op]) ++
    (match x.finQ.head? with
      | some (.retry b) => [.kerbRetry d b]
      | _ => []) ++
    ((List.range 16).filterMap fun q => if s.quadStops d q then some (.roundaboutTokenArrival d q) else none))

/-- The events of messages, requests, replies and commands on their way. -/
def State.wireEvents (s : State) : List Event :=
  (s.msgs.flatMap fun p =>
    if p.2.status.isSome then [.op (.msendStatus p.1)]
    else (List.range p.2.pieces).map (fun i => .payloadRead p.1 i) ++ [.op (.messageArrival p.1)]) ++
  ops (
    (s.barCmds.flatMap fun p => [.barrierArrivalAtTable p.1, .barrierPhaseNotify p.2.core p.2.ctx]) ++
    (s.pkts.flatMap fun p =>
      if p.2.home.isNone then [.objTableRequest p.1]
      else if p.2.tried.isSome then [.plazaPacketRetry p.1] else [.plazaPacketArrival p.1]) ++
    (s.replies.map fun p => .objReplyArrival p.1) ++
    (s.fins.filterMap fun p => match p.2.place with
      | 0 => some (.finaliserCommandArrival p.1)
      | 2 => some (.finaliserCommandRetry p.1)
      | 3 => some (.slotReplyArrival p.1)
      | _ => none))

/-- The routers of the module's two meshes. -/
def routerCount : Nat := 3072

/-- The events of routers (R256). Of those that may power down, the step counter names the one that could do so now (log 5). -/
def State.routerEvents (s : State) : List Event :=
  ops ((if s.mayPowerDown (s.tick % routerCount) then [.routerPowerDown (s.tick % routerCount)] else []) ++
    s.wakes.map .routerWakeSignal ++
    (s.routers.filterMap fun p => if p.2.waking.isSome then some (.routerWakeDone p.1) else none))

/-- The step that takes up a packet of a kind. -/
def packetStep (q kind : Nat) : Instr :=
  match kind with
  | 1 => .packetLaunch q
  | 2 => .packetCopy q
  | 3 => .packetSignal q
  | 4 => .packetWait q
  | 5 => .packetIndirect q
  | 6 => .packetTimer q
  | 7 => .streamOpen q
  | 23 => .streamTouch q
  | 39 => .streamRetime q
  | 55 => .streamClose q
  | 8 => .packetFence q
  | _ => .packetNop q

/-- The events of the front end. -/
def State.feEvents (s : State) : List Event :=
  ops (
    (s.fe.queues.filterMap fun p =>
      if p.2.head.isSome then some (.waitReread p.1)
      else if p.2.runs then some (packetStep p.1 (match (s.headBytes p.1).2 with
        | some bs => pktKind bs
        | none => 0))
      else none) ++
    (match s.admissible with
      | some w => [.launchAdmission w.queue]
      | none => []) ++
    (s.fe.launches.map fun p => .launchComplete p.1) ++
    (s.fe.copies.map fun p => .copyPacketDone p.1) ++
    (s.fe.streams.flatMap fun p => [.streamEvictDone p.1, .streamRestoreStart p.1, .streamRestoreDone p.1])) ++
  (s.fe.queues.flatMap fun p => (p.2.outst.filter (·.inner)).map fun o => .indirectEnd p.1 o.num) ++
  (s.fe.streams.map fun p => .streamGo p.1)

/-- The events that could come next in any order: those that the state calls for and that would change it. -/
def State.possible (s : State) : List Event :=
  let cores := s.cores.flatMap fun p => coreEvents p.1 p.2
  let dies := s.dies.flatMap fun p => s.dieEvents p.1 p.2
  let harts : List Event := s.harts.filterMap fun p => if p.2.parked.isSome then some (.op (.zwaitResume p.1)) else none
  (s.flight ++ cores ++ dies ++ s.wireEvents ++ s.routerEvents ++ s.feEvents ++ harts).filter s.changes

/-- The events that fall due at a time, before anything else happens: the end of a run of 24, an aged context, a special
function's cycle, the end of a burst, and the times of the front end. -/
def State.timed (s : State) : List Event :=
  ops (
    (s.cores.flatMap fun p =>
      (p.2.gangs.flatMap fun g =>
        (if 24 ≤ g.2.runCnt then [.implicitTrailer p.1 g.1] else []) ++
        (if 256 ≤ g.2.age then [.contextAged p.1 g.1] else [])) ++
      (p.2.sfu.filterMap fun o => if o.2.due ≤ s.clock then some (.sfuCompletion p.1 o.1) else none)) ++
    (s.dies.flatMap fun p => p.2.tokens.filterMap fun t => if s.burstOver p.1 t then some (.burstEnd p.1 t.quad) else none) ++
    (s.fe.queues.filterMap fun p => if (s.heldHead p.1 6).isSome then some (.timerPacketDue p.1) else none) ++
    (s.fe.waiting.map fun w => .launchSenior w.queue))

/-- The first event that is due. -/
def State.due (s : State) : Option Event := s.timed.find? s.changes

/-- The events that fall due at a time, behind everything else of the cycle: the 64 cycles of a wave, and then wave starts (R276,
R277, R286), the retries of a release (R342), and a stream's due time (R394). -/
def State.lateTimed (s : State) : List Event :=
  (s.cores.flatMap fun p => (p.2.plaza.opens.map fun w => .op (.waveTimeoutClose p.1 w.1)) ++ [.op (.waveStart p.1)]) ++
  (s.dies.flatMap fun p => p.2.blocks.filterMap fun b => if b.2.halted.isSome then some (.retryArrives p.1 b.1) else none) ++
  (s.fe.streams.map fun p => .op (.streamDue p.1))

/-- The first event that is due at the end of a cycle. -/
def State.lateDue (s : State) : Option Event := s.lateTimed.find? s.changes

/-! ### Fetching -/

/-- The entry of a core's cache that lets a gang fetch at an address. -/
def State.fetchEntry (s : State) (c x va : Nat) : Option TlbEntry :=
  match tlbFind (s.core c).tlb (s.asidOf c x) va with
  | some e => if (leafTest e.leaf .fetch 0).isNone then some e else none
  | none => none

/-- The halfword at an address that a gang may fetch, from its home (R215): the state, with the entry used last, and its two
bytes. -/
def State.fetchHalf (s : State) (c x va : Nat) : State × Option (List Byte) :=
  match s.fetchEntry c x va with
  | none => (s, none)
  | some e =>
    ((s.modCore c fun k => { k with tlb := tlbPut k.tlb 64 e }).touch (e.key va) (!e.nc) false,
     some [memRead s.mem (e.key va), memRead s.mem (e.key va + 1)])

/-- The bytes of the instruction at the issuing group's PC; none where a lookup is needed. -/
def State.fetch (s : State) (c x : Nat) : State × Option (List Byte) :=
  let pc := (s.gang c x).pc.toNat
  match s.fetchHalf c x pc with
  | (s, some lo) =>
    if bit (lo.headD 0) 0 then
      match s.fetchHalf c x ((pc + 2) % 2 ^ 48) with
      | (s, some hi) => (s, some (lo ++ hi))
      | (s, none) => (s, none)
    else (s, some lo)
  | r => r

/-- A context is about to execute the word that these bytes hold. -/
def State.issuing (s : State) (c x : Nat) (bs : List Byte) : State :=
  { s with cur := some (c, x), ir := BitVec.ofNat 32 (leNat bs) }

/-- The instruction or step that fetched bytes call for. -/
noncomputable def fetched (bs : List Byte) : Instr :=
  match decode bs with
  | .ok (i, _) => i
  | .error _ => .illegalEncoding (BitVec.ofNat 32 (leNat bs)) (bs.length == 4)

/-- The bytes of a word that a parked group has decoded. -/
def heldBytes (w : W) : List Byte := leBytes (if bit w 0 then 4 else 2) w.toNat

/-- The bytes of the instruction that the issuing group issues: a parked one issues the word that it has decoded (R42), and any
other fetches at its PC. -/
def State.word (s : State) (c x : Nat) : State × Option (List Byte) :=
  match (s.gang c x).group.held with
  | some w => (s, some (heldBytes w))
  | none => s.fetch c x

/-- The issuing group waits for the lookup of its fetch (R214, R218): it has decoded no word. -/
def State.fetchMiss (s : State) (c x : Nat) : State :=
  (s.park c x .pageFault 0).modGang c x fun g => { g.modGroup (fun q => { q with held := none }) with look := some .fetch }

/-- Fetch and execute the instruction of the issuing group; one that the order of the cycle's events at some place puts before
what has happened there issues in a later cycle. A wave that has used its budget fails instead (R284). -/
noncomputable def State.runNext (s : State) (c x : Nat) : Host.Outcome State Fault Refusal :=
  if isPlaza x && s.changes (.op (.waveBudgetExceeded c)) then exec (.waveBudgetExceeded c) s
  else
    match s.word c x with
    | (s, none) => .next (s.fetchMiss c x)
    | (t, some bs) =>
      let turn := t.issueTurn c x (fetched bs)
      if t.inTurn turn then exec (fetched bs) ((t.issuing c x bs).noteTurn turn) else .next s

/-! ### Readiness (R63, R75) -/

/-- The state in which a group would issue. -/
def State.asGroup (s : State) (c x : Nat) (m : BitVec 8) : State := s.modGang c x fun g => { g with active := m }

/-- A parked group's instruction would only park again. -/
noncomputable def State.stuck (s : State) (c x : Nat) : Bool :=
  match s.word c x with
  | (_, none) => false
  | (s, some bs) =>
    let s := s.issuing c x bs
    match exec (fetched bs) s with
    | .next t => t == s
    | _ => false

/-- A group can issue, as far as its own park and trailer go. -/
noncomputable def State.groupReady (s : State) (c x : Nat) (q : Group) : Bool :=
  match q.park with
  | none => (s.gang c x).run != 0 || s.trailerOk c x q.trailer
  | some (.regang, _) => false
  | some (.pageFault, _) => false
  | some _ => !(s.asGroup c x q.slices).stuck c x

/-- The PC of a group. -/
def Gang.groupPc (g : Gang) (q : Group) : Nat := (vget g.pcs (lowSlice q.slices) 0).toNat

/-- The group of a list with the lowest PC, and of equal PCs the lowest slice. -/
def Gang.lowest (g : Gang) (l : List Group) : Option Group :=
  l.foldl (fun (b : Option Group) q => match b with
    | none => some q
    | some p =>
      if g.groupPc q < g.groupPc p || (g.groupPc q == g.groupPc p && lowSlice q.slices < lowSlice p.slices) then some q
      else some p) none

/-- The group that a gang would issue, and whether a new round begins with it. -/
noncomputable def State.pickGroup (s : State) (c x : Nat) : Option (Group × Bool) :=
  let g := s.gang c x
  if g.run != 0 then
    match g.groups.find? fun q => q.slices == g.run with
    | some q => if s.groupReady c x q then some (q, false) else none
    | none => none
  else
    let ready := g.groups.filter (s.groupReady c x)
    match g.lowest (ready.filter (·.inRound)) with
    | some q => some (q, false)
    | none => (g.lowest ready).map (·, true)

/-- A gang is ready. -/
noncomputable def State.gangReady (s : State) (c x : Nat) (g : Gang) : Bool :=
  s.gangFree c x g &&
    (if g.pre.isEmpty then (s.pickGroup c x).isSome else s.startShare c x != s)

/-! ### The scheduler (R64) -/

/-- The rank of a context: lower is first. Aged contexts by age, the plaza, then the priorities, round-robin. -/
def State.rank (s : State) (c x : Nat) (g : Gang) : Nat :=
  if g.aged then 1000000 - min g.age 1000000
  else if isPlaza x then 2000000
  else
    let p := (s.crew c (crewSlot x)).prio
    let last := vget (s.core c).last p 63
    3000000 + (3 - p) * 64 + (x + 127 - last) % 64

/-- The context that a free slot of a core takes. Of two aged contexts that have been ready equally long it is the one of the
lower number; the spec names no rule for that tie (DESIGN CHOICE, log 53). -/
noncomputable def State.pickGang (s : State) (c : Nat) : Option Nat :=
  let k := s.core c
  let ready := k.gangs.filter fun p =>
    !p.2.issued && !k.slots.toList.contains (some p.1) && s.gangReady c p.1 p.2
  (ready.foldl (fun (b : Option (Nat × Gang)) p => match b with
    | none => some p
    | some q => if s.rank c p.1 p.2 < s.rank c q.1 q.2 then some p else some q) none).map (·.1)

/-- A slot takes a context (R64). One that is taken because it is aged becomes the one last selected of its priority, too; the
spec does not say whether it does (DESIGN CHOICE, log 53). -/
def State.takeSlot (s : State) (c k x : Nat) : State :=
  let p := (s.crew c (crewSlot x)).prio
  s.modCore c fun q =>
    { q with slots := vput q.slots k (some x), last := if isPlaza x then q.last else vput q.last p x, chosen := q.chosen ++ [x] }

/-- The groups of a new round. -/
def Gang.newRound (g : Gang) : Gang := { g with groups := g.groups.map fun q => { q with inRound := true } }

/-- The run of a group starts: it leaves the round, and its trailer is used up. -/
def Gang.startRun (g : Gang) (q : Group) : Gang :=
  { g with run := q.slices, groups := g.groups.map fun p => if p.slices == q.slices then { p with trailer := {}, inRound := false } else p }

/-- Issue for a context that holds slot `k`: the next instruction of its run, or the first of a new one. A trailer that
names a register nothing can fill faults E_EMPTY (R103). -/
noncomputable def State.issueGang (s : State) (c x : Nat) : Host.Outcome State Fault Refusal :=
  match s.pickGroup c x with
  | none => .next (s.freeSlot c x)
  | some (q, fresh) =>
    let s := s.modGang c x fun g => { (if fresh then g.newRound else g) with active := q.slices }
    if (s.gang c x).run != 0 then s.runNext c x
    else
      match s.trailerDead c x q.trailer with
      | some code => .next (s.takeFault c x eEmpty 0 (BitVec.ofNat 32 code) 0 0)
      | none => (s.modGang c x fun g => g.startRun q).runNext c x

/-- A context of a core can issue. -/
noncomputable def State.canIssue (s : State) (c x : Nat) : Bool := (s.gang? c x).isSome && s.gangReady c x (s.gang c x)

/-- Slot `k` of core `c` selects the context that issues in this cycle: the one that it holds for a run, while it is ready, or
another. A context whose share bindings are still due binds the next of them instead (R54). -/
noncomputable def State.selectSlot (s : State) (c k : Nat) : State :=
  match (vget (s.core c).slots k none).filter (s.canIssue c) with
  | some x => s.modCore c fun q => { q with chosen := q.chosen ++ [x] }
  | none =>
    let s := s.modCore c fun q => { q with slots := vput q.slots k none }
    match s.pickGang c with
    | none => s
    | some x => if (s.gang c x).pre.isEmpty then s.takeSlot c k x else s.startShare c x

/-- The bytes of the instruction that a context is about to issue. -/
noncomputable def State.nextBytes (s : State) (c x : Nat) : Option (List Byte) :=
  (s.pickGroup c x).bind fun q => ((s.asGroup c x q.1.slices).word c x).2

/-- The instruction that a context is about to issue. -/
noncomputable def State.nextInstr (s : State) (c x : Nat) : Option Instr := (s.nextBytes c x).map fetched

/-- The `n` registers from one. -/
def runOf (a n : Nat) : List Nat := (List.range n).map (a + ·)

/-- The varying registers that the fields of a word may read, and those that they may write (R24, R31, R34 to R37); a field that
holds something else names a register that no effect of the instruction meets. -/
def vFields (bs : List Byte) : List Nat × List Nat :=
  let w : W := BitVec.ofNat 32 (leNat bs)
  let f (lo n : Nat) : Nat := w.toNat / 2 ^ lo % 2 ^ n
  if bs.length = 2 then ([f 5 6, f 11 5], [f 5 6])
  else
    let m := wMaj w
    if m ≤ 0x0b || (m == 0x14 && wFn w == 7) then (runOf (f 16 7) 4 ++ [f 24 7, f 9 6], runOf (f 9 6) 4)
    else if 0x0c ≤ m && m ≤ 0x0e then (f 16 7 :: runOf (f 9 6) 4, runOf (f 9 6) 4)
    else (runOf (f 20 5) 4 ++ [f 20 6, f 14 5, f 14 7], runOf (f 14 5) 4 ++ runOf (f 14 7) 16)

/-- The shared registers among some codes: id and place. -/
def Gang.sharedOf (g : Gang) (l : List Nat) : List (Nat × Nat) :=
  l.filterMap fun n => if n < 64 then g.shared? n else none

/-- The cycle since which a gang has waited for a shared register in this way; one that does not waits from now on. -/
def State.sharedSince (s : State) (c : Nat) (kind : ParkKind) (r : Nat × Nat) (x : Nat) : Nat :=
  match (s.gang c x).binds.find? fun b => b.id == r.1 with
  | some b => (s.gang c x).waitsSince kind (b.first + r.2) s.clock
  | none => s.clock

/-- A gang has begun to wait for a shared register in this way before another, or in the same cycle with the lower index (R112). -/
def State.waitedFirst (s : State) (c : Nat) (kind : ParkKind) (r : Nat × Nat) (x y : Nat) : Bool :=
  let a := s.sharedSince c kind r x
  let b := s.sharedSince c kind r y
  decide (a < b) || (a == b && decide (x < y))

/-- Of two contexts that issue in one cycle, the first goes before the second for a shared register that both meet: a read before
a write, and of two reads or two writes the one that has waited longer (R104, R112). -/
noncomputable def State.sharedFirst (s : State) (c x y : Nat) : Bool :=
  crewSlot x == crewSlot y && x != y && x < 64 && y < 64 &&
    match s.nextBytes c x, s.nextBytes c y with
    | some bx, some by' =>
      let rx := (s.gang c x).sharedOf (vFields bx).1
      let wx := (s.gang c x).sharedOf (vFields bx).2
      let ry := (s.gang c y).sharedOf (vFields by').1
      let wy := (s.gang c y).sharedOf (vFields by').2
      rx.any (fun r => if ry.contains r then s.waitedFirst c .read r x y else wy.contains r) ||
        wx.any (fun r => !rx.contains r && !ry.contains r && wy.contains r && s.waitedFirst c .write r x y)
    | _, _ => false

/-- Of two instructions that a core issues in one cycle, the first goes before the second whatever their slots: `mcancel` before
`mrecv` and `mprobe` (R262), the graph instructions in the order of R324, and `elect` of one role by gang index (R122). -/
def goesFirst (a b : Nat × Option Instr) : Bool :=
  let node (i : Instr) : Option Nat := match i with
    | .gnKill _ => some 1
    | .gnArm _ => some 2
    | .gnEdge _ => some 3
    | .gnFree _ => some 4
    | _ => none
  match a.2, b.2 with
  | some (.mcancel _), some (.mrecv _) => true
  | some (.mcancel _), some (.mprobe _) => true
  | some (.elect f), some (.elect g) => f.role == g.role && crewSlot a.1 == crewSlot b.1 && a.1 < b.1
  | some i, some j => match node i, node j with
    | some m, some n => m < n
    | _, _ => false
  | _, _ => false

/-- The context of those chosen that issues next: in the order of the slots, but where `goesFirst` or `sharedFirst` says
otherwise. Where they say it in a circle, the order of the slots stands. -/
noncomputable def State.nextChosen (s : State) (c : Nat) : Option Nat :=
  let l := (s.core c).chosen.map fun x => (x, s.nextInstr c x)
  ((l.find? fun b => !l.any fun a => goesFirst a b || s.sharedFirst c a.1 b.1).map (·.1)).or (s.core c).chosen.head?

/-- Core `c` issues for the contexts that its slots have selected, one at each step; `rest` is what comes after. -/
noncomputable def State.issueCore (s : State) (c : Nat) (rest : List (Nat × Nat)) : Host.Outcome State Fault Refusal :=
  match s.nextChosen c with
  | none => .next { s with todo := rest }
  | some x =>
    let s := s.modCore c fun q => { q with chosen := q.chosen.erase x }
    let s := if (s.core c).chosen.isEmpty then { s with todo := rest } else s
    if s.canIssue c x then s.issueGang c x else .next (s.freeSlot c x)

/-! ### Cycles -/

/-- A gang at the end of a cycle: its readiness age (R64). -/
noncomputable def State.agedGang (s : State) (c x : Nat) (g : Gang) : Gang :=
  let g := { g with raised := 0 }
  if g.issued || !s.gangReady c x g then { g with issued := false, age := 0, aged := false }
  else { g with age := g.age + 1 }

/-- A core at the end of a cycle: what only this cycle needed is forgotten. -/
noncomputable def State.agedCore (s : State) (c : Nat) (k : Core) : Core :=
  let k := s.takePlaces c k
  { k with
    gangs := k.gangs.map fun g => (g.1, s.agedGang c g.1 g.2), fresh := [], chosen := []
    crews := k.crews.map fun w => (w.1, { w.2 with shares := w.2.shares.map fun h => (h.1, { h.2 with before := [] }) }) }

/-- The phases of a cycle of a core: slots 0 to 3 select, and then the core issues. -/
def corePhases : List Nat := [0, 1, 2, 3, 4]

/-- The end of a cycle: the clock and device time advance, power tokens move, the phases of barriers complete for which enough
members have arrived in the cycle (R327, R329), and every slot of every core gets an issue opportunity. -/
noncomputable def State.cycle (s : State) : State :=
  { s.moveTokens with
    cores := s.cores.map fun p => (p.1, s.agedCore p.1 p.2), barriers := s.barriers.map fun p => (p.1, p.2.complete), clock := s.clock + 1, time := s.passTime, turns := []
    todo := s.cores.flatMap fun p => corePhases.map fun k => (p.1, k) }

/-- A core is issuing for the contexts that its slots have selected. -/
def State.issuingCore (s : State) : Bool :=
  match s.todo with
  | (_, k) :: _ => k == 4
  | [] => false

/-- The cores go on: the next slot selects, the next core issues, or what is due at its end and then the end of the cycle. -/
noncomputable def State.advance (s : State) : Host.Outcome State Fault Refusal :=
  match s.todo with
  | [] =>
    match s.lateDue with
    | some e => s.actInTurn e
    | none => .next s.cycle
  | (c, k) :: rest => if k = 4 then s.issueCore c rest else .next (({ s with todo := rest }).selectSlot c k)

/-- What comes next of the events that could: the place in the list that the free choice of this step gives; past its end,
the cores go on. -/
def State.choice (s : State) : Option Event :=
  match s.possible with
  | [] => none
  | l => l[Config.pick s.tick % (l.length + 1)]?

/-- The hart that an input comes from, where it is a hart's: any of the module's for `zwait`, and any of the die's for a command
of its queues (log 7). -/
def inputHart (n : Nat) (e : Event) (cur : Nat) : Nat :=
  match e with
  | .op i => match i with
    | .zwait _ => n % 96
    | .replay d _ => 4 * d + n % 4
    | .cancel d _ => 4 * d + n % 4
    | .tsync d _ => 4 * d + n % 4
    | .save d _ => 4 * d + n % 4
    | .restore d _ => 4 * d + n % 4
    | .kill d _ => 4 * d + n % 4
    | .resume d _ => 4 * d + n % 4
    | .handler d _ => 4 * d + n % 4
    | _ => cur
  | _ => cur

/-- An event that is due at the end of this cycle comes before another at a place of both. -/
def State.lateFirst (s : State) (e : Event) : Bool :=
  let l := s.turnOf e
  !l.isEmpty && s.lateTimed.any fun d => ((s.turnOf d).any fun p => l.any fun q => p.1 == q.1 && p.2 < q.2) && s.changes d

/-- An input is an action of a hart that waits at a FENCE (R249). -/
def State.fenced (s : State) (e : Event) : Bool :=
  let h : Option Nat := match e with
    | .hartStore h _ _ => some h
    | .window h _ _ _ => some h
    | .doorbell h _ _ => some h
    | .hartFence h => some h
    | .op (.zwait _) => some (inputHart (Config.pick s.tick) e s.curHart)
    | _ => none
  h.any fun h => s.flight.contains (.hartFenceDone h)

/-- The input that acts now: the first, in its turn. -/
def State.nextInput (s : State) : Option (Event × List Event) :=
  match s.inputs with
  | e :: rest => if s.inTurn (s.turnOf e) && !s.lateFirst e && !s.fenced e then some (e, rest) else none
  | [] => none

/-- One step: where a core is issuing, its next context; else an input, else what is due, else one of the events that could come
or what the cores do next. -/
noncomputable def State.move (s : State) : Host.Outcome State Fault Refusal :=
  let s := { s with tick := s.tick + 1, cur := none }
  if s.issuingCore then s.advance
  else
    match s.nextInput with
    | some (e, rest) => { s with inputs := rest, curHart := inputHart (Config.pick s.tick) e s.curHart }.actInTurn e
    | none =>
      match s.due with
      | some e => s.actInTurn e
      | none =>
        match s.choice with
        | some e => s.actInTurn e
        | none => s.advance

/-! ### Placing an instruction where the next step fetches (log 6) -/

/-- Where it is placed: a virtual page, and the HBM frame it maps to. -/
def probePc : Nat := 0x10000

/-- The leaf of the page: valid, a leaf, R, W and X, RC, in HBM. -/
def probeLeaf : BitVec 64 := BitVec.ofNat 64 (0x3f + probePc)

/-- Bytes placed where context 0 of core 0, a gang of a crew of its own, issues next: slot 0 has selected it. -/
def State.place (s : State) (bs : List Byte) : State :=
  let k := s.core 0
  let w : Crew := { launch := 0, asid := 0, prio := 0, pin := 0, sram := 0, gangs := 1 }
  let g : Gang := { pcs := Vector.replicate 8 (BitVec.ofNat 48 probePc) }
  let e : TlbEntry := { asid := 0, vpage := 1, size := 65536, leaf := probeLeaf }
  { s.setCore 0 { k with gangs := sput k.gangs 0 g, crews := sput k.crews 0 w, slots := vput k.slots 0 (some 0), chosen := [0]
                         tlb := tlbPut k.tlb 64 e } with
    mem := writeBytes s.mem (hbmKey probePc) bs, todo := [(0, 4)], inputs := [], flight := [] }

end Sys2Proof.Machine
end

