-- ==== Sys2Proof/Machine/Step.lean ====
section
/-! DEFINITION. Sys2Proof/Machine/Step.lean: one step of the module. -/

namespace Sys2Proof.Machine

/-- One step. -/
noncomputable def step (s : State) : Host.Outcome State Fault Refusal := s.move

/-- `s` with an instruction placed where `step` fetches next: the bits of the opcode table's row, and zeros above. -/
def State.withFetchWord (s : State) (nbits w : Nat) : State := s.place (tableBytes nbits w ++ [0, 0, 0, 0])

end Sys2Proof.Machine
end

