-- ==== Sys2Proof/Safety.lean ====
section
/-! DEFINITION. Sys2Proof/Safety.lean: what counts as a safe run, and the terms in which claims speak of an instruction
that completes. -/

namespace Sys2Proof.Safety

open Sys2Proof.Machine

/-- What acts without a gang that issues: a step of a unit, an input, or the instruction of a hart. The instructions of
gangs have encodings, and a word that is none needs a gang too. -/
def isEvent : Instr → Bool
  | .illegalEncoding _ _ => false
  | .zwait _ => true
  | i => (encode i).isEmpty

/-- An event that acts without a gang that issues. -/
def actsAlone : Event → Bool
  | .op i => isEvent i
  | _ => true

/-- Only such events wait to act. -/
def Queued (s : State) : Prop := ∀ e ∈ s.inputs ++ s.flight, actsAlone e = true

/-- The invariant of every state that a run reaches: memory is in its canonical form, and only events that
need no issuing gang wait to act. -/
structure Inv (s : State) : Prop where
  memory : Memory.wf s.mem = true
  queued : Queued s

/-- A step that does not stop. -/
def Goes (s : State) : Prop := ∃ t, step s = .next t

/-- A run of `k` steps that does not stop. -/
def Runs (k : Nat) (s : State) : Prop := ∃ t, Host.Core.run core k s = .next t

/-! ### An instruction that passes the checks of R42, and what retiring it leaves -/

/-- Context `x` of core `c` issues an instruction of form `fm`, which passes steps 1 to 4 of R42 and need not wait; `vs`
are the values of its sources. -/
structure Ready (s : State) (c x : Nat) (fm : Form) (vs : List Val) : Prop where
  issues : s.issuer = some (c, x)
  legal : fm.legal = true
  names : ∀ p ∈ fm.names, p.1 + p.2 ≤ (s.gang c x).valloc
  whole : fm.wide = true → (s.gang c x).whole = true
  reads : readSrcs s c x fm.srcs = .ok vs
  writes : ∀ d ∈ fm.dests, mustWait s c x d = false

/-- The gang after its issuing group has retired an instruction of `size` bytes that leaves the window entry `e`: `fb`
tells whether its word met a fallback of R40, and `fl` are the flags that it raises. An instruction that sets the PCs
itself counts no bytes, and a word that a parked group has decoded is not decoded again (R42). -/
def retired (fb : Bool) (fl : BitVec 14) (size : Nat) (e : WinEntry) (g : Gang) : Gang :=
  let w := fb && g.group.held.isNone
  { g with
    pcs := if size = 0 then g.pcs else
      Vector.ofFn fun i : Fin 8 => if bit g.active i.val then g.pc + BitVec.ofNat 48 size else g.pcs[i]
    groups := g.groups.map fun q => if q.slices == g.active then { q with park := none, held := none } else q
    gstat := g.gstat ||| fl ||| (if w then 1 else 0)
    wmodpc := if w && !bit g.gstat 0 then g.pc else g.wmodpc
    window := (g.pushWin e).window, unbanked := (g.pushWin e).unbanked
    runCnt := g.runCnt + 1, age := 0, aged := false, issued := true
    wave := g.wave.map fun w => { w with issued := w.issued + 1 } }

/-- The lanes `r` where `m` has its bit, `old` elsewhere. -/
def laneMerge (m : W) (r : Nat → W) (old : Nat → W) : Lanes := Lanes.of fun l => if bit m l then r l else old l

/-- The flags that the active lanes raise. -/
def laneFlags (m : W) (r : Nat → BitVec 14) : BitVec 14 := (activeList m).foldl (fun a l => a ||| r l) 0

/-- The state after a varying result: `r` in the active lanes and `tag` are written to D, or to the window alone where
W = 1, and the flags `fl` are raised. The bank write of a register that is not shared is pending (R71). -/
def laneWrite (s : State) (c x : Nat) (f : T3) (fb : Bool) (size : Nat) (tag : Byte) (r : Nat → W) (fl : BitVec 14) :
    State :=
  let m := (s.gang c x).lanes
  let d := s.vreg c x f.d.toNat
  let shared := s.isShared c x f.d.toNat
  let new := laneMerge m r fun l => if f.w = 1 then 0 else d.val.lane l
  let s := if f.w = 1 then s else s.setVreg c x f.d.toNat { d with val := new, tag := tag, fe := .full }
  s.modGang c x (retired fb fl size { val := some (.v new tag), dest := f.d.setWidth 8, w := f.w == 1,
                                       old := if f.w = 1 || shared then none else some (.v d.val d.tag) })

/-- The state after a lane instruction whose active lanes each compute a value and raise flags. -/
def laneDone (s : State) (c x : Nat) (f : T3) (fb : Bool) (size : Nat) (tag : Byte) (r : Nat → W × BitVec 14) : State :=
  laneWrite s c x f fb size tag (fun l => (r l).1) (laneFlags (s.gang c x).lanes fun l => (r l).2)

/-- The state after a uniform result `w` in s`d`. -/
def uniDone (s : State) (c x : Nat) (d : Nat) (fb : Bool) (w : W) : State :=
  s.modGang c x fun g => retired fb 0 4 { val := some (.s w), dest := BitVec.ofNat 8 (64 + d), w := false,
                                          old := if d = 0 then none else some (.s (g.sreg d).val) }
    (g.setSreg d { g.sreg d with val := w, fe := .full })

/-- The state after an affine result in a`d`, with the flags it raises. -/
def affDone (s : State) (c x : Nat) (d : Nat) (fb : Bool) (fl : BitVec 14) (b st : W) : State :=
  s.modGang c x fun g => retired fb fl 4 { val := some (.a b st), dest := BitVec.ofNat 8 (96 + d), w := false,
                                           old := some (.a (g.areg d).base (g.areg d).stride) }
    (g.setAreg d { g.areg d with base := b, stride := st, fe := .full })

/-- The state after a mask result: the bits of `m` are written, and a result for k0 is discarded. -/
def maskDone (s : State) (c x : Nat) (d : Nat) (fb : Bool) (fl : BitVec 14) (m r : W) : State :=
  s.modGang c x fun g =>
    let new := (r &&& m) ||| ((if d = 0 then 0 else g.kreg d) &&& ~~~m)
    retired fb fl 4 { val := some (.k new), dest := BitVec.ofNat 8 d, w := false,
                      old := if d = 0 then none else some (.k (g.kreg d)) } (g.setKreg d new)

/-- The window entry of an instruction with no result. -/
def noResult : WinEntry := { val := none, dest := 0x7f, w := false }

/-- The state after an instruction of `size` bytes that changes the gang by `u` and then ends its run with a trailer
(R66, R68). -/
def endDone (s : State) (c x : Nat) (fb : Bool) (size : Nat) (t : Trailer) (u : Gang → Gang) : State :=
  ((noteFallback s c x fb).modGang c x fun g =>
    { ((retired false 0 size noResult (u g)).modGroup fun q => { q with trailer := t }) with
      window := [], runCnt := 0, run := 0 }).freeSlot c x

/-- The state after an instruction with no result. -/
def plainDone (s : State) (c x : Nat) (fb : Bool) : State :=
  s.modGang c x (retired fb 0 4 noResult)

end Sys2Proof.Safety
end

