-- ==== Sys2Proof/Certificates/Slice0/Obligations.lean ====
section
/-! DEFINITION. Sys2Proof/Certificates/Slice0/Obligations.lean: the statements about this model, for the provers, with the
tables that they speak of. -/

open Sys2Proof Sys2Proof.Machine Sys2Proof.Safety

/-! ### Lane arithmetic: the operation of each lane (R124 to R136), and the state it leaves (`laneDone`) -/

namespace Sys2Proof.Safety

/-- A lane operation: its instruction, the formats it accepts in A and B, the tag of its result, and what each lane
computes in a rounding mode, with its flags. -/
abbrev Lane2 := (T3 → Instr) × List Nat × Byte × (Rnd → W → W → W × BitVec 14)

/-- An operation without flags. -/
def pure2 (op : W → W → W) (_ : Rnd) (a b : W) : W × BitVec 14 := (op a b, 0)

/-- Shift and rotate counts are bits 4 to 0 of B. -/
def cnt (b : W) : Nat := b.toNat % 32

/-- MAJ 00, 01 and 02 of two sources (R128, R129), that set no flag. -/
def intPlain : List Lane2 := [
  (.vaddI32, [0], 0, pure2 fun a b => a + b),
  (.vsubI32, [0], 0, pure2 fun a b => a - b),
  (.vmulLo, [0], 0, pure2 fun a b => a * b),
  (.vmulhI32, [0], 0, pure2 fun a b => BitVec.ofInt 32 (a.toInt * b.toInt / 2 ^ 32)),
  (.vmulhN32, [0], 0, pure2 fun a b => BitVec.ofNat 32 (a.toNat * b.toNat / 2 ^ 32)),
  (.vminI32, [0], 0, pure2 fun a b => if b.toInt < a.toInt then b else a),
  (.vmaxI32, [0], 0, pure2 fun a b => if a.toInt < b.toInt then b else a),
  (.vminN32, [0], 0, pure2 fun a b => if b.toNat < a.toNat then b else a),
  (.vmaxN32, [0], 0, pure2 fun a b => if a.toNat < b.toNat then b else a),
  (.vand, fmtAny, 0, pure2 fun a b => a &&& b),
  (.vor, fmtAny, 0, pure2 fun a b => a ||| b),
  (.vxor, fmtAny, 0, pure2 fun a b => a ^^^ b),
  (.vandn, fmtAny, 0, pure2 fun a b => a &&& ~~~b),
  (.vshl, fmtAny, 0, pure2 fun a b => a <<< cnt b),
  (.vshr, fmtAny, 0, pure2 fun a b => a >>> cnt b),
  (.vsra, fmtAny, 0, pure2 fun a b => a.sshiftRight (cnt b)),
  (.vrol, fmtAny, 0, pure2 fun a b => if cnt b = 0 then a else (a <<< cnt b) ||| (a >>> (32 - cnt b)))]

/-- The saturating pair of R128, that sets SAT. -/
def intSat : List Lane2 := [
  (.vaddsI32, [0], 0, fun _ a b => sat32 (a.toInt + b.toInt)),
  (.vsubsI32, [0], 0, fun _ a b => sat32 (a.toInt - b.toInt))]

/-- MAJ 00, 01 and 02 of two sources (R128, R129). -/
def intLanes : List Lane2 := intPlain ++ intSat

/-- MAJ 03 of two sources (R130, R131): the sum, difference and product as `fp32` rounds them (R127). -/
def fpLanes : List Lane2 := [
  (.vfadd, [1], 1, fun rm a b => w32 (fp32.add rm a.toNat b.toNat)),
  (.vfsub, [1], 1, fun rm a b => w32 (fp32.sub rm a.toNat b.toNat)),
  (.vfmul, [1], 1, fun rm a b => w32 (fp32.mul rm a.toNat b.toNat)),
  (.vfmin, [1], 1, fun _ a b => f32Pick false a b),
  (.vfmax, [1], 1, fun _ a b => f32Pick true a b),
  (.vfcpys, [1], 1, pure2 fun a b => (a &&& 0x7fffffff) ||| (b &&& 0x80000000))]

/-- A lane operation of one source. -/
abbrev Lane1 := (T3 → Instr) × List Nat × Byte × (Rnd → W → W × BitVec 14)

def pure1 (op : W → W) (_ : Rnd) (a : W) : W × BitVec 14 := (op a, 0)

/-- One source: MAJ 01 and 03 (R128, R130), that set no flag. -/
def onePlain : List Lane1 := [
  (.vabsI32, [0], 0, pure1 fun a => BitVec.ofInt 32 (a.toInt.natAbs)),
  (.vclz, [0], 0, pure1 clz),
  (.vpopc, [0], 0, pure1 popc),
  (.vfabs, [1], 1, pure1 fun a => a &&& 0x7fffffff),
  (.vfneg, [1], 1, pure1 fun a => a ^^^ 0x80000000)]

/-- The scalar conversions of R153. -/
def oneConv : List Lane1 := [
  (.vcvtF32I32, [0], 1, fun rm a => intToF32 rm a.toInt),
  (.vcvtF32N32, [0], 1, fun rm a => intToF32 rm (a.toNat : Int)),
  (.vcvtI32F32, [1], 0, fun rm a => f32ToInt rm (-(2 ^ 31)) (2 ^ 31 - 1) a),
  (.vcvtN32F32, [1], 0, fun rm a => f32ToInt rm 0 (2 ^ 32 - 1) a)]

/-- Lane operations of one source. -/
def oneLanes : List Lane1 := onePlain ++ oneConv

/-- A lane operation with the accumulator D: the formats of A and B, of D, the tag, and the operation. -/
abbrev Lane3 := (T3 → Instr) × List Nat × List Nat × Byte × (Rnd → W → W → W → W × BitVec 14)

/-- The exact total of a dot product of R136. -/
def dot (n : Nat) (p q : W → Nat → Int) (d : Int) (a b : W) : Int :=
  ((List.range n).map fun j => p a j * q b j).foldl (· + ·) 0 + d

/-- `vmad.lo` and `vdp4s.w` (R128, R136), that set no flag. -/
def accPlain : List Lane3 := [
  (.vmadLo, [0], [0], 0, fun _ a b d => (d + a * b, 0)),
  (.vdp4sW, [0, 8], [0], 0, fun _ a b d => (BitVec.ofInt 32 (dot 4 sbyte sbyte d.toInt a b), 0))]

/-- The dot products of R136 that saturate. -/
def accSat : List Lane3 := [
  (.vdp4s, [0, 8], [0], 0, fun _ a b d => sat32 (dot 4 sbyte sbyte d.toInt a b)),
  (.vdp4n, [0, 8], [0], 0, fun _ a b d => satn32 (dot 4 ubyte ubyte (d.toNat : Int) a b)),
  (.vdp4sn, [0, 8], [0], 0, fun _ a b d => sat32 (dot 4 sbyte ubyte d.toInt a b)),
  (.vdp8s, [0, 9], [0], 0, fun _ a b d => sat32 (dot 8 snib snib d.toInt a b))]

/-- The floating ones (R132 to R134). -/
def accFp : List Lane3 := [
  (.vfma, [1], [1], 1, fun rm a b d => w32 (fp32.fma rm false false a.toNat b.toNat d.toNat)),
  (.vfms, [1], [1], 1, fun rm a b d => w32 (fp32.fma rm false true a.toNat b.toNat d.toNat)),
  (.vfnma, [1], [1], 1, fun rm a b d => w32 (fp32.fma rm true false a.toNat b.toNat d.toNat)),
  (.vfnms, [1], [1], 1, fun rm a b d => w32 (fp32.fma rm true true a.toNat b.toNat d.toNat)),
  (.vhfmaBf16, [2], [2], 2, fun rm => opHfma bf16 rm),
  (.vhfmaF16, [3], [3], 3, fun rm => opHfma fp16 rm),
  (.vdot2Bf16, [2], [1], 1, fun rm => opDot2 bf16 rm),
  (.vdot2F16, [3], [1], 1, fun rm => opDot2 fp16 rm)]

/-- `vmad.lo`, MAJ 04 and MAJ 0B (R128, R132 to R134, R136). -/
def accLanes : List Lane3 := accPlain ++ accSat ++ accFp

/-- A compare: its instruction, the formats it accepts, and its condition with its flags. -/
abbrev LaneC := (T3 → Instr) × List Nat × (W → W → Bool × BitVec 14)

/-- A floating compare (R135): `p` on the ordered values, `u` when either is a NaN; FINV for a signalling NaN, and for
any NaN where `q`. -/
def fcmp (p : Int → Int → Bool) (u q : Bool) (a b : W) : Bool × BitVec 14 :=
  let na := (f32Dec a).isNan; let nb := (f32Dec b).isNan
  (if na || nb then u else p (f32Val a) (f32Val b),
   if ((f32Dec a).isSig || (f32Dec b).isSig || (q && (na || nb))) = true then fInv else 0)

/-- MAJ 05 and 06 (R135). -/
def cmpLanes : List LaneC := [
  (.vcmpEq, fmtAny, fun a b => (a == b, 0)),
  (.vcmpNe, fmtAny, fun a b => (a != b, 0)),
  (.vcmpLtI32, [0], fun a b => (decide (a.toInt < b.toInt), 0)),
  (.vcmpGeI32, [0], fun a b => (decide (b.toInt ≤ a.toInt), 0)),
  (.vcmpLtN32, [0], fun a b => (decide (a.toNat < b.toNat), 0)),
  (.vcmpGeN32, [0], fun a b => (decide (b.toNat ≤ a.toNat), 0)),
  (.vcmpTst, fmtAny, fun a b => (a &&& b != 0, 0)),
  (.vfcmpEq, [1], fcmp (fun a b => decide (a = b)) false false),
  (.vfcmpNe, [1], fcmp (fun a b => decide (a ≠ b)) true false),
  (.vfcmpLt, [1], fcmp (fun a b => decide (a < b)) false true),
  (.vfcmpLe, [1], fcmp (fun a b => decide (a ≤ b)) false true),
  (.vfcmpGt, [1], fcmp (fun a b => decide (b < a)) false true),
  (.vfcmpGe, [1], fcmp (fun a b => decide (b ≤ a)) false true),
  (.vfcmpUn, [1], fcmp (fun _ _ => false) true false),
  (.vfcmpOr, [1], fcmp (fun _ _ => true) false false)]

/-- The 16-bit forms of two sources (R25): the instruction of the 32-bit form's table that each behaves as. -/
def shortTwo : List ((H → Instr) × (T3 → Instr)) := [
  (.vaddI3216, .vaddI32), (.vsubI3216, .vsubI32), (.vand16, .vand), (.vor16, .vor), (.vxor16, .vxor),
  (.vshl16, .vshl), (.vshr16, .vshr), (.vmaxI3216, .vmaxI32), (.vminI3216, .vminI32), (.vfadd16, .vfadd),
  (.vfsub16, .vfsub), (.vfmul16, .vfmul), (.vfmax16, .vfmax), (.vfmin16, .vfmin)]

end Sys2Proof.Safety

/-- R124, R128, R129, R130, R131: an integer, logic, shift or FP32 instruction of two sources whose sources have accepted
tags completes: in each active lane D holds its operation on the lanes of A and B (uniform and affine sources materialised,
R97), the other lanes keep their bits, D is full with the result's tag, the flags of the active lanes are raised, and the
PC advances by 4; nothing else changes. With W = 1 only the window gets the result. -/
def Obligations.LaneTwoSources : Prop :=
  ∀ p ∈ intLanes ++ fpLanes, ∀ (f : T3) (s : State) (c x : Nat) (a b : Val),
    Ready s c x (t3Form .v .any .any f) [a, b] → tagOk p.2.1 a = true → tagOk p.2.1 b = true →
    exec (p.1 f) s = .next (laneDone s c x f (t3Form .v .any .any f).fb 4 p.2.2.1
      fun l => p.2.2.2 (s.gang c x).rnd (a.lanes.lane l) (b.lanes.lane l))

/-- R124, R128, R130, R153: the same of the instructions of one source, the conversions between integers and FP32 among
them; `vmov` takes any tag and gives the source's, or RAW where the source has none. -/
def Obligations.LaneOneSource : Prop :=
  (∀ p ∈ oneLanes, ∀ (f : T3) (s : State) (c x : Nat) (a : Val),
    Ready s c x (t3Form .v .any .zero f) [a] → tagOk p.2.1 a = true →
    exec (p.1 f) s = .next (laneDone s c x f (t3Form .v .any .zero f).fb 4 p.2.2.1
      fun l => p.2.2.2 (s.gang c x).rnd (a.lanes.lane l))) ∧
  (∀ (f : T3) (s : State) (c x : Nat) (a : Val), Ready s c x (t3Form .v .any .zero f) [a] → tagOk fmtAny a = true →
    exec (.vmov f) s = .next (laneDone s c x f (t3Form .v .any .zero f).fb 4
      (match a with
        | .v _ t => t
        | _ => 0) fun l => (a.lanes.lane l, 0)))

/-- R124, R125, R128, R132 to R134, R136: the same of the instructions that accumulate into D: with W = 0 they read D
last, and with W = 1 the accumulator is zero. -/
def Obligations.LaneAccumulate : Prop :=
  ∀ p ∈ accLanes, ∀ (f : T3) (s : State) (c x : Nat) (a b : Val),
    tagOk p.2.1 a = true → tagOk p.2.1 b = true →
    (∀ d : Val, Ready s c x (t3Form .v .any .any f true) [a, b, d] → tagOk p.2.2.1 d = true →
      exec (p.1 f) s = .next (laneDone s c x f (t3Form .v .any .any f true).fb 4 p.2.2.2.1
        fun l => p.2.2.2.2 (s.gang c x).rnd (a.lanes.lane l) (b.lanes.lane l) (d.lanes.lane l))) ∧
    (f.w = 1 → Ready s c x (t3Form .v .any .any f true) [a, b] →
      exec (p.1 f) s = .next (laneDone s c x f (t3Form .v .any .any f true).fb 4 p.2.2.2.1
        fun l => p.2.2.2.2 (s.gang c x).rnd (a.lanes.lane l) (b.lanes.lane l) 0))

/-- R135: a compare writes the bit of each active lane of the k register D with its condition, the others keep their
values, and FINV is raised as the table says; nothing else changes. -/
def Obligations.LaneCompare : Prop :=
  ∀ p ∈ cmpLanes, ∀ (f : T3) (s : State) (c x : Nat) (a b : Val),
    Ready s c x (t3Form .k .any .any f) [a, b] → tagOk p.2.1 a = true → tagOk p.2.1 b = true →
    exec (p.1 f) s = .next (maskDone s c x f.d.toNat (t3Form .k .any .any f).fb
      (laneFlags (s.gang c x).lanes fun l => (p.2.2 (a.lanes.lane l) (b.lanes.lane l)).2) (s.gang c x).lanes
      (maskOf 32 fun l => (p.2.2 (a.lanes.lane l) (b.lanes.lane l)).1))

/-- R25: a 16-bit form of two sources reads VD and VS, writes VD as its 32-bit form does, and is 2 bytes long. -/
def Sys2Proof.Safety.ShortTwoSources : Prop :=
  ∀ h ∈ shortTwo, ∀ p ∈ intLanes ++ fpLanes, ∀ (f : H) (s : State) (c x : Nat) (a b : Val),
    (∀ g : T3, p.1 g = h.2 g) →
    Ready s c x (t3Form .v .any .any (narrow f true)) [a, b] → tagOk p.2.1 a = true → tagOk p.2.1 b = true →
    exec (h.1 f) s = .next (laneDone s c x (narrow f true) (t3Form .v .any .any (narrow f true)).fb 2 p.2.2.1
      fun l => p.2.2.2 (s.gang c x).rnd (a.lanes.lane l) (b.lanes.lane l))

/-- R25, R26: the 16-bit `vmov` and `vcvt.f32.i32` of one source; the halfword 0x0000 is no `vmov`. -/
def Sys2Proof.Safety.ShortOneSource : Prop :=
  ∀ (f : H) (s : State) (c x : Nat) (a : Val), Ready s c x (t3Form .v .any .zero (narrow f false)) [a] →
    ((f.vd ≠ 0 ∨ f.vs ≠ 0) → tagOk fmtAny a = true →
      exec (.vmov16 f) s = .next (laneDone s c x (narrow f false) (t3Form .v .any .zero (narrow f false)).fb 2
        (match a with
          | .v _ t => t
          | _ => 0) fun l => (a.lanes.lane l, 0))) ∧
    (tagOk [0] a = true →
      exec (.vcvtF32I3216 f) s = .next (laneDone s c x (narrow f false) (t3Form .v .any .zero (narrow f false)).fb 2 1
        fun l => intToF32 (s.gang c x).rnd (a.lanes.lane l).toInt)) ∧
    (f.vd = 0 ∧ f.vs = 0 → exec (.vmov16 f) s = .next (s.takeFault c x eIll 0 s.ir 0 0))

/-- R25, R26: the 16-bit forms. -/
def Obligations.ShortForms : Prop := ShortTwoSources ∧ ShortOneSource
/-! ### Lanes that see one another (R162 to R179), conversions (R155 to R159), special functions and `vtake` -/

namespace Sys2Proof.Safety

/-- The tag of a moved value: the source's, or RAW (R124, R165). -/
def srcTag (a : Val) : Byte :=
  match a with
  | .v _ t => t
  | _ => 0

/-- A cross-lane operation: its instruction, the tags of A, the result's tag, and the value of lane `l` from the tile width,
the active lanes and the lanes of A and B. -/
abbrev Cross := (T3 → Instr) × List Nat × (Val → Byte) × (Nat → W → (Nat → W) → (Nat → W) → Nat → W)

/-- The active lanes of the tile of lane `l`, ascending: tile_act of R163. -/
def acts (w : Nat) (m : W) (l : Nat) : List Nat := (List.range 32).filter fun k => bit m k && k / w == l / w

/-- The parameter of a tile: B in its first active lane (R164). -/
def param (w : Nat) (m : W) (b : Nat → W) (l : Nat) : W := b ((acts w m l).headD l)

/-- The place of lane `l` among the active lanes of its tile. -/
def place (w : Nat) (m : W) (l : Nat) : Nat := ((acts w m l).filter fun k => decide (k < l)).length

/-- Shuffles, ballot, broadcast and selection (R166, R170, R171, R174, R175). -/
def crossLanes : List Cross := [
  (.vshfl, fmtNoMx, srcTag, fun w _ a b l => a (l - l % w + cnt (b l) % w)),
  (.vshflXor, fmtNoMx, srcTag, fun w _ a b l => a (l - l % w + Nat.xor (l % w) (cnt (b l) % w))),
  (.vshflUp, fmtNoMx, srcTag, fun w _ a b l => a (if cnt (b l) ≤ l % w then l - cnt (b l) else l)),
  (.vshflDn, fmtNoMx, srcTag, fun w _ a b l => a (if l % w + cnt (b l) < w then l + cnt (b l) else l)),
  (.vballot, fmtNoMx, fun _ => 0, fun w m a b l => maskOf 32 fun j =>
    decide (j < w) && bit m (l - l % w + j) && a (l - l % w + j) != b (l - l % w + j)),
  (.vbcast, fmtNoMx, srcTag, fun w m a b l => a (l - l % w + cnt (param w m b l) % w)),
  (.vsel, fmtNoMx, srcTag, fun w _ a b l => if bit (b l) (l % w) then a l else 0),
  (.vcomp, fmtNoMx, srcTag, fun w m a b l =>
    (((acts w m l).filter fun k => b k != 0).map a).getD (place w m l) 0)]

/-- A reduction or scan (R167, R168): the operation of a code over a list of lanes; the floating codes are the model's
`reduce`, which rounds the exact sum once and repeats R131. -/
def redOp (rm : Rnd) (code : Nat) (xs : List W) : W × BitVec 14 :=
  match code with
  | 0 => (xs.foldl (· + ·) 0, 0)
  | 2 => (xs.foldl (fun m y => if m.toInt < y.toInt then y else m) 0x80000000, 0)
  | 4 => (xs.foldl (fun m y => if y.toInt < m.toInt then y else m) 0x7fffffff, 0)
  | 6 => (xs.foldl (· &&& ·) 0xffffffff, 0)
  | 7 => (xs.foldl (· ||| ·) 0, 0)
  | _ => reduce rm code xs

/-- A ranking of the lanes of `ls` (R176): every lane once, higher ranks first, and of equal ranks the lower lane first. -/
def Ranked (r : Nat → Int) (ls order : List Nat) : Prop :=
  List.Perm order ls ∧ List.Pairwise (fun i j => r j < r i ∨ (r i = r j ∧ i < j)) order

/-- The rank of a lane's value in A's order (R176). -/
def rankIn (a : Val) (w : W) : Int :=
  match a with
  | .v _ t => if fmtOf t = 1 then (if (f32Dec w).isNan then 2 ^ 32 else f32Val w) else w.toInt
  | _ => w.toInt

/-- The index at the place of lane `l` in a list of lanes, or 0xffff_ffff past its end (R176). -/
def indexOf (w : Nat) (m : W) (order : List Nat) (l : Nat) : W :=
  match order[place w m l]? with
  | some k => BitVec.ofNat 32 (k % w)
  | none => 0xffffffff

/-- The special functions with their latencies (R137). -/
def sfuLanes : List ((T3 → Instr) × Nat × (W → W × BitVec 14)) := [
  (.vrcp, 10, rcp32), (.vrsqrt, 10, rsqrt32), (.vsqrt, 10, sqrt32), (.vexp2, 12, exp2Lane), (.vlog2, 12, log232),
  (.vtanh, 18, tanh32), (.vsinpi, 18, sinpi32)]

/-- The elements of the conversions that pack: the sources, the element width, the half of the lane that is written (none
for the whole), the tag, and one element of the format with its residual (R154 to R157, R159). -/
def packs (n : Nat) (mode : BitVec 7) (cb : Nat → List (BitVec 16)) :
    Nat × Option Nat × Byte × (W → Fp → Nat × BitVec 14 × Fp) :=
  let h := some (mode.toNat / 32 % 2)
  match n, mode.toNat / 8 % 4 with
  | 2, 0 => (16, none, 2, convElem bf16 mode.toNat)
  | 2, 1 => (16, none, 3, convElem fp16 mode.toNat)
  | 2, 2 => (8, h, 4, convElem e4m3 mode.toNat)
  | 2, _ => (8, h, 5, convElem e5m2 mode.toNat)
  | 4, 0 => (8, none, 4, convElem e4m3 mode.toNat)
  | 4, 1 => (8, none, 5, convElem e5m2 mode.toNat)
  | 4, 2 => (4, h, 6, convElem e2m1 mode.toNat)
  | _, k =>
    let j := mode.toNat / 64 % 2 * 4 + k
    (4, h, BitVec.ofNat 8 (7 + 16 * j), vcvqElem (cb j) mode.toNat)

/-- A lane of a packed result from its elements, the first lowest; a half result keeps the other half of `old`. -/
def packLane (width : Nat) (h : Option Nat) (els : List Nat) (old : W) : W :=
  let bits := (els.zip (List.range els.length)).foldl (fun acc p => acc + p.1 * 2 ^ (width * p.2)) 0
  match h with
  | none => BitVec.ofNat 32 bits
  | some 0 => (old &&& 0xffff0000) ||| BitVec.ofNat 32 bits
  | some _ => (old &&& 0x0000ffff) ||| BitVec.ofNat 32 (bits * 2 ^ 16)

end Sys2Proof.Safety

/-- R165, R166, R170, R171, R174, R175: shuffles, `vballot`, `vbcast`, `vsel` and `vcomp` give every active lane the value
that the rules name from the lanes of A and B as they stood before, within the lane's tile. -/
def Obligations.CrossLane : Prop :=
  ∀ p ∈ crossLanes, ∀ (f : T3) (s : State) (c x : Nat) (a b : Val),
    Ready s c x (t3Form .v .any .any f) [a, b] → tagOk p.2.1 a = true → tagOk fmtAny b = true →
    exec (p.1 f) s = .next (laneDone s c x f (t3Form .v .any .any f).fb 4 (p.2.2.1 a)
      fun l => (p.2.2.2 (2 ^ (s.gang c x).ptile.toNat) (s.gang c x).lanes a.lanes.lane b.lanes.lane l, 0))

/-- R165, R167, R168: `vred` gives every active lane its tile's reduction, and `vscan` the reduction of the tile's active
lanes up to it, or before it where bit 3 of the code is set. -/
def Obligations.ReduceScan : Prop :=
  ∀ (f : T3) (s : State) (c x : Nat) (a : Val),
    let code := f.b.toNat % 8
    let fmts := if code = 1 ∨ code = 3 ∨ code = 5 then [1] else if code = 6 ∨ code = 7 then fmtNoMx else [0]
    let tag : Byte := if code = 1 ∨ code = 3 ∨ code = 5 then 1 else 0
    let w := 2 ^ (s.gang c x).ptile.toNat
    let m := (s.gang c x).lanes
    tagOk fmts a = true →
    (Ready s c x (t3Form .v .any (.code 8) f) [a] →
      exec (.vred f) s = .next (laneDone s c x f (t3Form .v .any (.code 8) f).fb 4 tag
        fun l => redOp (s.gang c x).rnd code ((acts w m l).map a.lanes.lane))) ∧
    (Ready s c x (t3Form .v .any (.code 16) f) [a] →
      exec (.vscan f) s = .next (laneDone s c x f (t3Form .v .any (.code 16) f).fb 4 tag
        fun l => redOp (s.gang c x).rnd code (((acts w m l).filter fun k =>
          if f.b.toNat / 8 % 2 = 1 then decide (k < l) else decide (k ≤ l)).map a.lanes.lane)))

/-- R169, R172, R173: `vvote` writes each active lane's bit of kD with its tile's answer; `vlaneid` writes the lane's
number; `vrfa` writes sD with A in the first active lane, or 0. -/
def Sys2Proof.Safety.VoteLaneidFirst : Prop :=
  ∀ (f : T3) (s : State) (c x : Nat),
    let w := 2 ^ (s.gang c x).ptile.toNat
    let m := (s.gang c x).lanes
    (∀ a : Val, Ready s c x (t3Form .k .any (.code 2) f) [a] → tagOk fmtNoMx a = true →
      (f.b = 0 → exec (.vvoteAny f) s = .next (maskDone s c x f.d.toNat (t3Form .k .any (.code 2) f).fb 0 m
        (maskOf 32 fun l => (acts w m l).any fun k => a.lanes.lane k != 0))) ∧
      (f.b = 1 → exec (.vvoteAll f) s = .next (maskDone s c x f.d.toNat (t3Form .k .any (.code 2) f).fb 0 m
        (maskOf 32 fun l => (acts w m l).all fun k => a.lanes.lane k != 0)))) ∧
    (Ready s c x (t3Form .v .zero .zero f) [] →
      exec (.vlaneid f) s = .next (laneDone s c x f (t3Form .v .zero .zero f).fb 4 0 fun l => (BitVec.ofNat 32 l, 0))) ∧
    (∀ a : Val, Ready s c x (t3Form .s .vt .zero f) [a] →
      exec (.vrfa f) s = .next (uniDone s c x f.d.toNat (t3Form .s .vt .zero f).fb
        (match (List.range 32).filter fun l => bit m l with
          | l :: _ => a.lanes.lane l
          | [] => 0)))

/-- R176 to R179: `vselgt` lists the tile-relative indices of the lanes that rank strictly above the threshold, `vtopk`
those of the k highest, and `vsort` moves the values (or writes the indices) in rank order, ascending where bit 0 of the
control word is set; a k above the tile width sets WMOD. Where tiles differ in bit 1 of their control words, the tag of
`vsort` is one of the two, a free value of the model (log 16). -/
def Obligations.Ranking : Prop :=
  ∀ (f : T3) (s : State) (c x : Nat) (a b : Val),
    let w := 2 ^ (s.gang c x).ptile.toNat
    let m := (s.gang c x).lanes
    let fb := (t3Form .v .any .any f).fb
    let rk := fun l => rankIn a (a.lanes.lane l)
    Ready s c x (t3Form .v .any .any f) [a, b] → tagOk [0, 1] a = true → tagOk fmtAny b = true →
    exec (.vselgt f) s = .next (laneDone s c x f fb 4 0 fun l =>
      (indexOf w m ((acts w m l).filter fun k => decide (rankIn a (param w m b.lanes.lane l) < rk k)) l, 0)) ∧
    (∃ order : Nat → List Nat, (∀ l, Ranked rk (acts w m l) (order l)) ∧
      exec (.vtopk f) s = .next (laneDone
        (if ((List.range 32).any fun l => bit m l && decide (w < (param w m b.lanes.lane l).toNat)) = true then s.modGang c x Gang.setWmod else s)
        c x f fb 4 0 fun l =>
          (indexOf w m ((order l).take (param w m b.lanes.lane l).toNat) l, 0))) ∧
    (∃ order : Nat → List Nat,
      (∀ l, Ranked (fun k => if bit (param w m b.lanes.lane l) 0 then -(rk k) else rk k) (acts w m l) (order l)) ∧
      ∃ tag : Byte, (tag = 0 ∨ tag = srcTag a) ∧
      ((∀ l < 32, bit m l = true → bit (param w m b.lanes.lane l) 1 = true) → (∃ l < 32, bit m l = true) → tag = 0) ∧
      ((∀ l < 32, bit m l = true → bit (param w m b.lanes.lane l) 1 = false) → tag = srcTag a) ∧
      exec (.vsort f) s = .next (laneDone s c x f fb 4 tag fun l =>
          (let k := (order l).getD (place w m l) l
           if bit (param w m b.lanes.lane l) 1 then BitVec.ofNat 32 (k % w) else a.lanes.lane k, 0)))

/-- R155, R157, R159: `vcvp2`, `vcvp4` and `vcvq` pack the elements of 2 or 4 consecutive FP32 registers into the lanes of D;
the residual of an error-feeding conversion passes from lane to lane in ascending order, apart for each source register. A
half target keeps the other half of each lane. `cb` is the crew's codebooks; the plaza context has none, and free values
of the model stand for them (log 14). -/
def Sys2Proof.Safety.PackConversions : Prop :=
  ∀ q ∈ ([(.vcvp2, 2, .mode2), (.vcvp4, 4, .mode4), (.vcvq, 4, .modeq)] : List ((T3 → Instr) × Nat × SrcCls)),
  ∀ (f : T3) (s : State) (c x : Nat) (vs : List Val) (old : Val),
    let n := q.2.1
    let m := (s.gang c x).lanes
    let pk := if q.2.2 = .modeq then packs 0 f.b (s.codebook c x) else packs n f.b (s.codebook c x)
    let run := fun j => convRun pk.2.2.2 m ((vs[j]?.map Val.lanes).getD (Lanes.splat 0)) (List.range 32) (.fin false 0 0)
    let fm := convForm q.2.2 n (pk.2.1.isSome) f
    f.a.toNat < 64 → vs.length = n →
    Ready s c x fm (vs ++ (if pk.2.1.isSome ∧ f.w = 0 then [old] else [])) →
    (∀ v ∈ vs, tagOk [1] v = true) →
    exec (q.1 f) s = .next (laneWrite s c x f fm.fb 4 pk.2.2.1
      (fun l => packLane pk.1 pk.2.1 ((List.range n).map fun j => (run j).1.getD l 0)
        (if f.w = 0 then old.lanes.lane l else 0))
      ((List.range n).foldl (fun acc j => acc ||| (run j).2) 0))

/-- R158: `vunpk` widens element j of each lane, in the format of the tag (which F may repeat), or for a source without a
tag in the format F names, 0 being BF16×2; the integer formats and the codes give RAW, the others F32. -/
def Sys2Proof.Safety.Unpack : Prop :=
  ∀ (f : T3) (s : State) (c x : Nat) (a : Val) (fm : Nat),
    Ready s c x (t3Form .v .any .unpk f) [a] → f.b.toNat % 8 < elemCount fm →
    (match a with
      | .v _ t => fm = fmtOf t ∧ 2 ≤ fm ∧ (f.b.toNat / 8 = 0 ∨ f.b.toNat / 8 = fm)
      | _ => fm = if f.b.toNat / 8 = 0 then 2 else f.b.toNat / 8) →
    exec (.vunpk f) s = .next (laneDone s c x f (t3Form .v .any .unpk f).fb 4
      (if fm = 8 ∨ fm = 9 ∨ fm = 12 ∨ fm = 13 then 0 else 1)
      fun l => if fm = 10 ∨ fm = 11 then widen (mxElem fm (laneBits a.lanes / 2 ^ (200 * (f.b.toNat % 8)) % 2 ^ 200) l)
        else unpackLane fm (s.codebook c x ((srcTag a).toNat / 16 % 8)) (a.lanes.lane l) (f.b.toNat % 8))

/-- R137, R102: a special function that the unit accepts empties D until its latency has passed, its results held by the
unit (a bank write of D that still pends is omitted, R71; where the area of a saved gang keeps what the bank holds is the model's choice, log 48); one that is not accepted parks its group for the unit, once in the unit's order of waiting. -/
def Sys2Proof.Safety.SpecialIssue : Prop :=
  ∀ p ∈ sfuLanes, ∀ (f : T3) (s : State) (c x : Nat) (a : Val),
    Ready s c x (t3Form .v .any .zero f) [a] → tagOk [1] a = true →
    let s' := noteFallback s c x (t3Form .v .any .zero f).fb
    let m := (s.gang c x).lanes
    (s.sfuFree c x = true →
      let o : SfuOp :=
        { ctx := x, binds := (s.gang c x).binds, dst := if f.w = 1 then none else some f.d.toNat,
          val := laneMerge m (fun l => (p.2.2 (a.lanes.lane l)).1) (fun _ => 0), mask := m,
          flags := laneFlags m (fun l => (p.2.2 (a.lanes.lane l)).2), issued := s.clock, due := s.clock + p.2.1 }
      let t := s'.modCore c fun k =>
        { k with sfu := sput k.sfu ((sfree k.sfu (k.sfu.length + 1) 0).getD 0) o, sfuQ := k.sfuQ.filter fun y => y != x }
      exec (p.1 f) s = .next ((if f.w = 1 then t
          else (t.setVreg c x f.d.toNat { t.vreg c x f.d.toNat with fe := .empty, busy := true }).modGang c x fun g =>
            g.omitWrite 0 f.d.toNat).modGang c x
        (retired false 0 4 { val := none, dest := f.d.setWidth 8, w := f.w == 1 }))) ∧
    (s.sfuFree c x = false →
      exec (p.1 f) s = .next ((s'.modCore c fun k =>
        { k with sfuQ := if k.sfuQ.contains x then k.sfuQ else k.sfuQ ++ [x] }).park c x .engine 8))

/-- R137: when a special function completes, the register that D named at issue gets its lanes and the tag F32, full with no producer, and its
flags are raised; with W = 1 nothing is written. -/
def Sys2Proof.Safety.SpecialCompletes : Prop :=
  ∀ (s : State) (c n : Nat) (o : SfuOp), sget (s.core c).sfu n = some o →
    let t := s.modCore c fun k => { k with sfu := sdel k.sfu n }
    (o.dst = none → exec (.sfuCompletion c n) s = .next (t.completed c o.ctx)) ∧
    (∀ d, o.dst = some d →
      exec (.sfuCompletion c n) s =
        .next (((t.fillV c o.ctx o.binds d o.mask o.val 1).raiseAt c o.ctx o.flags).completed c o.ctx))

/-- R104, R113: `vtake` copies the active lanes of A to D with A's tag and then empties all of A, which in a share is the
register of the share; a t is left as it is (R34's table names no t here; that R113's t is followed is the model's choice, log
50), and D equal to A without W is E_ILL. -/
def Sys2Proof.Safety.Take : Prop :=
  ∀ (f : T3) (s : State) (c x : Nat) (a : Val),
    Ready s c x (t3Form .v .vt .zero f) [a] →
    let t := laneDone s c x f (t3Form .v .vt .zero f).fb 4 (srcTag a) fun l => (a.lanes.lane l, 0)
    (64 ≤ f.a.toNat → exec (.vtake f) s = .next t) ∧
    (f.a.toNat < 64 → (f.w = 1 ∨ f.d.toNat ≠ f.a.toNat) →
      ((s.gang c x).bind? f.a.toNat = none →
        exec (.vtake f) s = .next (t.setVreg c x f.a.toNat { t.vreg c x f.a.toNat with fe := .empty })) ∧
      (∀ b, (s.gang c x).bind? f.a.toNat = some b →
        exec (.vtake f) s = .next (t.modCrew c (crewSlot x) fun w =>
          { w with shares := smod w.shares b.id fun h => h.take (f.a.toNat - b.first) }))) ∧
    (f.w = 0 → f.d.toNat = f.a.toNat → exec (.vtake f) s = .next (s.takeFault c x eIll 0 s.ir 0 0))

/-- R155, R157 to R159: the conversions that pack and unpack. -/
def Obligations.Conversions : Prop := PackConversions ∧ Unpack

/-- R102, R137: the special functions. -/
def Obligations.SpecialFunctions : Prop := SpecialIssue ∧ SpecialCompletes

/-- R113, R169, R172, R173: votes, lane numbers, the first lane, and `vtake`. -/
def Obligations.VotesAndTakes : Prop := VoteLaneidFirst ∧ Take
/-! ### Uniform, affine and mask arithmetic (R115 to R118) -/

namespace Sys2Proof.Safety

/-- MAJ 10 and 11 (R116): the forms with a register and with an immediate, and the operation. -/
noncomputable def uniOps : List ((SR → Instr) × (SRI → Instr) × (W → W → W)) := [
  (.sadd, .saddImm, fun a b => a + b),
  (.ssub, .ssubImm, fun a b => a - b),
  (.smul, .smulImm, fun a b => a * b),
  (.smulh, .smulhImm, fun a b => BitVec.ofInt 32 (a.toInt * b.toInt / 2 ^ 32)),
  (.sand, .sandImm, fun a b => a &&& b),
  (.sor, .sorImm, fun a b => a ||| b),
  (.sxor, .sxorImm, fun a b => a ^^^ b),
  (.sshl, .sshlImm, fun a b => a <<< cnt b),
  (.sshr, .sshrImm, fun a b => a >>> cnt b),
  (.ssra, .ssraImm, fun a b => a.sshiftRight (cnt b)),
  (.sminI32, .sminI32Imm, fun a b => if b.toInt < a.toInt then b else a),
  (.smaxI32, .smaxI32Imm, fun a b => if a.toInt < b.toInt then b else a),
  (.sminN32, .sminN32Imm, fun a b => if b.toNat < a.toNat then b else a),
  (.smaxN32, .smaxN32Imm, fun a b => if a.toNat < b.toNat then b else a),
  (.sdivN32, .sdivN32Imm, fun a b => if b = 0 then 0xffffffff else BitVec.ofNat 32 (a.toNat / b.toNat)),
  (.sremN32, .sremN32Imm, fun a b => if b = 0 then a else BitVec.ofNat 32 (a.toNat % b.toNat))]

/-- The exact value of lane `l` of an affine operand (R115). -/
def exact (p : W × W) (l : Nat) : Int := p.1.toInt + p.2.toInt * l

/-- AOV: some lane of the result, wrapped, is not its exact value. -/
def aov (b st : W) (e : Nat → Int) : BitVec 14 :=
  if ((List.range 32).any fun l => (b + st * BitVec.ofNat 32 l).toInt != e l) = true then 4 else 0

/-- Affine instructions of two operands (R115): the classes of A and B, base and stride, and the exact lanes. `p` and `q`
are the operands' bases and strides; a uniform one has stride 0. -/
noncomputable def affOps : List ((T3 → Instr) × SrcCls × SrcCls × (W × W → W × W → W × W) × (W × W → W × W → Nat → Int)) := [
  (.amk, .u, .u, fun p q => (p.1, q.1), fun p q l => p.1.toInt + q.1.toInt * l),
  (.aadd, .at, .atu, fun p q => (p.1 + q.1, p.2 + q.2), fun p q l => exact p l + exact q l),
  (.asub, .at, .atu, fun p q => (p.1 - q.1, p.2 - q.2), fun p q l => exact p l - exact q l),
  (.amul, .at, .u, fun p q => (p.1 * q.1, p.2 * q.1), fun p q l => exact p l * q.1.toInt),
  (.ashl, .at, .u, fun p q => (p.1 <<< cnt q.1, p.2 <<< cnt q.1), fun p q l => exact p l * 2 ^ cnt q.1)]

/-- MAJ 15 of two masks (R118). -/
noncomputable def maskOps : List ((T3 → Instr) × (W → W → W)) := [
  (.kand, fun a b => a &&& b), (.kor, fun a b => a ||| b), (.kxor, fun a b => a ^^^ b), (.kandn, fun a b => a &&& ~~~b)]

end Sys2Proof.Safety

/-- R116, R117: a uniform instruction writes sD with its operation on A and B, B being a register or the sign-extended
IMM11; `sli` and `slui` write their immediate; a destination of s0 discards the result; no flag is set. -/
def Obligations.UniformArithmetic : Prop :=
  (∀ p ∈ uniOps, ∀ (s : State) (c x : Nat) (a : W),
    (∀ (f : SR) (b : W), Ready s c x (srForm f) [.s a, .s b] →
      exec (p.1 f) s = .next (uniDone s c x f.d.toNat (srForm f).fb (p.2.2 a b))) ∧
    (∀ f : SRI, Ready s c x (sriForm f) [.s a] →
      exec (p.2.1 f) s = .next (uniDone s c x f.d.toNat false (p.2.2 a (f.imm.signExtend 32))))) ∧
  (∀ (f : UI) (s : State) (c x : Nat), Ready s c x (uiForm f) [] →
    exec (.sli f) s = .next (uniDone s c x f.d.toNat false (f.imm.signExtend 32)) ∧
    exec (.slui f) s = .next (uniDone s c x f.d.toNat false (f.imm.setWidth 32 <<< 11)))

/-- R115: the affine instructions compute base and stride modulo 2^32 and set AOV when some lane, wrapped, is not its exact
value; `ashr` also sets AFX when it drops bits; `aget` and `a2v` set no flag. -/
def Obligations.AffineArithmetic : Prop :=
  (∀ p ∈ affOps, ∀ (f : T3) (s : State) (c x : Nat) (a b : Val), Ready s c x (t3Form .a p.2.1 p.2.2.1 f) [a, b] →
    let u := fun v : Val => if p.2.1 = .u then (v.u, 0) else v.aff
    let r := p.2.2.2.1 (u a) (if p.2.2.1 = .u then (b.u, 0) else b.aff)
    exec (p.1 f) s = .next (affDone s c x f.d.toNat (t3Form .a p.2.1 p.2.2.1 f).fb
      (aov r.1 r.2 (p.2.2.2.2 (u a) (if p.2.2.1 = .u then (b.u, 0) else b.aff))) r.1 r.2)) ∧
  (∀ (f : T3) (s : State) (c x : Nat) (a b : Val), Ready s c x (t3Form .a .at .u f) [a, b] →
    let k := cnt b.u
    let r := (a.aff.1.sshiftRight k, a.aff.2.sshiftRight k)
    exec (.ashr f) s = .next (affDone s c x f.d.toNat (t3Form .a .at .u f).fb
      (aov r.1 r.2 (exact r) ||| if a.aff.1.toNat % 2 ^ k ≠ 0 ∨ a.aff.2.toNat % 2 ^ k ≠ 0 then 8 else 0) r.1 r.2)) ∧
  (∀ (f : T3) (s : State) (c x : Nat) (a : Val), Ready s c x (t3Form .s .at (.code 2) f) [a] →
    exec (.aget f) s = .next (uniDone s c x f.d.toNat (t3Form .s .at (.code 2) f).fb
      (if f.b = 0 then a.aff.1 else a.aff.2))) ∧
  (∀ (f : T3) (s : State) (c x : Nat) (a : Val), Ready s c x (t3Form .v .at .zero f) [a] →
    exec (.a2v f) s = .next (laneDone s c x f (t3Form .v .at .zero f).fb 4 0 fun l => (a.lanes.lane l, 0)))

/-- R118: the mask instructions write all 32 bits of kD, `kpop` and `kfirst` a uniform register; k0 reads as all ones, and a
result for k0 is discarded. -/
def Obligations.MaskArithmetic : Prop :=
  (∀ p ∈ maskOps, ∀ (f : T3) (s : State) (c x : Nat), Ready s c x (t3Form .k .kidx .kidx f) [] →
    exec (p.1 f) s = .next (maskDone s c x f.d.toNat (t3Form .k .kidx .kidx f).fb 0 0xffffffff
      (p.2 ((s.gang c x).kreg f.a.toNat) ((s.gang c x).kreg f.b.toNat)))) ∧
  (∀ (f : T3) (s : State) (c x : Nat),
    let k := (s.gang c x).kreg f.a.toNat
    (Ready s c x (t3Form .k .kidx .zero f) [] →
      exec (.knot f) s = .next (maskDone s c x f.d.toNat (t3Form .k .kidx .zero f).fb 0 0xffffffff (~~~k))) ∧
    (∀ a : W, Ready s c x (t3Form .k .u .zero f) [.s a] →
      exec (.kmov f) s = .next (maskDone s c x f.d.toNat (t3Form .k .u .zero f).fb 0 0xffffffff a)) ∧
    (Ready s c x (t3Form .s .kidx .zero f) [] →
      exec (.kpop f) s = .next (uniDone s c x f.d.toNat (t3Form .s .kidx .zero f).fb
        (BitVec.ofNat 32 ((List.range 32).filter fun i => bit k i).length)) ∧
      exec (.kfirst f) s = .next (uniDone s c x f.d.toNat (t3Form .s .kidx .zero f).fb
        (BitVec.ofNat 32 (((List.range 32).filter fun i => bit k i).headD 32)))))

/-! ### Control transfer (R91 to R94) and the control instructions (R82 to R90, R119 to R122) -/

namespace Sys2Proof.Safety

/-- The conditions of the branches with one outcome (R93). -/
noncomputable def branchOps : List ((BR → Instr) × (W → W → Bool)) := [
  (.beq, fun a b => a == b), (.bne, fun a b => a != b), (.blt, fun a b => decide (a.toInt < b.toInt)),
  (.bge, fun a b => decide (b.toInt ≤ a.toInt)), (.bltN, fun a b => decide (a.toNat < b.toNat)),
  (.bgeN, fun a b => decide (b.toNat ≤ a.toNat))]

/-- PC + 2 × a signed displacement. -/
def target {n : Nat} (pc : PC) (disp : BitVec n) : PC := pc + 2 * disp.signExtend 48

/-- The bits of k register `k` in the active lanes of slice `i`. -/
def sliceBits (g : Gang) (k : W) (i : Nat) : List Bool :=
  ((List.range 32).filter fun l => bit g.lanes l && l / 4 == i).map fun l => bit k l

/-- Every slice of the issuing group satisfies `p`. -/
def everySlice (g : Gang) (p : Nat → Bool) : Bool := (List.range 8).all fun i => !bit g.active i || p i

end Sys2Proof.Safety

/-- R93, R94, R66: a branch sends each slice of the issuing group to PC + 2 × DISP13 when its condition holds for it and to
PC + 4 otherwise, splitting the group where they differ (`splitTo`); `jmp` sends all to PC + 2 × DISP25. Each ends the run
with an empty trailer. -/
def Sys2Proof.Safety.Branches : Prop :=
  (∀ p ∈ branchOps, ∀ (f : BR) (s : State) (c x : Nat) (a b : W),
    Ready s c x { legal := true, fb := false, srcs := [uSrc f.a true, uSrc f.b true] } [.s a, .s b] →
    exec (p.1 f) s = .next (endDone s c x false 0 {} fun g =>
      g.splitTo fun _ => if p.2 a b then target g.pc f.disp else g.pc + 4)) ∧
  (∀ (f : BR) (s : State) (c x : Nat), Ready s c x { legal := true, fb := brFallback f } [] →
    exec (.bkany f) s = .next (endDone s c x (brFallback f) 0 {} fun g => g.splitTo fun i =>
      if (sliceBits g (g.kreg (f.b.toNat % 8)) i).any id then target g.pc f.disp else g.pc + 4) ∧
    exec (.bkall f) s = .next (endDone s c x (brFallback f) 0 {} fun g => g.splitTo fun i =>
      if (sliceBits g (g.kreg (f.b.toNat % 8)) i).all id then target g.pc f.disp else g.pc + 4)) ∧
  (∀ (f : J) (s : State) (c x : Nat), Ready s c x { legal := true, fb := false } [] →
    exec (.jmp f) s = .next (endDone s c x false 0 {} fun g => g.setPcs g.active (target g.pc f.disp)))

/-- R91, R92: `call` pushes PC + 4 on the stack of every slice of the group and goes to its target, unless one of them holds
8 entries, when it faults E_RSTK; `ret` pops every slice's stack, unless one is empty, when it faults E_RSTK, bit 0 of a popped
address being cleared; `jr` goes to PC[47:32] with sA below, and faults E_ALIGN on an odd sA. A fault changes no PC and no
stack. -/
def Sys2Proof.Safety.CallsAndReturns : Prop :=
  (∀ (f : J) (s : State) (c x : Nat), Ready s c x { legal := true, fb := false } [] →
    let room := everySlice (s.gang c x) fun i => decide ((vget (s.gang c x).retStacks i []).length < 8)
    (room = true → exec (.call f) s = .next (endDone s c x false 0 {} fun g =>
      { g with retStacks := Vector.ofFn fun i : Fin 8 => if bit g.active i.val then (g.pc + 4) :: g.retStacks[i] else g.retStacks[i] }.setPcs
        g.active (target g.pc f.disp))) ∧
    (room = false → exec (.call f) s = .next (s.takeFault c x eRstk 0 0 0 0))) ∧
  (∀ (f : EX) (s : State) (c x : Nat), Ready s c x (exForm .zero .zero .zero f) [] →
    let fb := exFallback .zero .zero .zero f
    let some1 := everySlice (s.gang c x) fun i => !(vget (s.gang c x).retStacks i []).isEmpty
    (some1 = true → exec (.ret f) s = .next (endDone s c x fb 0 {} fun g =>
      { (g.splitTo fun i => (vget g.retStacks i []).headD 0 &&& ~~~1) with
        retStacks := Vector.ofFn fun i : Fin 8 => if bit g.active i.val then g.retStacks[i].tail else g.retStacks[i] })) ∧
    (some1 = false → exec (.ret f) s = .next ((noteFallback s c x fb).takeFault c x eRstk 0 0 0 0))) ∧
  (∀ (f : EX) (s : State) (c x : Nat) (a : W), Ready s c x (exForm .zero .read .zero f) [.s a] →
    let fb := exFallback .zero .read .zero f
    (bit a 0 = false → exec (.jr f) s = .next (endDone s c x fb 0 {} fun g =>
      g.setPcs g.active (g.pc.extractLsb' 32 16 ++ a))) ∧
    (bit a 0 = true → exec (.jr f) s = .next ((noteFallback s c x fb).takeFault c x eAlign 0 0 0 0)))

/-- R83, R84, R86, R90, R249: `nop` only advances, and so does `isync` once no acquire of the gang is pending, for which it parks
(the model's choice, log 23, from what R249 says of instruction fetch); `endrun` ends the run with the trailer it names, N counting as 0
without a second v register and no further than v63; `yield`, which the plaza may not execute (R279), ends the run and puts the
gang last of its class. -/
def Sys2Proof.Safety.RunControl : Prop :=
  (∀ (f : EX) (s : State) (c x : Nat), Ready s c x (exForm .zero .zero .zero f) [] →
    let fb := exFallback .zero .zero .zero f
    exec (.nop f) s = .next (plainDone s c x fb) ∧
    (s.acqPending c x = false → exec (.isync f) s = .next (plainDone s c x fb)) ∧
    (s.acqPending c x = true → exec (.isync f) s = .next ((noteFallback s c x fb).park c x .engine 2)) ∧
    (x ≠ 64 → exec (.yield f) s = .next ((endDone s c x fb 4 {} id).modCore c fun k =>
      { k with last := vput k.last (s.crew c (x / 16)).prio x })) ∧
    (x = 64 → exec (.yield f) s = .next ((noteFallback s c x fb).takeFault c x ePerm 0 0 0 0))) ∧
  (∀ (f : EndrunF) (s : State) (c x : Nat),
    let nm : BitVec 7 → List (Nat × Nat) := fun k => if k.toNat < 64 then [(k.toNat, 1)] else []
    Ready s c x { legal := endrunLegal f, fb := endrunFallback f, names := nm f.x ++ nm f.y } [] →
    exec (.endrun f) s = .next (endDone s c x (endrunFallback f) 4
      { x := f.x, y := f.y, n := if 64 ≤ f.y.toNat then 0 else BitVec.ofNat 4 (min f.n.toNat (63 - f.y.toNat)) } id))

/-- R76, R77, R85, R279: `regang` parks the group at its PC and then lets the slices at the lowest `regang` go on together
once every live slice is parked there (`Gang.regang`); `exit` ends the issuing slices, after which the same check is made, and
the gang ends when none is live. The plaza may not execute `exit`. -/
def Sys2Proof.Safety.RegangAndExit : Prop :=
  ∀ (f : EX) (s : State) (c x : Nat), Ready s c x (exForm .zero .zero .zero f) [] →
    let fb := exFallback .zero .zero .zero f
    let t := endDone s c x fb 0 {} id
    let e := t.modGang c x fun g =>
      { g with live := g.live &&& ~~~g.active, groups := g.groups.filter fun q => q.slices != g.active }.regang
    exec (.regang f) s = .next (t.modGang c x fun g => (g.modGroup fun q => { q with park := some (.regang, 0) }).regang) ∧
    (x ≠ 64 → exec (.exit f) s = .next (if (e.gang c x).live = 0 then e.endGang c x else e)) ∧
    (x = 64 → exec (.exit f) s = .next ((noteFallback s c x fb).takeFault c x ePerm 0 0 0 0))

/-- R89: for a whole gang `setpt` completes: it sets PTILE, codes 0 to 7 clamped to 1 to 5. -/
def Sys2Proof.Safety.SetptCompletes : Prop :=
  ∀ (f : SetptF) (s : State) (c x : Nat), Ready s c x { legal := true, fb := setptFallback f, wide := true } [] →
    exec (.setpt f) s = .next (plainDone (s.modGang c x fun g =>
      { g with ptile := BitVec.ofNat 3 (max 1 (min 5 f.c.toNat)) }) c x (setptFallback f))

/-- R122, R279: for a whole gang outside the plaza `elect` completes: it takes a role that no gang of the crew holds, and else
changes nothing; in the plaza it faults E_PERM. -/
def Sys2Proof.Safety.ElectCompletes : Prop :=
  (∀ (f : ElectF) (s : State) (c x : Nat), Ready s c x { legal := f.role.toNat < 32, fb := false, wide := true } [] →
    let held := (s.core c).gangs.any fun p => decide (p.1 < 64) && p.1 / 16 == x / 16 && bit p.2.role f.role.toNat
    (x ≠ 64 → exec (.elect f) s = .next (plainDone (if held then s else s.modGang c x fun g =>
      { g with role := g.role ||| BitVec.ofNat 32 (2 ^ f.role.toNat) }) c x false)) ∧
    (x = 64 → exec (.elect f) s = .next (s.takeFault c x ePerm 0 0 0 0)))

/-- R119, R121: `rdctl` completes for every register number: it writes sD with the control register's value, a reserved one
reading 0 with WMOD, and TIMEL latching the upper half of the time. -/
def Sys2Proof.Safety.RdctlCompletes : Prop :=
  ∀ (f : EX) (s : State) (c x : Nat),
    let n := f.b.toNat
    let fb := exFallback .dest .zero (.idx 32) f || ctlReserved n
    Ready s c x { exForm .dest .zero (.idx 32) f with fb := fb } [] →
    let s' := noteFallback s c x fb
    exec (.rdctl f) s = .next (uniDone (if n = 14 then s'.modGang c x fun g =>
      { g with timeh := some (BitVec.ofNat 32 (s.time.now / 4 / 2 ^ 32)) } else s') c x f.d.toNat false (s'.readCtl c x n))

/-- R119 to R121, R126: `wrctl` completes for every register number: it clears the GSTAT bits written as 1 but for those that a
completion raised in this cycle, sets PTILE as `setpt` does, RMODE, the KUSE
bits of the issuing slices, or MXC, and ignores the others with WMOD. -/
def Sys2Proof.Safety.WrctlCompletes : Prop :=
  ∀ (f : EX) (s : State) (c x : Nat) (a : W),
    let n := f.b.toNat
    let ok := n = 0 ∨ n = 4 ∨ n = 5 ∨ n = 6 ∨ n = 11
    let fb := exFallback .zero .read (.idx 32) f || !decide ok
    Ready s c x { exForm .zero .read (.idx 32) f (decide ok && n != 6) with fb := fb } [.s a] →
    exec (.wrctl f) s = .next (plainDone ((noteFallback s c x fb).modGang c x fun g =>
      match n with
      | 0 => { g with gstat := (g.gstat &&& ~~~(a.setWidth 14)) ||| g.raised }
      | 4 => { (if a.toNat % 8 = 0 ∨ 6 ≤ a.toNat % 8 then g.setWmod else g) with
          ptile := BitVec.ofNat 3 (if a.toNat % 8 = 0 then 1 else min 5 (a.toNat % 8)) }
      | 5 => { g with rmode := a.setWidth 2 }
      | 6 => { g with kuse := maskOf 32 fun l => if bit g.active (l / 4) then bit a l else bit g.kuse l }
      | 11 => { g with mxc := a }
      | _ => g) c x false)

/-- R66, R91 to R94: branches, calls and returns. -/
def Obligations.ControlFlow : Prop := Branches ∧ CallsAndReturns

namespace Sys2Proof.Safety

/-- R64, R67: a context that has been ready for 256 cycles is aged; a run of 24 instructions ends, and RUNLEN is set. -/
def RunsAge : Prop :=
  ∀ (s : State) (c x : Nat),
    exec (.contextAged c x) s = .next (s.modGang c x fun g => { g with aged := g.aged || decide (256 ≤ g.age) }) ∧
    exec (.implicitTrailer c x) s = .next (if 24 ≤ (s.gang c x).runCnt then
      (s.modGang c x fun g => { g with gstat := g.gstat ||| 2 }).endRun c x {} else s)

end Sys2Proof.Safety

/-- R64, R67, R76, R77, R83 to R86, R90, R279: the ends of runs, and groups. -/
def Obligations.RunsAndGroups : Prop := RunControl ∧ RegangAndExit ∧ RunsAge

/-- R89, R119 to R122, R126: `setpt`, `elect`, `rdctl` and `wrctl` complete. -/
def Obligations.GangControl : Prop := SetptCompletes ∧ ElectCompletes ∧ RdctlCompletes ∧ WrctlCompletes

/-- R87: `trap code` and `brk` halt the gang at their own PC, with a record of E_TRAP and the 18-bit code, or of E_BRK; memory apart
from the record's posting, the gang keeps everything else but the held word of its group; a resume at the PC goes on at PC + 4, all else as it was. The word of
`trap 0x2a`. -/
def Obligations.TrapAndBreak : Prop :=
  (∀ (s : State) (c x : Nat) (i : Instr) (code : Byte) (info : W) (fb : Bool), x < 64 →
    ((∃ f : TrapF, i = .trap f ∧ code = 0x10 ∧ info = f.code.setWidth 32 ∧ fb = false ∧
        Ready s c x { legal := true, fb := false } []) ∨
     (∃ f : EX, i = .brk f ∧ code = 0x11 ∧ info = 0 ∧ fb = exFallback .zero .zero .zero f ∧
        Ready s c x (exForm .zero .zero .zero f) [])) →
    let g := ((noteFallback s c x fb).gang c x).modGroup fun q => { q with held := none }
    ∃ t rc, exec i s = .next t ∧ t = (noteFallback s c x fb).takeFault c x code 0 info 0 0 ∧
      t.gang c x = { g with halt := some rc } ∧ rc.code = code ∧ rc.b1 = 0 ∧ rc.info = info ∧ rc.pc = (s.gang c x).pc ∧
      (t.gang c x).resume = { g with
        halt := none, pcs := Vector.ofFn fun k : Fin 8 => if bit g.active k.val then g.pc + 4 else g.pcs[k] }) ∧
  decodeTableWord 32 0x000a8c31 = some (.trap { code := 0x2a })

/-- R88: `kuse kN` copies k register N into the KUSE bits of the lanes of the issuing slices and keeps those of the others; `kuse k0`
sets the copied bits to 1; the next instruction's active lanes are those of the new KUSE; a read of KUSE, control register 6, gives
all 32 bits. The word of `kuse k2`. -/
def Obligations.LaneMasks : Prop :=
  (∀ (f : EX) (s : State) (c x : Nat), Ready s c x (exForm .zero (.idx 8) .zero f) [] →
    let new : W := maskOf 32 fun l =>
      if bit (s.gang c x).active (l / 4) then bit ((s.gang c x).kreg f.a.toNat) l else bit (s.gang c x).kuse l
    ∃ t, exec (.kuse f) s = .next t ∧
      t = plainDone (s.modGang c x fun g => { g with kuse := new }) c x (exFallback .zero (.idx 8) .zero f) ∧
      (t.gang c x).kuse = new ∧ t.readCtl c x 6 = new ∧
      (∀ l < 32, bit (s.gang c x).active (l / 4) = true → bit new l = bit ((s.gang c x).kreg f.a.toNat) l ∧
        (f.a = 0 → bit new l = true) ∧
        bit (t.gang c x).lanes l = (bit (s.gang c x).live (l / 4) && bit new l)) ∧
      (∀ l < 32, bit (s.gang c x).active (l / 4) = false → bit new l = bit (s.gang c x).kuse l)) ∧
  decodeTableWord 32 0x00201231 = some (.kuse { d := 0, bd := 0, a := 2, ba := 0, b := 0, bb := 0 })

/-! ### Memory (R187 to R204, R214 to R226, R237 to R241) -/

namespace Sys2Proof.Safety

/-- The memory instructions: operation, width, conversion, registers and tags (R197 to R200). -/
noncomputable def memOps : List ((MR → Instr) × MemIns) := [
  (.vldB8, { op := .load, width := 1, mxOk := false }),
  (.vldI8, { op := .load, width := 1, conv := .sext, mxOk := false }),
  (.vldH16, { op := .load, width := 2, mxOk := false }),
  (.vldI16, { op := .load, width := 2, conv := .sext, mxOk := false }),
  (.vldW32, { op := .load, width := 4, recTag := true }),
  (.vldX2, { op := .load, width := 8, n := 2, recTag := true, mxOk := false }),
  (.vldX4, { op := .load, width := 16, n := 4, recTag := true, mxOk := false }),
  (.vldF16, { op := .load, width := 2, conv := .f16, tag := 1, mxOk := false }),
  (.vstB8, { op := .store, width := 1, mxOk := false }),
  (.vstH16, { op := .store, width := 2, mxOk := false }),
  (.vstW32, { op := .store, width := 4 }),
  (.vstX2, { op := .store, width := 8, n := 2, mxOk := false }),
  (.vstX4, { op := .store, width := 16, n := 4, mxOk := false }),
  (.vstF16, { op := .store, width := 2, data := [[1]], mxOk := false, narrow := true }),
  (.vatomAdd, { op := .atomic .add, width := 4, data := [[0]] }),
  (.vatomFadd, { op := .atomic .fadd, width := 4, data := [[1]], tag := 1 }),
  (.vatomMinI32, { op := .atomic .min, width := 4, data := [[0]] }),
  (.vatomMaxI32, { op := .atomic .max, width := 4, data := [[0]] }),
  (.vatomAnd, { op := .atomic .and, width := 4 }),
  (.vatomOr, { op := .atomic .or, width := 4 }),
  (.vatomXchg, { op := .atomic .xchg, width := 4 }),
  (.vatomCas, { op := .atomic .cas, width := 4, n := 2 }),
  (.sldW, { op := .load, width := 4, uni := true }), (.sldH, { op := .load, width := 2, uni := true }),
  (.sldB, { op := .load, width := 1, uni := true }), (.sstW, { op := .store, width := 4, uni := true }),
  (.sstH, { op := .store, width := 2, uni := true }), (.sstB, { op := .store, width := 1, uni := true }),
  (.satomAdd, { op := .atomic .add, width := 4, uni := true }),
  (.satomCas, { op := .atomic .cas, width := 4, uni := true, n := 2 })]

/-- The index of each lane that takes part: the uniform value for lane 0, or the lanes of X in the active lanes. -/
def lanesIdx (m : MemIns) (g : Gang) (vs : List Val) : List (Nat × W) :=
  if m.uni then [(0, uVal vs 0)]
  else (activeList g.lanes).map fun l => (l, ((vs[0]?.map Val.lanes).getD (Lanes.splat 0)).lane l)

/-- The places of those lanes under the record (R189). -/
def placesOf (s : State) (c x : Nat) (m : MemIns) (r : BitVec 128) (vs : List Val) : List (Nat × Place) :=
  (lanesIdx m (s.gang c x) vs).map fun p =>
    (p.1, laneAddress r c (s.pinOf c x).1 (s.pinOf c x).2 p.2.toNat m.width)

/-- The lanes in bounds: lane, address, and whether a `local` lane overruns the pinned region. -/
def inBounds (ps : List (Nat × Place)) : List (Nat × Nat × Bool) :=
  ps.filterMap fun p => match p.2 with
    | .oob => none
    | .at a o => some (p.1, a, o)

/-- The checks of R190 in order, each with the fault of a failure. -/
def accessFails (s : State) (c x : Nat) (m : MemIns) (r : BitVec 128) (vs : List Val) : List (Bool × Byte) :=
  let ps := placesOf s c x m r vs
  let lanes := inBounds ps
  let mx := !m.uni && !m.isAtomic && recMx r
  [(recBad r, eRec),
   ((!m.uni && !m.isAtomic && !m.mxOk && recMx r) || ((vs.drop 1).zip m.data).any (fun p => !tagOk p.2 p.1), eFmt),
   (m.reads && recRo r, ePerm),
   (recStrict r && ps.any (fun p => p.2 == .oob), eBnd),
   (!mx && lanes.any (fun p => p.2.1 % m.width != 0), eAlign),
   (recKind r != 0 && lanes.any (fun p => p.2.2 || !sramExists p.2.1 || !sramExists (p.2.1 + m.width - 1)), ePerm),
   (recKind r != 0 && lanes.any (fun p => !s.regionFor c x p.2.1 || !s.regionFor c x (p.2.1 + m.width - 1)), ePerm)]

/-- What a lane stores, or its atomic operand, with the flags of its conversion. -/
def storedLane (m : MemIns) (rm : Nat) (vs : List Val) (l : Nat) : Nat × BitVec 14 :=
  let ds := (vs.drop 1).map fun v : Val => v.lanes.lane l
  if m.narrow then ((convElem fp16 rm (ds.headD 0) (.fin false 0 0)).1, (convElem fp16 rm (ds.headD 0) (.fin false 0 0)).2.1)
  else if m.isAtomic then ((ds.headD 0).toNat, 0)
  else (ds.foldr (fun w acc => w.toNat + 2 ^ 32 * acc) 0, 0)

/-- The access that an instruction makes, before it has its number and its lines. ORD 3 of an atomic counts as 0. -/
def accessOf (s : State) (c x : Nat) (m : MemIns) (f : MR) (r : BitVec 128) (vs : List Val) : Access :=
  let g := s.gang c x
  let ps := placesOf s c x m r vs
  let ord := if m.isAtomic && f.ord == 3 then 0 else f.ord.toNat
  { ctx := x, pc := g.pc, op := m.op, dev := recKind r == 0, width := m.width, conv := m.conv
    dst := if m.op = .store then .none else if m.uni then .s f.d.toNat else .v f.d.toNat (if m.isAtomic then 1 else m.n)
    tag := if m.recTag then recFmt r else m.tag
    lanes := (inBounds ps).map fun p =>
      { lane := p.1, addr := p.2.1, data := (storedLane m g.rmode.toNat vs p.1).1
        data2 := if m.isAtomic then ((vs[2]?.map fun v : Val => v.lanes.lane p.1).getD 0).toNat else 0 }
    oob := maskOf 32 fun l => ps.any fun p => p.1 == l && p.2 == .oob
    mxf6 := !m.uni && !m.isAtomic && recMx r, lines := [], stream := ord == 3
    acq := ord == 1 && m.op != .store, rel := ord == 1 && m.op != .load, strong := ord == 2
    scope := if f.ord == 0 then 0 else f.scope.toNat }

/-- The flags that the instruction raises: OOB, and those of the conversion of each stored lane. -/
def accessFlags (s : State) (c x : Nat) (m : MemIns) (r : BitVec 128) (vs : List Val) : BitVec 14 :=
  let ps := placesOf s c x m r vs
  (inBounds ps).foldl (fun a p => a ||| (storedLane m (s.gang c x).rmode.toNat vs p.1).2)
    (if ps.any (fun p => p.2 == .oob) then fOob else 0)

end Sys2Proof.Safety

/-- R190, R191, R197 to R200, R237, R238: a load, store or atomic whose operands are ready faults with the first check of R190
that fails; where none fails and the queue takes it (and, for a strong one, the fence before it is over), it raises its flags
and sends its access. The second issue of a strong one, once the fence behind it is over, retires it, and so does that of one
which has waited, since its locations were looked up, for an acquire that issued before it. -/
def Sys2Proof.Safety.MemoryInstructions : Prop :=
  ∀ p ∈ memOps, ∀ (f : MR) (s : State) (c x : Nat) (vs : List Val),
    (s.inSecondFence = false → s.behindAcquire = false → Ready s c x (p.2.form f) vs →
      let r := vget (s.gang c x).recs f.rc.toNat 0
      let s' := noteFallback s c x (p.2.form f).fb
      let a := accessOf s c x p.2 f r vs
      (∀ e, (accessFails s c x p.2 r vs).find? (fun q => q.1) = some (true, e) →
        exec (p.1 f) s = .next (s'.takeFault c x e 0 0 0 0)) ∧
      ((accessFails s c x p.2 r vs).find? (fun q => q.1) = none → s'.mayIssueMem c x a = true →
        (a.strong = true → s'.fenceDone c x 1 a.scope = true) →
        exec (p.1 f) s = .next (settle s' c x (.ok
          ((s'.modGang c x fun g => g.raise (accessFlags s c x p.2 r vs)).send c x a))))) ∧
    (s.issuer = some (c, x) → (s.inSecondFence = true ∧ s.fenceDone c x 1 f.scope.toNat = true) ∨
        (s.behindAcquire = true ∧ s.acqAhead c x = false) →
      exec (p.1 f) s = .next (s.modGang c x (retired false 0 4
        { val := none, dest := if p.2.op = .store then 0x7f else if p.2.uni then 64 + f.d.setWidth 8 else f.d.setWidth 8
          w := false })))

/-- R184, R192, R237: an access to tile SRAM is sent with the next number and its lines; its destination goes empty with a
producer outstanding; the count of each scope rises by its lines with a home in that scope's unit; memory keeps every byte. -/
def Sys2Proof.Safety.AccessSent : Prop :=
  ∀ (s : State) (c x : Nat) (a : Access), (s.gang? c x).isSome = true → a.dev = false → a.strong = false →
    ((a.mkLines s).isEmpty = false ∨ a.dst ≠ .none) →
    (∀ first k, a.dst = .v first k → first + k ≤ 64 ∧ ∀ j < k, (s.gang c x).bind? (first + j) = none) →
    let d := s.send c x a
    let n := (s.core c).nextAcc
    d.parks = none ∧ d.dest = a.dst.code ∧ d.s.mem = s.mem ∧ (d.s.core c).nextAcc = n + 1 ∧
    (∃ b, d.s.acc c n = some b ∧ b.lines = a.mkLines s ∧ b.lanes = a.lanes ∧ b.op = a.op ∧ b.dst = a.dst ∧ b.ctx = a.ctx) ∧
    (∀ sc < 5, vget (d.s.gang c x).counts sc 0 =
      vget (s.gang c x).counts sc 0 + ((a.mkLines s).filter fun l => homeWithin c l.home sc).length) ∧
    (∀ first k, a.dst = .v first k → ∀ j < k,
      (d.s.vreg c x (first + j)).fe = .empty ∧ (d.s.vreg c x (first + j)).busy = true) ∧
    (∀ i < 32, i ≠ 0 → a.dst = .s i →
      ((d.s.gang c x).sreg i).fe = .empty ∧ ((d.s.gang c x).sreg i).busy = true)

/-- R184, R192, R193, R216, R237, R238: a line of a store that may leave for its home, and that the bridge or port on its way,
if there is one, has accepted, is performed there: its lanes store in ascending order, so that a byte holds what the last lane
that covers it stores, but for one in which a higher lane has stored already when the line was split (`Access.stored`); every
other byte keeps its value, and the line is performed. A line that is held back, that waits for a release's reports or in its
slot's queue, that is not accepted, not on its way or not there leaves the state as it is. -/
def Sys2Proof.Safety.StorePerformed : Prop :=
  ∀ (s : State) (c n i : Nat),
    ((∀ a ln, s.acc c n = some a → a.lines[i]? = some ln →
      ln.st ≠ .sent ∨ s.heldBack c n a ln = true ∨ a.reportsDue ln = true ∨ s.queuedBehind c a ln = true ∨
        ((s.lineUnit c a ln).isSome ∧ ln.bridge = none)) →
      exec (.accessPerformedAtHome c n i) s = .next s) ∧
    (∀ a ln, s.acc c n = some a → a.lines[i]? = some ln → s.mayLeave c n a ln = true →
      ((s.lineUnit c a ln).isSome → ln.bridge.isSome) → a.op = .store → a.dst = .none →
      ∃ t, exec (.accessPerformedAtHome c n i) s = .next t ∧
        (∃ b, t.acc c n = some b ∧ (b.lines[i]?).map (·.st) = some .performed) ∧
        (∀ k, (∀ l ∈ a.lanes, bit ln.lanes l.lane = true → ∀ q ∈ a.bytesIn ln l,
            a.stored ln.base l (a.byteAddr l q.1) = false → q.2 ≠ k) →
          memRead t.mem k = memRead s.mem k) ∧
        (∀ pre l post, a.lanes = pre ++ l :: post → bit ln.lanes l.lane = true → a.laneWidth l.lane ≤ 16 →
          ∀ q ∈ a.bytesIn ln l, a.stored ln.base l (a.byteAddr l q.1) = false →
            (∀ m ∈ post, bit ln.lanes m.lane = true → ∀ r ∈ a.bytesIn ln m,
              a.stored ln.base m (a.byteAddr m r.1) = false → r.2 ≠ q.2) →
            memRead t.mem q.2 = BitVec.ofNat 8 (l.data / 256 ^ q.1)))

/-- R193, R199, R200, R216: a line of a load performed at its home leaves every byte as it is; an atomic of one lane puts the
new word of its operation in the place of the old one, unless the word is marked uncorrectable, and no other byte changes. -/
def Sys2Proof.Safety.LoadAndAtomicPerformed : Prop :=
  ∀ (s : State) (c n i : Nat) (a : Access) (ln : LineAcc), s.acc c n = some a → a.lines[i]? = some ln →
    s.mayLeave c n a ln = true → ((s.lineUnit c a ln).isSome → ln.bridge.isSome) → s.savedAt c a.ctx = none →
    (a.op = .load → ∃ t, exec (.accessPerformedAtHome c n i) s = .next t ∧ t.mem = s.mem) ∧
    (∀ (op : AtomOp) (l : LaneAcc) (k : Nat) (r : List (Nat × Nat)), a.op = .atomic op → a.lanes = [l] →
      bit ln.lanes l.lane = true → a.bytesIn ln l = (0, k) :: r →
      let old : W := BitVec.ofNat 32 (s.load k 4)
      let d : W := BitVec.ofNat 32 l.data
      let new : W := match op with
        | .add => old + d
        | .fadd => (w32 (fp32.add .ne old.toNat d.toNat)).1
        | .min => if d.toInt < old.toInt then d else old
        | .max => if old.toInt < d.toInt then d else old
        | .and => old &&& d
        | .or => old ||| d
        | .xchg => d
        | .cas => if old = d then BitVec.ofNat 32 l.data2 else old
      ∃ t, exec (.accessPerformedAtHome c n i) s = .next t ∧
        t.mem = (if s.isBad k 4 then s.mem else writeBytes s.mem k (leBytes 4 new.toNat)) ∧
        (∃ b, t.acc c n = some b ∧ b.poison = (a.poison || s.isBad k 4) ∧ b.lanes = [{ l with data := old.toNat }]))

/-- R237, R238, R102, R191: an acknowledgement takes a performed line from the count of the unit that holds it, and ends a store
whose lines are all acknowledged; a unit that a release has marked reports once its count for the gang is 0; a load whose lines
are all acknowledged fills its destination, as the gang named it at issue, with 0 in the lanes out of bounds, or poisons it
with cause 3; the data of a `cbld` are written into the codebook as they arrive, in the order of issue (R150, R151). -/
def Sys2Proof.Safety.AccessCompletes : Prop :=
  ∀ (s : State) (c n : Nat) (a : Access), s.acc c n = some a →
    (∀ (i : Nat) (ln : LineAcc), a.lines[i]? = some ln →
      let s' := match ln.bridge with
        | some u => s.countBridge u c a.ctx 0 ln.home (· - 1)
        | none => s.countHome c a.ctx 0 ln.home (· - 1)
      let b := { a with lines := a.lines.set i { ln with st := .done } }
      (ln.st ≠ .performed → exec (.accessAck c n i) s = .next s) ∧
      (ln.st = .performed → (a.dst ≠ .none ∨ b.allDone = false) → exec (.accessAck c n i) s = .next (s'.setAcc c n b)) ∧
      (ln.st = .performed → a.dst = .none → b.allDone = true →
        exec (.accessAck c n i) s = .next ((s'.modCore c fun k => { k with accs := sdel k.accs n }).reap c a.ctx))) ∧
    (∀ unit : Nat,
      let holds := (s.core c).accs.any fun p => p.1 < n && p.2.ctx == a.ctx && p.2.op != .load &&
        p.2.lines.any fun l => l.bridge.or (s.exitUnit c l.home) == some unit && (l.st == .sent || l.st == .performed)
      (unit ∈ a.marked → unit ∉ a.reported → holds = false →
        (∀ sc < 5, sgetD s.bridges (bridgeKey unit c a.ctx 0 sc) 0 = 0) →
        exec (.bridgeCountReport c n unit) s = .next (s.setAcc c n { a with reported := a.reported ++ [unit] })) ∧
      (unit ∉ a.marked ∨ unit ∈ a.reported ∨ holds = true →
        exec (.bridgeCountReport c n unit) s = .next s)) ∧
    (a.allDone = false → exec (.loadCompletion c n) s = .next s) ∧
    (a.allDone = true → a.cancelled = false →
      let s' := s.modCore c fun k => { k with accs := sdel k.accs n }
      (∀ i, a.dst = .s i → exec (.loadCompletion c n) s = .next (
        (if a.poison then s'.poisonS c a.ctx i 3
          else s'.fillS c a.ctx i ((a.lanes.head?.map fun l => loadValue a.conv a.width l.data).getD 0)).reap c a.ctx)) ∧
      (∀ v, a.dst = .v v 1 → exec (.loadCompletion c n) s = .next (
        (if a.poison then s'.poisonV c a.ctx a.binds v 3
          else s'.fillV c a.ctx a.binds v a.oob (Lanes.splat 0) a.tag).reap c a.ctx))) ∧
    (∀ i, a.dst = .cb i → a.allDone = true → a.given = false → a.poison = false → s.cbFirst c a.ctx n i = true →
      ∀ l, a.lanes = [l] → exec (.loadCompletion c n) s = .next ((s.setAcc c n { a with given := true }).modCrew c (a.ctx / 16)
        fun w => { w with cbs := vput w.cbs i (Vector.ofFn fun j : Fin 16 => BitVec.ofNat 16 (l.data / 2 ^ (16 * j.val))) }))

/-- R239, R240: a fence whose paths' counts at its scope are 0 only advances; any other parks the group. -/
def Sys2Proof.Safety.Fences : Prop :=
  (∀ (f : FenceF) (s : State) (c x : Nat),
    let fb := f.rest != 0 || 4 < f.scope.toNat
    Ready s c x { legal := true, fb := fb } [] →
    let s' := noteFallback s c x fb
    exec (.fence f) s = .next (if s'.fenceDone c x 1 (min f.scope.toNat 4) then plainDone s' c x false
      else s'.park c x .fence 0)) ∧
  (∀ (f : FenceXF) (s : State) (c x : Nat),
    let fb := f.rest != 0 || 4 < f.scope.toNat
    Ready s c x { legal := true, fb := fb } [] →
    let s' := noteFallback s c x fb
    exec (.fenceX f) s = .next (if s'.fenceDone c x f.setA (min f.scope.toNat 4) then plainDone s' c x false
      else s'.park c x .fence 0))

namespace Sys2Proof.Safety

/-- The place of a record field by the selector of `brset` (R195): first bit and width. -/
def recField (sel : Nat) : Nat × Nat :=
  match sel with
  | 0 => (0, 32) | 1 => (32, 16) | 2 => (96, 32) | 3 => (64, 24) | 4 => (56, 8) | 5 => (48, 6) | 6 => (88, 8) | _ => (0, 48)

end Sys2Proof.Safety

/-- R150, R194, R195: `brset` changes one field of a record and keeps its other bits; selector 7 adds to BASE. `brld` and
`cbld` read 16 and 32 aligned bytes of SRAM: the first issue sends the read and parks; once it is complete the record or the
codebook (written when the data arrive) has what it holds, or E_POISON is taken; a misaligned address is E_ALIGN and one that
may not be accessed E_PERM. The INFO of that E_POISON is the model's choice (log 58). -/
def Sys2Proof.Safety.RecordsAndCodebooks : Prop :=
  (∀ (f : EX) (s : State) (c x : Nat) (a : W), Ready s c x (exForm (.low 4) .read (.idx 8) f) [.s a] →
    let n := f.d.toNat % 16
    let r := vget (s.gang c x).recs n 0
    let q := recField f.b.toNat
    let new := if f.b = 7 then BitVec.ofNat 128 (r.setWidth 48 + a.signExtend 48).toNat else a.setWidth 128
    exec (.brset f) s = .next (plainDone ((noteFallback s c x (exForm (.low 4) .read (.idx 8) f).fb).modGang c x fun g =>
      { g with recs := vput g.recs n (BitVec.ofNat 128
        (r.toNat - r.toNat / 2 ^ q.1 % 2 ^ q.2 * 2 ^ q.1 + new.toNat % 2 ^ q.2 * 2 ^ q.1)) }) c x false)) ∧
  (∀ (f : EX) (s : State) (c x : Nat) (a : W),
    let go := fun (fm : Form) (i : Instr) (size : Nat) (dst : AccDst) (ready : Access → Bool) (put : State → Nat → State) =>
      Ready s c x fm [.s a] →
      let s' := noteFallback s c x fm.fb
      (s'.awaited c x = none →
        (a.toNat % size ≠ 0 → exec i s = .next (s'.takeFault c x eAlign 0 0 0 0)) ∧
        (a.toNat % size = 0 → (sramExists a.toNat && s'.regionFor c x a.toNat) = false →
          exec i s = .next (s'.takeFault c x ePerm 0 0 0 0)) ∧
        (a.toNat % size = 0 → (sramExists a.toNat && s'.regionFor c x a.toNat) = true →
          let rd : Access := { ctx := x, pc := (s.gang c x).pc, op := .load, dev := false, width := size, dst := dst
                               lanes := [{ lane := 0, addr := a.toNat }], lines := [] }
          exec i s = .next (if s'.mayIssueMem c x rd then (s'.send c x rd).s.park c x .engine 3
            else s'.park c x .engine 2))) ∧
      (∀ k acc, s'.awaited c x = some (k, acc) →
        (acc.allDone = false ∨ (acc.poison = false ∧ ready acc = false) → exec i s = .next (s'.park c x .engine 3)) ∧
        (acc.allDone = true → acc.poison = true → exec i s = .next (s'.takeFault c x ePoison 3 0 0 0)) ∧
        (acc.allDone = true → ready acc = true → acc.poison = false → ∀ l, acc.lanes = [l] → exec i s = .next (plainDone
          (put (s'.modCore c fun q => { q with accs := sdel q.accs k }) l.data) c x false)))
    go (exForm (.low 4) .read .zero f) (.brld f) 16 (.buf (f.d.toNat % 16)) (fun _ => true) (fun s v => s.modGang c x fun g =>
      { g with recs := vput g.recs (f.d.toNat % 16) (BitVec.ofNat 128 v) }) ∧
    go (exForm (.low 3) .read .zero f) (.cbld f) 32 (.cb (f.d.toNat % 8)) (·.given) (fun s _ => s))

/-- R202 to R204, R392: `prm` reads word A of a window: an unbound window gives 0 with PWUNB, one past its end 0 with PWOOB, word
0 of window 0 of a stream launch the stream id, a line in the cache its word; for any other the LS read of the line's 64 bytes
is sent, as a plain load is, and the group parks until the line has come, which PARAM_LINE_FILL brings. A read that has met an
uncorrectable error is E_POISON (the model's choice, log 58). -/
def Sys2Proof.Safety.Parameters : Prop :=
  (∀ (f : EX) (s : State) (c x : Nat) (a : W), Ready s c x (exForm .dest (.idx 4) .read f) [.s a] →
    let s' := noteFallback s c x (exForm .dest (.idx 4) .read f).fb
    let n := f.a.toNat
    let size := s'.winSize c x n
    let w := s'.crew c (x / 16)
    let put := fun (t : State) (v : W) => uniDone t c x f.d.toNat false v
    (size = 0 → exec (.prm f) s = .next (put (s'.modGang c x fun g => g.raise fPwunb) 0)) ∧
    (size ≠ 0 → size < 4 * a.toNat + 4 → exec (.prm f) s = .next (put (s'.modGang c x fun g => g.raise fPwoob) 0)) ∧
    (4 * a.toNat + 4 ≤ size →
      (∀ id, n = 0 → a = 0 → w.stream = some id → exec (.prm f) s = .next (put s' id)) ∧
      ((n ≠ 0 ∨ a ≠ 0 ∨ w.stream = none) →
        (∀ l, (s'.core c).pline (w.launch.setWidth 8) n (a.toNat / 16) = some l → exec (.prm f) s = .next
          (put (s'.modCore c fun k => { k with pcache := plinePut k.pcache l })
            (BitVec.ofNat 32 (leNat ((l.bytes.drop (4 * (a.toNat % 16))).take 4))))) ∧
        ((s'.core c).pline (w.launch.setWidth 8) n (a.toNat / 16) = none →
          let line := n * 1024 + a.toNat / 16
          let rd : Access := { ctx := x, pc := (s.gang c x).pc, op := .load, dev := true, width := 64, dst := .prm line
                               lanes := [{ lane := 0, addr := s'.lineVa c x line }], lines := [] }
          (s'.fillOf c x line = true → exec (.prm f) s = .next (s'.park c x .engine 4)) ∧
          (s'.fillOf c x line = false → s'.mayIssueMem c x rd = false → exec (.prm f) s = .next (s'.park c x .engine 2)) ∧
          (s'.fillOf c x line = false → s'.mayIssueMem c x rd = true →
            let d := s'.send c x rd
            exec (.prm f) s = .next (d.s.park c x (d.parks.getD (.engine, 4)).1 (d.parks.getD (.engine, 4)).2)))))) ∧
  (∀ (s : State) (c x : Nat),
    (s.fillArrived c x = none → exec (.paramLineFill c x) s = .next s) ∧
    (∀ n line a, s.fillArrived c x = some (n, line, a) →
      let s' := s.modCore c fun k => { k with accs := sdel k.accs n }
      (a.poison = true → exec (.paramLineFill c x) s = .next (s'.takeFault c x ePoison 3 0 0 0)) ∧
      (a.poison = false → ∀ l, a.lanes = [l] → exec (.paramLineFill c x) s = .next (s'.modCore c fun k => { k with
        pcache := plinePut k.pcache { launch := (s.launchOf c x).setWidth 8, win := line / 1024, off := line % 1024
                                      bytes := leBytes 64 l.data } }))))

/-- R94, R214, R217, R218, R202: where the lookups of a gang end, a fetch whose pages pass issues again at its PC, and one whose
page fails leaves a page-fault record; an access whose lookups all pass, the read of a parameter line among them, goes on its
way (where an acquire that issued before it is pending its gang parks, R238), and one with a failed page leaves its record. -/
def Sys2Proof.Safety.LookupsEnd : Prop :=
  ∀ (s : State) (c x : Nat),
    ((s.gang c x).look = none → exec (.translationLookupEnd c x) s = .next s) ∧
    ((s.gang c x).look = some .fetch → ∀ t r, s.tryFetch c x = (t, r) →
      exec (.translationLookupEnd c x) s = .next (match r with
        | none => t.lookDone c x
        | some (va, f) => t.lookFault c x .fetch .fetch false va f)) ∧
    (∀ n a t unf fs, (s.gang c x).look = some (.access n) → s.acc c n = some a → s.translate c n a = (t, unf, fs) →
      exec (.translationLookupEnd c x) s = .next (if fs = [] then t.sentAll c x a else t.pageFault c x n a unf fs false))

/-- R220 to R224, R206: the translation commands: a command beyond a full queue sets TQERR; a malformed one writes DONE with
status 1, and one that names no record with status 2; REPLAY replays the named records and CANCEL makes faults of them after
it has replayed the others, DONE waiting for the marked saved gangs (`actPf`). TSYNC waits for the stores that the submitting
hart made before, removes the named entries from every cache, and waits for the lines already translated through them; one of a whole address space
waits for what has been translated meanwhile, too, and then puts its root into effect; and DONE is written. That the others are
replayed before, and also where CANCEL names nothing, is the model's choice (log 33), and so is that its DONE waits for no saved
gang that it does not name (log 74). -/
def Obligations.TranslationCommands : Prop :=
  (∀ (d : Nat) (t : TCmd) (s : State), 32 ≤ (s.die d).tsyncs.length + (s.die d).tqWaits.length → ∀ i ∈ [Instr.replay d t, .cancel d t, .tsync d t],
    exec i s = .next (s.modDie d fun q => { q with tqErr := true })) ∧
  (∀ (d : Nat) (t : TCmd) (s : State), (s.die d).tsyncs.length + (s.die d).tqWaits.length < 32 →
    let bad := t.resv || t.va.toNat % 65536 != 0 || (t.done != 0 && !hbmUsable t.done.toNat)
    let c := t.core.toNat / 16
    let all := s.pendingPf c t.asid
    (bad = true ∨ gidOk t.core = false → exec (.replay d t) s = .next (s.doneWord t.done.toNat t.tag 1) ∧
      exec (.cancel d t) s = .next (s.doneWord t.done.toNat t.tag 1)) ∧
    (bad = true → exec (.tsync d t) s = .next (s.doneWord t.done.toNat t.tag 1)) ∧
    (bad = false → gidOk t.core = true →
      let named := all.filter fun p => t.seq == 0xffffffff || p.seq == t.seq
      exec (.replay d t) s = .next (if named.isEmpty then s.doneWord t.done.toNat t.tag 2
        else s.actPf d (fun s w p => s.replayOne c w p) t.done.toNat t.tag named)) ∧
    (bad = false → gidOk t.core = true →
      let isNamed := fun p : PfAt => decide (seqFrom t.seq p.seq < t.count.toNat)
      let s' := (all.filter fun p => !isNamed p).foldl (fun (s : State) p => s.replayOne c none p) s
      exec (.cancel d t) s = .next (if (all.filter isNamed).isEmpty then s'.doneWord t.done.toNat t.tag 2
        else s'.actPf d (fun s w p => s.cancelOne c w p) t.done.toNat t.tag (all.filter isNamed))) ∧
    (bad = false →
      let u := { s with nextId := s.nextId + 1 }
      let o : TsyncOp := { done := t.done.toNat, tag := t.tag, stores := s.hartStores s.curHart, begun := false, waits := [], cmd := t }
      exec (.tsync d t) s = .next (if o.stores = [] then (u.flushTlb t).modDie d fun q => { q with
          tsyncs := sput q.tsyncs s.nextId { o with begun := true, waits := u.inFlight t } }
        else u.modDie d fun q => { q with tsyncs := sput q.tsyncs s.nextId o }))) ∧
  (∀ (d n : Nat) (s : State) (o : TsyncOp), sget (s.die d).tsyncs n = some o →
    (o.begun = false → exec (.tsyncComplete d n) s = .next (if o.stores.any s.storing = true then s
      else (s.flushTlb o.cmd).modDie d fun q => { q with
        tsyncs := sput q.tsyncs n { o with stores := [], begun := true, waits := s.inFlight o.cmd } })) ∧
    (o.begun = true → o.waits.all s.performed = false → exec (.tsyncComplete d n) s = .next s) ∧
    (o.begun = true → o.waits.all s.performed = true →
      let s' := s.modDie d fun q => { q with tsyncs := sdel q.tsyncs n }
      (o.cmd.count ≠ 0 → exec (.tsyncComplete d n) s = .next (s'.doneWord o.done o.tag 0)) ∧
      (o.cmd.count = 0 → s.inFlight o.cmd ≠ [] → exec (.tsyncComplete d n) s = .next (
        (s.flushTlb o.cmd).modDie d fun q => { q with tsyncs := sput q.tsyncs n { o with waits := s.inFlight o.cmd } })) ∧
      (o.cmd.count = 0 → s.inFlight o.cmd = [] → exec (.tsyncComplete d n) s = .next (
        let u := s'.flushTlb o.cmd
        { u with fe := { u.fe with
          rootsUsed := sput u.fe.rootsUsed o.cmd.asid.toNat (sgetD u.fe.roots o.cmd.asid.toNat 0) } }.doneWord o.done o.tag 0))))

/-- R184, R192, R193, R199, R200, R216, R237, R238: what an access does at its home. -/
def Obligations.AccessesPerformed : Prop := StorePerformed ∧ LoadAndAtomicPerformed

/-- R94, R102, R191, R202, R214, R217, R218, R237, R238: how accesses and lookups end. -/
def Obligations.AccessesEnd : Prop := AccessCompletes ∧ LookupsEnd

/-- R150, R194, R195, R202 to R204, R239, R240, R392: fences, records, codebooks and parameters. -/
def Obligations.FencesAndRecords : Prop := Fences ∧ RecordsAndCodebooks ∧ Parameters

/-- R184, R190 to R192, R197 to R200, R237, R238: loads, stores and atomics. -/
def Obligations.MemoryAccesses : Prop := MemoryInstructions ∧ AccessSent

/-! ### The register pool, shares and barriers (R105 to R111, R325 to R331) -/

/-- R106 to R109: `grow` first asks the arbiter and parks; granted, it adds 8 × B registers, full, RAW and 0, and writes 0 to
sD; refused, it writes 1. `shrink` gives the topmost 8 × B back to the pool. The arbiter serves the first request where its
blocks are free. -/
def Sys2Proof.Safety.GrowAndShrink : Prop :=
  (∀ (f : EX) (s : State) (c x : Nat), x ≠ 64 → Ready s c x (exForm .dest .zero .count f) [] →
    let n := f.b.toNat
    let fb := exFallback .dest .zero .count f
    let g := s.gang c x
    let s' := noteFallback s c x fb
    (64 < g.valloc + 8 * n → exec (.grow f) s = .next (s'.takeFault c x eRes 0 0 0 0)) ∧
    (g.valloc + 8 * n ≤ 64 →
      ((∀ r ∈ (s.core c).poolQ, r.ctx ≠ x) → exec (.grow f) s = .next ((s'.modCore c fun k =>
        { k with poolQ := k.poolQ ++ [{ ctx := x, blocks := n, share := false }] }).park c x .engine 1)) ∧
      (∀ r, (s.core c).poolQ.find? (fun r => r.ctx == x) = some r →
        let t := s'.modCore c fun k => { k with poolQ := k.poolQ.filter fun r => r.ctx != x }
        (r.ans = some true → exec (.grow f) s = .next (uniDone (t.modGang c x fun h =>
          { h with valloc := g.valloc + 8 * n
                   v := Vector.ofFn fun i : Fin 64 => if g.valloc ≤ i.val ∧ i.val < g.valloc + 8 * n then {} else h.v[i] })
          c x f.d.toNat false 0)) ∧
        (r.ans = some false → exec (.grow f) s = .next (uniDone t c x f.d.toNat false 1))))) ∧
  (∀ (f : EX) (s : State) (c x : Nat), x ≠ 64 → Ready s c x (exForm .zero .zero .count f true) [] →
    let n := f.b.toNat
    let g := s.gang c x
    let s' := noteFallback s c x (exFallback .zero .zero .count f)
    8 + 8 * n ≤ g.valloc → g.valloc ≤ 64 →
    (∀ i, g.valloc - 8 * n ≤ i → i < g.valloc → (vget g.v i {}).busy = false ∧ g.bind? i = none) →
    (∀ q ∈ g.groups, ∀ i ∈ q.trailer.codes, i < g.valloc - 8 * n ∨ g.valloc ≤ i) →
    exec (.shrink f) s = .next (plainDone ((s'.modGang c x fun h =>
      { h with valloc := g.valloc - 8 * n
               v := Vector.ofFn fun i : Fin 64 => if g.valloc - 8 * n ≤ i.val ∧ i.val < g.valloc then {} else h.v[i]
               window := h.window.map fun e => if e.old.any (fun o => o.bank == 0) ∧ g.valloc - 8 * n ≤ e.dest.toNat ∧
                 e.dest.toNat < g.valloc then { e with old := none } else e
               unbanked := h.unbanked.filter fun p => !(p.1 == 0 && (g.valloc - 8 * n ≤ p.2.1 && p.2.1 < g.valloc)) }).modCore c
        fun k => { k with poolFree := k.poolFree + n }) c x false)) ∧
  (∀ (c : Nat) (s : State),
    (s.poolHead c = none → exec (.vregPoolGrant c) s = .next s) ∧
    (∀ r, s.poolHead c = some r →
      exec (.vregPoolGrant c) s = .next (
        if r.blocks ≤ (s.core c).poolFree then
          (s.answerPool c (fun x => x == r.ctx) true).modCore c fun k => { k with poolFree := k.poolFree - r.blocks }
        else if s.poolTie c then s.refuseTie c else s)))

/-- R110, R111: `rshare` binds COUNT + 1 registers from FIRST to the storage of its id: storage that another gang has made, of
the same count, at once; else it asks the arbiter, and once granted makes empty registers; a range that meets a bound one, a
count that differs, and a refusal fault E_RES. `runshare` unbinds its id, and does nothing where it is not bound. -/
def Sys2Proof.Safety.Shares : Prop :=
  (∀ (f : RshareF) (s : State) (c x : Nat), x ≠ 64 →
    let first := f.first.toNat
    let count := f.count.toNat + 1
    let id := f.id.toNat
    let bad := s.takeFault c x eRes 0 (BitVec.ofNat 32 first) 0 0
    let meets := (s.gang c x).binds.any fun b => decide (b.first < first + count) && decide (first < b.first + b.count)
    Ready s c x { legal := true, fb := false, names := [(first, count)], wide := true } [] →
    (meets = true → exec (.rshare f) s = .next bad) ∧
    (meets = false →
      (∀ h, sget (s.crew c (x / 16)).shares id = some h → exec (.rshare f) s = .next (if h.regs.length = count then
        plainDone ((s.modCore c fun k => k.dropPool x).bindShare c x id first count) c x false else bad)) ∧
      (sget (s.crew c (x / 16)).shares id = none →
        ((∀ r ∈ (s.core c).poolQ, r.ctx ≠ x) → exec (.rshare f) s = .next ((s.modCore c fun k =>
          { k with poolQ := k.poolQ ++ [{ ctx := x, blocks := (count + 7) / 8, share := true }] }).park c x .engine 1)) ∧
        (∀ r, (s.core c).poolQ.find? (fun r => r.ctx == x) = some r →
          (r.ans = some true → exec (.rshare f) s = .next 
            (let h : Share := { regs := List.replicate count { fe := .empty }, bound := 0, sn := s.nextId }
             let t := (s.modCore c fun k => { k with poolQ := k.poolQ.filter fun r => r.ctx != x }).modCrew c (x / 16) fun w =>
               { w with shares := sput w.shares id h }
             plainDone (State.bindShare { t with nextId := s.nextId + 1 } c x id first count) c x false)) ∧
          (r.ans = some false → exec (.rshare f) s = .next bad))))) ∧
  (∀ (f : EX) (s : State) (c x : Nat) (a : W), x ≠ 64 → Ready s c x (exForm .zero .read .zero f true) [.s a] →
    let s' := noteFallback s c x (exFallback .zero .read .zero f)
    exec (.runshare f) s = .next (plainDone (if (s.gang c x).binds.any (fun b => b.id == a.toNat) then
      s'.unbind c x a.toNat else s') c x false))

/-- R105: `fe.clr` makes N + 1 registers from X empty and `fe.set` makes them full; values, tags and producers stay. -/
def Sys2Proof.Safety.FeBits : Prop :=
  ∀ (f : FeF) (s : State) (c x : Nat),
    Ready s c x { legal := feLegal f, fb := f.rest != 0,
                  names := if f.x.toNat < 64 then [(f.x.toNat, f.n.toNat + 1)] else [], wide := 64 ≤ f.x.toNat } [] →
    let s' := noteFallback s c x (f.rest != 0)
    let set := fun fe => ((List.range (f.n.toNat + 1)).map (f.x.toNat + ·)).foldl (fun (t : State) i =>
      if i < 64 then t.setVreg c x i { t.vreg c x i with fe := fe }
      else if i < 96 then t.modGang c x fun g => g.setSreg (i - 64) { g.sreg (i - 64) with fe := fe }
      else t.modGang c x fun g => g.setAreg (i - 96) { g.areg (i - 96) with fe := fe }) s'
    exec (.feClr f) s = .next (plainDone (set .empty) c x false) ∧
    exec (.feSet f) s = .next (plainDone (set .full) c x false)

namespace Sys2Proof.Safety

/-- A barrier instruction: its form, the code of its command, whether it arrives (and waits on every path first), and how it
retires with the table's answer and phase. -/
noncomputable def barOps : List ((EX → Instr) × (EX → Form) × Nat × Bool × (State → Nat → Nat → EX → Nat → BitVec 16 → State)) :=
  [(.barInit, fun f => exForm .dest .read .read f true, 0, false, fun s c x f code _ =>
     uniDone s c x f.d.toNat false (BitVec.ofNat 32 code)),
   (.barJoin, fun f => exForm .zero .read .zero f true, 1, false, fun s c x _ _ _ => plainDone s c x false),
   (.barArr, fun f => exForm .dest .read .zero f true, 2, true, fun s c x f _ ph =>
     uniDone s c x f.d.toNat false (ph.setWidth 32)),
   (.barWait, fun f => exForm .zero .read .read f true, 3, false, fun s c x _ _ _ => endDone s c x false 4 {} id),
   (.barSync, fun f => exForm .zero .read .zero f true, 4, true, fun s c x _ _ _ => endDone s c x false 4 {} id),
   (.barLeave, fun f => exForm .zero .read .zero f true, 5, false, fun s c x _ _ _ => plainDone s c x false),
   (.barFree, fun f => exForm .zero .read .zero f true, 6, false, fun s c x _ _ _ => plainDone s c x false)]

end Sys2Proof.Safety

/-- R325, R330, R331: a barrier instruction sends its command to the table of its id and parks; it parks until the answer comes,
and then retires with it, or faults as the answer says, E_RES naming the operand of the count of `bar.init` or of the id (R402;
log 24). An id that names no entry is E_PERM; `bar.arr` and `bar.sync` first
check entry, owner, stranding and membership and wait until every path's count is 0. -/
def Obligations.BarrierInstructions : Prop :=
  ∀ p ∈ barOps, ∀ (f : EX) (s : State) (c x : Nat) (vs : List Val), x ≠ 64 → Ready s c x (p.2.1 f) vs →
    let s' := noteFallback s c x (p.2.1 f).fb
    let id := uVal vs 0
    let key := barKey c id
    let waits := fun t : State => t.park c x .barrier (BitVec.ofNat 8 (id.toNat / 8 % 64))
    let named : W := BitVec.ofNat 32 (64 + (if p.2.2.1 = 0 then f.b else f.a).toNat)
    (∀ k m, s'.barCmd c x = some (k, m) →
      let t := { s' with barCmds := sdel s'.barCmds k }
      (m.ans = none → exec (p.1 f) s = .next (waits s')) ∧
      (∀ code ph, m.ans = some (code, ph) → exec (p.1 f) s = .next (match code with
        | 0 | 1 => p.2.2.2.2 t c x f code ph
        | 2 => s'.takeFault c x ePerm 0 0 0 0
        | 3 => s'.takeFault c x eRes 0 named 0 0
        | _ => s'.takeFault c x eBstr 0 id 0 0))) ∧
    (s'.barCmd c x = none →
      let sent := waits { s' with
        barCmds := sput s'.barCmds s'.nextId { core := c, ctx := x, op := p.2.2.1, key := key, id := id, arg := uVal vs 1 }
        nextId := s'.nextId + 1 }
      (barIdOk id = false → exec (p.1 f) s = .next (s'.takeFault c x ePerm 0 0 0 0)) ∧
      (barIdOk id = true → p.2.2.2.1 = false → exec (p.1 f) s = .next sent) ∧
      (barIdOk id = true → p.2.2.2.1 = true →
        (sget s'.barriers key = none → exec (p.1 f) s = .next (s'.takeFault c x eRes 0 named 0 0)) ∧
        (∀ b, sget s'.barriers key = some b →
          exec (p.1 f) s = .next (
            if b.owner ≠ s'.launchOf c x then s'.takeFault c x ePerm 0 0 0 0
            else if b.stranded = true then s'.takeFault c x eBstr 0 id 0 0
            else if b.isMember c x = false then s'.takeFault c x ePerm 0 0 0 0
            else if s'.fenceDone c x 0x3f (id.toNat % 8) then sent
            else s'.park c x .fence 0))))

namespace Sys2Proof.Safety

/-- A barrier after an arrival of a member (R327). -/
def arrived (b : Barrier) (c x : Nat) : Barrier :=
  { b with arrivals := b.arrivals + 1
           members := b.members.map fun (m : Member) => if m.core = c ∧ m.ctx = x then { m with arrived := true } else m }

/-- A barrier behind the arrivals of a cycle (R327, R329): with E arrivals its phase completes, and the counts start anew. -/
def phased (b : Barrier) : Barrier :=
  if b.arrivals ≠ 0 ∧ b.expected ≤ b.arrivals then
    { b with phase := b.phase + 1, arrivals := 0, members := b.members.map fun m => { m with arrived := false } }
  else b

end Sys2Proof.Safety

/-- R326 to R329, R331: the table acts on the commands of its entries: `bar.init` makes a free entry, with a count of 1 to
2^24 − 1; any other needs one, made by the same launch and, up to `bar.sync`, not stranded; a join adds a member, an arrival
counts once in a phase and answers with that phase, a wait is answered once its phase has passed and else stays. A phase
completes behind all the arrivals of a cycle (R329): with the first join or leave that follows them, or as the cycle ends. A
notice lets a command that waits be acted on again. -/
def Obligations.BarrierTable : Prop :=
  ∀ (s : State) (n : Nat) (m : BarCmd), sget s.barCmds n = some m → m.ans = none →
    let act := fun t : State => exec (.barrierArrivalAtTable n) s = .next t
    let answer := fun (t : State) (code : Nat) (ph : BitVec 16) =>
      { t with barCmds := sput t.barCmds n { m with there := true, ans := some (code, ph) } }
    let stay := { s with barCmds := sput s.barCmds n { m with there := true } }
    (sget s.barriers m.key = none →
      (m.op ≠ 0 ∨ m.arg = 0 ∨ 2 ^ 24 ≤ m.arg.toNat → act (answer s 3 0)) ∧
      (m.op = 0 → m.arg ≠ 0 → m.arg.toNat < 2 ^ 24 →
        let b : Barrier := { owner := s.launchOf m.core m.ctx, expected := m.arg.toNat }
        act (answer { s with barriers := sput s.barriers m.key b } 0 0))) ∧
    (∀ b, sget s.barriers m.key = some b →
      let isIn := b.members.any fun q => q.core == m.core && q.ctx == m.ctx
      let came := b.members.any fun q => q.core == m.core && q.ctx == m.ctx && q.arrived
      let own := b.owner = s.launchOf m.core m.ctx
      let put := fun b' : Barrier => { s with barriers := sput s.barriers m.key b' }
      (m.op = 0 → act (answer s 1 0)) ∧
      (m.op ≠ 0 → ¬ own → act (answer s 2 0)) ∧
      (own → b.stranded = true → 1 ≤ m.op → m.op ≤ 4 → act (answer s 4 0)) ∧
      (own → b.stranded = false →
        (m.op = 1 → act (answer (put { phased b with members := (phased b).members ++
          (if isIn then [] else [{ core := m.core, ctx := m.ctx, arrived := false }]) }) 0 0)) ∧
        (m.op = 2 ∨ m.op = 3 ∨ m.op = 4 → isIn = false → act (answer s 2 0)) ∧
        (m.op = 2 ∨ m.op = 4 → isIn = true → came = true → act stay) ∧
        (m.op = 2 → isIn = true → came = false → act (answer (put (arrived b m.core m.ctx)) 0 b.phase)) ∧
        (m.op = 4 → isIn = true → came = false →
          let m' := { m with op := 3, arg := b.phase.setWidth 32, there := true }
          act { put (arrived b m.core m.ctx) with barCmds := sput s.barCmds n m' }) ∧
        (m.op = 3 → isIn = true → act (
          let past := (b.phase - m.arg.setWidth 16).toNat
          if 1 ≤ past ∧ past ≤ 2 ^ 15 then answer s 0 0 else stay)) ∧
        (m.op = 5 → isIn = false → act (answer s 0 0)) ∧
        (m.op = 5 → isIn = true → act (answer (s.putBarrier m.key (b.leave m.core m.ctx)) 0 0)) ∧
        (m.op = 6 → s.barWaiter m.key = true → act (answer s 3 0)) ∧
        (m.op = 6 → s.barWaiter m.key = false → act (answer { s with barriers := sdel s.barriers m.key } 0 0))) ∧
      (own → b.stranded = true → m.op = 6 → act (answer { s with barriers := sdel s.barriers m.key } 0 0)) ∧
      (∀ c x, s.barCmd c x = some (n, m) → m.there = true → exec (.barrierPhaseNotify c x) s =
        exec (.barrierArrivalAtTable n) s)) ∧
    s.cycle.barriers = s.barriers.map fun p => (p.1, phased p.2)

/-- R105 to R111: the allotment, shares, and full and empty registers. -/
def Obligations.RegistersAllotted : Prop := GrowAndShrink ∧ Shares ∧ FeBits

/-! ### Matrix (R290 to R314, R418) -/

namespace Sys2Proof.Safety

/-- A matrix instruction may go on: it is a gang's, no error of its crew is due, and the gang has TENSOR (R279, R292, R310). -/
structure Tensor (s : State) (c x : Nat) : Prop where
  gang : x ≠ 64
  role : bit (s.gang c x).role 0 = true
  noHalt : (s.gang c x).halt = none
  noError : (s.gang c x).inMx = true ∨ (s.crew c (x / 16)).mxErr = none

/-- The instructions of MAJ 1A but for `cbld`, with their forms, which are for a whole gang (R100, R292). -/
noncomputable def matrixForms : List ((EX → Instr) × (EX → Form)) := [
  (.mxZero, fun f => exForm .zero .read .zero f), (.mxRmax, fun f => exForm (.idx 16) (.idx 8) .zero f),
  (.mxWr, fun f => exForm .vread .read .zero f), (.mxWait, fun f => exForm .zero .zero .zero f),
  (.mxUnlic, fun f => exForm .zero .zero .zero f), (.accRel, fun f => exForm .zero .read .zero f),
  (.accGet, fun f => exForm .dest .read .zero f), (.mxLic, fun f => exForm .dest .read .zero f)]

/-- A matrix command enters its queue or queues, numbered and counted, with OOB where a record is short. -/
def queued (s : State) (m : MxCmd) (oob : Bool) : State :=
  (if oob then s.modGang m.core m.ctx fun g => g.raise fOob else s).enqueueMx m

/-- A command of context `x` of core `c`. -/
def command (s : State) (c x : Nat) (op : MxOp) (pair : Bool) : MxCmd :=
  { op := op, core := c, ctx := x, pair := pair, pc := (s.gang c x).pc, launch := (s.launchOf c x).setWidth 8
    pin := (s.pinOf c x).1, pinSize := (s.pinOf c x).2, num := (s.mx c).num }

end Sys2Proof.Safety

/-- R279, R292, R310, R312: a matrix instruction of the plaza context is E_PERM; one that issues in a crew with a deferred error
takes that error with the failed command's PC in AUX, which clears it; else one of a gang without TENSOR is E_ROLE. That an
instruction which waits for what it has asked already takes no deferred error is the model's choice (log 34; R310 says the next
instruction that issues). -/
def Sys2Proof.Safety.MatrixRefusals : Prop :=
  ∀ (s : State) (c x : Nat),
    let refuses := fun (i : Instr) (fm : Form) => ∀ vs : List Val, Ready s c x { fm with wide := true } vs →
      let s' := noteFallback s c x fm.fb
      (x = 64 → (s.gang c x).halt = none → exec i s = .next (s'.takeFault c x ePerm 0 0 0 0)) ∧
      (x ≠ 64 → x / 16 < 4 → (s.gang c x).halt = none →
        (∀ code cause pc, (s.gang c x).inMx = false → (s.crew c (x / 16)).mxErr = some (code, cause, pc) →
          exec i s = .next ((s'.takeFault c x code cause 0 pc 2).modCrew c (x / 16) fun w => { w with mxErr := none })) ∧
        ((s.gang c x).inMx = true ∨ (s.crew c (x / 16)).mxErr = none → bit (s.gang c x).role 0 = false →
          exec i s = .next (s'.takeFault c x eRole 0 0 0 0)))
    (∀ p ∈ matrixForms, ∀ f : EX, refuses (p.1 f) (p.2 f)) ∧
    (∀ f : MxLbF, refuses (.mxLb f) { legal := mxLbLegal f, fb := f.rest != 0 }) ∧
    (∀ f : MxMmaF, refuses (.mxMma f) { legal := true, fb := f.rest != 0 }) ∧
    (∀ f : MxStF, refuses (.mxSt f) { legal := mxStLegal f, fb := f.rest != 0 }) ∧
    (∀ f : MxRdF, refuses (.mxRd f) { legal := true, fb := false, names := [(f.v.toNat, 1)], dests := [f.v.toNat] })

/-- R290, R295, R302 to R312: a matrix command whose checks pass enters its queue, and the instruction retires; it parks while a
queue is full, and faults as its first failed check says; the E_RES of a tile that an s register names carries its operand code,
and that of one in the word INFO 0 (the model's choice, log 24). `mx.rd` also empties its destination until the command
retires. -/
def Sys2Proof.Safety.MatrixCommands : Prop :=
  ∀ (s : State) (c x : Nat), Tensor s c x →
    let go := fun (i : Instr) (s' : State) (check : Except Stop (MxCmd × Bool)) =>
      (∀ code info, check = .error (.fault code 0 info 0 0) → exec i s = .next (s'.takeFault c x code 0 info 0 0)) ∧
      (∀ m oob, check = .ok (m, oob) → exec i s = .next (
        if s'.mxRoom m then plainDone (queued s' m oob) c x false else s'.park c x .engine 0))
    (∀ f : MxLbF, Ready s c x { legal := mxLbLegal f, fb := f.rest != 0, wide := true } [] →
      go (.mxLb f) (noteFallback s c x (f.rest != 0)) (checkLb (noteFallback s c x (f.rest != 0)) c x f)) ∧
    (∀ f : MxMmaF, Ready s c x { legal := true, fb := f.rest != 0, wide := true } [] →
      go (.mxMma f) (noteFallback s c x (f.rest != 0)) (checkMma (noteFallback s c x (f.rest != 0)) c x f)) ∧
    (∀ f : MxStF, Ready s c x { legal := mxStLegal f, fb := f.rest != 0, wide := true } [] →
      go (.mxSt f) (noteFallback s c x (f.rest != 0)) (checkSt (noteFallback s c x (f.rest != 0)) c x f)) ∧
    (∀ (f : EX) (a : W) (l : Bool × Nat × Nat), Ready s c x { exForm .zero .read .zero f with wide := true } [.s a] →
      (s.crew c (x / 16)).lic = some l →
      let s' := noteFallback s c x (exFallback .zero .read .zero f)
      go (.mxZero f) s' (
        if bit a 9 && !l.1 then .error (.code eRole)
        else if !(List.range 8).all (fun t => !bit a t || tilesHeld (s.crew c (x / 16)) (bit a 9) t 1) then
          .error (.info eRes (BitVec.ofNat 32 (64 + f.a.toNat)))
        else .ok (command s' c x (.zero (a.setWidth 8) (bit a 8)) (bit a 9), false))) ∧
    (∀ (f : EX) (l : Bool × Nat × Nat), Ready s c x { exForm (.idx 16) (.idx 8) .zero f with wide := true } [] →
      (s.crew c (x / 16)).lic = some l →
      let s' := noteFallback s c x (exFallback (.idx 16) (.idx 8) .zero f)
      let r := vget (s.gang c x).recs f.d.toNat 0
      let n := recExtent r
      go (.mxRmax f) s' (
        if recBad r then .error (.code eRec)
        else if recKind r = 0 then .error (.code ePerm)
        else if !tilesHeld (s.crew c (x / 16)) l.1 f.a.toNat (tileCount (max 1 (min 1024 n))) then .error (.code eRes)
        else if n = 0 ∨ 1024 < n then .error (.code eBnd)
        else if 8 < f.a.toNat + (n + 127) / 128 then .error (.code eRes)
        else if !elemsAligned s' c x r n 4 4 then .error (.code eAlign)
        else if !elemsFit s' c x r n 4 then .error (.code ePerm)
        else .ok (command s' c x (.rmax r f.a.toNat) l.1, false))) ∧
    (∀ (f : EX) (a : W) (v : Val) (l : Bool × Nat × Nat),
      Ready s c x { exForm .vread .read .zero f with wide := true } [.s a, v] → (s.crew c (x / 16)).lic = some l →
      let s' := noteFallback s c x (exFallback .vread .read .zero f)
      let t := a.toNat % 8
      go (.mxWr f) s' (
        if !tilesHeld (s.crew c (x / 16)) false t 1 then .error (.info eRes (BitVec.ofNat 32 (64 + f.a.toNat)))
        else if !tagOk [fmtOf ((s'.mxView c).tags t)] v then .error (.code eFmt)
        else .ok (command s' c x (.wr v.lanes (s.gang c x).lanes t (a.toNat / 8 % 128) (a.toNat / 1024 % 4)) false, false))) ∧
    (∀ (f : MxRdF) (l : Bool × Nat × Nat),
      Ready s c x { legal := true, fb := false, names := [(f.v.toNat, 1)], wide := true, dests := [f.v.toNat] } [] →
      (s.crew c (x / 16)).lic = some l →
      let m := command s c x (.rd f.v.toNat (s.gang c x).binds f.tile.toNat f.row.toNat f.block.toNat (s.gang c x).lanes) false
      (tilesHeld (s.crew c (x / 16)) false f.tile.toNat 1 = false →
        exec (.mxRd f) s = .next (s.takeFault c x eRes 0 0 0 0)) ∧
      (tilesHeld (s.crew c (x / 16)) false f.tile.toNat 1 = true → s.mxRoom m = true →
        let t := s.enqueueMx m
        exec (.mxRd f) s = .next (((t.setVreg c x f.v.toNat
          { t.vreg c x f.v.toNat with fe := .empty, busy := true }).modGang c x fun g => g.omitWrite 0 f.v.toNat).modGang c x
            (retired false 0 4 { val := none, dest := f.v.setWidth 8, w := false }))))

/-- R293, R294, R296 to R298, R304: `mx.wait` and `acc.rel` wait until the crew's earlier commands (for `acc.rel`, those that use its
tiles) have retired, and `mx.unlic` until every command of the crew has, those of graph nodes among them; then `mx.wait` waits on the mx path at scope pod, `mx.unlic` gives up the licence, and
`acc.rel` the tiles. `acc.get` and `mx.lic` ask the arbiter and park, and write its answer; `acc.get` of no tile writes 0,
`mx.lic` of a crew with a licence 3, and one for a pair that the crew does not lead 2. -/
def Obligations.MatrixLicences : Prop :=
  ∀ (s : State) (c x : Nat), Tensor s c x →
    let w := s.crew c (x / 16)
    let none1 := fun (t : State) => t.setMxWait c x none
    let mine := fun (t : State) (uses : MxCmd → Bool) => (t.mx c).q.any fun m =>
      m.core == c && m.ctx / 16 == x / 16 && uses m && decide (m.num < match t.mxWaitOf c x with
        | some r => r.word.toNat
        | none => (t.mx c).num)
    let wait := fun (t : State) => (t.setMxWait c x (some { ctx := x, kind := 2, word := match t.mxWaitOf c x with
        | some r => r.word
        | none => BitVec.ofNat 32 (t.mx c).num })).park c x .engine 5
    (∀ f : EX, Ready s c x { exForm .zero .zero .zero f with wide := true } [] →
      let s' := noteFallback s c x (exFallback .zero .zero .zero f)
      (mine s' (fun _ => true) = true → exec (.mxWait f) s = .next (wait s')) ∧
      (mine s' (fun _ => true) = false → exec (.mxWait f) s = .next (
        if (none1 s').fenceDone c x 4 4 then plainDone (none1 s') c x false else s'.park c x .fence 0)) ∧
      (w.lic = none → exec (.mxUnlic f) s = .next (plainDone s' c x false)) ∧
      (w.lic ≠ none → s'.crewMx c x = true → exec (.mxUnlic f) s = .next (s'.park c x .engine 5)) ∧
      (w.lic ≠ none → s'.crewMx c x = false →
        exec (.mxUnlic f) s = .next (plainDone (s'.dropLicence c (x / 16)) c x false))) ∧
    (∀ (f : EX) (a : W), Ready s c x { exForm .zero .read .zero f with wide := true } [.s a] →
      let s' := noteFallback s c x (exFallback .zero .read .zero f)
      let uses := fun m : MxCmd => m.tiles &&& a.setWidth 8 != 0
      (mine s' uses = true → exec (.accRel f) s = .next (wait s')) ∧
      (mine s' uses = false → exec (.accRel f) s = .next (plainDone ((none1 s').modCrew c (x / 16) fun w =>
        let m : BitVec 8 := a.setWidth 8
        { w with solo := w.solo &&& ~~~m, pair := w.pair &&& ~~~m
                 far := if bit a 8 then w.far &&& ~~~m else w.far ||| (w.pair &&& m) }) c x false))) ∧
    (∀ (f : EX) (a : W), Ready s c x { exForm .dest .read .zero f with wide := true } [.s a] →
      let s' := noteFallback s c x (exFallback .dest .read .zero f)
      let give := fun (t : State) (v : W) => uniDone t c x f.d.toNat false v
      let ask := fun (i : Instr) (kind : Nat) =>
        (s'.mxWaitOf c x = none → exec i s = .next ((s'.setMxWait c x
          (some { ctx := x, kind := kind, word := a })).park c x .engine 5)) ∧
        (∀ r, s'.mxWaitOf c x = some r → exec i s = .next (match r.ans with
          | none => s'.park c x .engine 5
          | some v => give (none1 s') v))
      let pairOk := match w.lic with
        | some l => l.1
        | none => false
      let n := a.toNat / 2 ^ 16 % 128
      let first := a.toNat / 2 ^ 8 % 64
      (bit a 8 = true → pairOk = false → exec (.accGet f) s = .next (s'.takeFault c x eRole 0 0 0 0)) ∧
      ((bit a 8 = true → pairOk = true) → a.toNat % 256 = 0 → exec (.accGet f) s = .next (give s' 0)) ∧
      ((bit a 8 = true → pairOk = true) → a.toNat % 256 ≠ 0 → ask (.accGet f) 0) ∧
      (n = 0 ∨ 64 < n ∨ 64 < first + n →
        exec (.mxLic f) s = .next (s'.takeFault c x eRes 0 (BitVec.ofNat 32 (64 + f.a.toNat)) 0 0)) ∧
      (1 ≤ n → n ≤ 64 → first + n ≤ 64 →
        (s'.mxWaitOf c x = none → w.lic ≠ none → exec (.mxLic f) s = .next (give s' 3)) ∧
        (s'.mxWaitOf c x = none → w.lic = none → bit a 0 = true → (c % 2 = 1 ∨ s'.pairCrew c x = false) →
          exec (.mxLic f) s = .next (give s' 2)) ∧
        (s'.mxWaitOf c x ≠ none ∨ (w.lic = none ∧ (bit a 0 = true → c % 2 = 0 ∧ s'.pairCrew c x = true)) →
          ask (.mxLic f) 1)))

/-- R303, R310: the head command of a core's queue, which for a pair heads both, runs and retires, an `mx.mma` within a
burst only: what it did stays, its first failure is the crew's deferred error, its accesses are uncounted, it leaves its
queues, and commands of graph nodes that wait for room enter. -/
def Obligations.MatrixCommandRetires : Prop :=
  ∀ (s : State) (c : Nat),
    (s.mxReady c = false → exec (.mxCommandRetire c) s = .next s) ∧
    (∀ m t e, s.mxReady c = true → s.mxHead c = some m → s.runMx m = (t, e) → m.node = none →
      let t1 := match e with
        | some .poison => t.modCrew m.core (m.ctx / 16) fun w =>
            { w with mxErr := some (w.mxErr.getD (ePoison, 3, m.pc)) }
        | some .perm => t.modCrew m.core (m.ctx / 16) fun w => { w with mxErr := some (w.mxErr.getD (ePerm, 0, m.pc)) }
        | none => t
      let t2 := m.cores.foldl (fun (u : State) k => u.modMx k fun x => { x with q := x.q.filter fun n => n != m })
        (t1.countMx m (· - 1))
      exec (.mxCommandRetire c) s = .next ((((t2.enterNodes c).enterNodes (pairMate c)).reap m.core m.ctx).crewSweep m.core (m.ctx / 16)))

/-- R161, R300, R301, R303: an `mx.mma` accumulates, chunk after chunk, the products of row `r` of A and column `n` of the operand in
the weight buffer into element (r, n) of its tiles, starting from 0 where OV is set; the rows past A's stay, in the last tile that
A reaches and in the others. That of a pair does so on both cores, each with its own operand: columns 0 to 127 on the leader, and
128 to 255 on the follower. -/
def Obligations.MatrixMultiply : Prop :=
  ∀ (s : State) (m : MxCmd) (rc : BitVec 128) (slot t : Nat) (ov : Bool) (cb : List (BitVec 16)) (cls : MxClass)
    (op : WSlot) (rows : List Nat),
    m.op = .mma rc slot t ov cb → classA (recFmt rc).toNat = some cls → (recFmt rc).toNat < 16 →
    sget (s.mx m.core).slots slot = some op → s.loadA m rc cls = .ok rows → t + (rows.length + 127) / 128 ≤ 8 →
    let half := fun (u : State) (c : Nat) (op : WSlot) =>
      (∀ r < rows.length, ∀ n < 128,
        (u.tile c (t + r / 128)).at (r % 128) n =
          accElem cls (recFmt rc).toNat op.fmt.toNat cb (rows.getD r 0)
            (leNat ((op.bytes.drop (n * cls.bytes)).take cls.bytes))
            (if ov then 0 else (s.tile c (t + r / 128)).at (r % 128) n)) ∧
      (∀ r, rows.length ≤ r → r < 128 * ((rows.length + 127) / 128) → ∀ n < 128,
        (u.tile c (t + r / 128)).at (r % 128) n = (s.tile c (t + r / 128)).at (r % 128) n) ∧
      (∀ i < 8, (i < t ∨ t + (rows.length + 127) / 128 ≤ i) → u.tile c i = s.tile c i)
    (m.pair = false → ∃ u, s.runMx m = (u, none) ∧ u.mem = s.mem ∧ half u m.core op) ∧
    (m.pair = true → ∀ op2, sget (s.mx (pairMate m.core)).slots slot = some op2 →
      ∃ u, s.runMx m = (u, none) ∧ u.mem = s.mem ∧ half u m.core op ∧ half u (pairMate m.core) op2)

/-- R293, R296 to R298: the arbiter of a core's pair serves its first waiting request where what it asks for is free, and on a
tie refuses the requests of the youngest crew. -/
def Sys2Proof.Safety.MatrixArbiter : Prop :=
  ∀ (s : State) (core : Nat),
    let lead := core - core % 2
    let first := firstBy s.mxBefore (s.mxWaiting lead)
    (first = none → exec (.mxArbiterGrant core) s = .next s) ∧
    (∀ c r, first = some (c, r) →
      (s.mxFits c r = true → exec (.mxArbiterGrant core) s = .next (s.mxGrant c r)) ∧
      (s.mxFits c r = false → s.mxTie lead = false → exec (.mxArbiterGrant core) s = .next s) ∧
      (∀ d q, s.mxFits c r = false → s.mxTie lead = true → s.mxLoser lead = some (d, q) →
        exec (.mxArbiterGrant core) s = .next (s.modMx d fun m => { m with waits := m.waits.map fun r =>
          if r.kind != 2 && r.ans.isNone && r.ctx / 16 == q then { r with ans := some 1 } else r })))

/-- R313, R314, R418: a moving token at a quad which wants one begins its burst there; the others move one quad per cycle, but for
those that retire; a burst that is over passes its token on to the next quad, or retires it where RBTOK is lower than the number
of tokens; RBTOK is taken as 1 to 16, and a raise adds tokens at quad 0; a thermal halt stops the bursts of its die until it
lifts. -/
def Sys2Proof.Safety.Roundabout : Prop :=
  ∀ (s : State) (d q : Nat),
    let tokens := fun (f : Die → List Token) => s.modDie d fun x => { x with tokens := f x }
    (s.quadStops d q = false → exec (.roundaboutTokenArrival d q) s = .next s) ∧
    (s.quadStops d q = true → exec (.roundaboutTokenArrival d q) s = .next (tokens fun x =>
      changeToken (fun t => t.burst.isNone && t.quad == q) (fun _ => [{ quad := q, burst := some s.clock }]) x.tokens)) ∧
    (∀ (n : Nat) (l : List Token),
      (passQuad n l).length = l.length - min n (l.filter fun t => t.burst.isNone).length ∧
      (∀ t ∈ l, t.burst.isSome → t ∈ passQuad n l) ∧
      (∀ t ∈ passQuad n l, t.burst.isNone → ∃ u ∈ l, t = { u with quad := (u.quad + 1) % 16 })) ∧
    exec (.burstEnd d q) s = .next (tokens fun x => changeToken (fun t => t.quad == q && s.burstOver d t)
      (fun t => if x.rbtok.toNat < x.tokens.length then [] else [{ t with quad := (q + 1) % 16, burst := none }]) x.tokens) ∧
    (∀ v : W, exec (.rbtokWrite d v) s = .next (s.modDie d fun x =>
      let n := max 1 (min 16 v.toNat)
      { x with rbtok := BitVec.ofNat 5 n
               tokens := x.tokens ++ List.replicate (n - x.tokens.length) { quad := 0 } })) ∧
    exec (.thermalBurstHalt d) s = .next (s.modDie d fun x => { x with thermal := true }) ∧
    exec (.thermalHaltLift d) s = .next (s.modDie d fun x => { x with thermal := false })

/-- R279, R290, R292, R295, R302 to R312: matrix commands that issue. -/
def Obligations.MatrixIssue : Prop := MatrixRefusals ∧ MatrixCommands

/-- R293, R296 to R298, R313, R314, R418: the arbiter and the tokens. -/
def Obligations.MatrixUnits : Prop := MatrixArbiter ∧ Roundabout

/-! ### Graphs (R315 to R324) and messages (R255 to R267) -/

namespace Sys2Proof.Safety

/-- The graph of a context: its crew's, or the plaza's. -/
def graphNo (x : Nat) : Nat := if x = 64 then 4 else x / 16

/-- The number of nodes of a graph: 64, and 8 in the plaza's (R315). -/
def graphLen (q : Nat) : Nat := if q = 4 then 8 else 64

/-- The node that an id names. -/
def nodeAt (s : State) (c x : Nat) (id : W) : Option Node :=
  if id.toNat < graphLen (graphNo x) then sget (s.nodes c (graphNo x)) id.toNat else none

/-- A new node in a graph and its id in sD, or 0xffff_ffff where none is free. -/
def built (s : State) (c x d : Nat) (kind : NodeKind) : State :=
  match sfree (s.nodes c (graphNo x)) (graphLen (graphNo x)) 0 with
  | none => uniDone s c x d false 0xffffffff
  | some id => uniDone (s.setNodes c (graphNo x) (sput (s.nodes c (graphNo x)) id { kind := kind })) c x d false
      (BitVec.ofNat 32 id)

/-- INFO of an E_RES over what operand `i` names: its operand code (R402; log 24). -/
def resInfo (i : BitVec 5) : W := BitVec.ofNat 32 (64 + i.toNat)

/-- The first check that fails, and its fault. -/
def firstFault (l : List (Bool × Byte)) : Option Byte := (l.find? fun p => p.1).map (·.2)

end Sys2Proof.Safety

/-- R316, R320, R323, R324: a building instruction makes a node and writes its id: `gn.cp` a copy of B elements between the records
that A names, after its checks in order; `gn.wk` a wake of s A, which goes empty; `gn.mx` a matrix command, checked as at its
issue. `gn.edge` adds B to the successors of A, and lowers B's count at once where A has finished; it faults E_RES with the code of
the operand that is refused. The order in which a copy takes its elements is a free value of the model (`Config.copyDown`, log 11),
and that the checks come before the search of a free node is its choice (log 36). -/
def Sys2Proof.Safety.GraphNodes : Prop :=
  (∀ (f : EX) (s : State) (c x : Nat) (a b : W), Ready s c x (exForm .dest .read .read f) [.s a, .s b] →
    let s' := noteFallback s c x (exFallback .dest .read .read f)
    let g := s.gang c x
    let src := vget g.recs (a.toNat % 16) 0
    let dst := vget g.recs (a.toNat / 16 % 16) 0
    let n := b.toNat
    let short := fun r : BitVec 128 => recSwz r != 2 && decide (recExtent r < n)
    let bad := firstFault [(recBad src || recBad dst, eRec), (recEsize src != recEsize dst, eFmt), (recRo dst, ePerm),
      ((recStrict src && short src) || (recStrict dst && short dst), eBnd),
      (overruns s c x src n || overruns s c x dst n, ePerm)]
    (∀ e, bad = some e → exec (.gnCp f) s = .next (s'.takeFault c x e 0 0 0 0)) ∧
    (bad = none → exec (.gnCp f) s = .next (built
      (if short src || short dst then s'.modGang c x fun g => g.raise fOob else s') c x f.d.toNat
      (.copy { src := src, dst := dst, n := n, pc := g.pc, ctx := x, asid := s.asidOf c x, down := Config.copyDown s.tick })))) ∧
  (∀ (f : EX) (s : State) (c x : Nat), f.a ≠ 0 → f.a ≠ f.d →
    let fm := exForm .dest (.idx 32) .zero f
    Ready s c x { fm with legal := fm.legal && f.a != 0 && f.a != f.d, dests := sDest f.a ++ fm.dests } [] →
    let s' := noteFallback s c x fm.fb
    let full := (sfree (s.nodes c (graphNo x)) (graphLen (graphNo x)) 0).isNone
    exec (.gnWk f) s = .next (built (if full then s' else s'.emptyS c x f.a.toNat) c x f.d.toNat (.wake x f.a.toNat))) ∧
  (∀ (f : EX) (s : State) (c x : Nat) (a : W), x ≠ 64 → Ready s c x (exForm .dest .read .zero f) [.s a] →
    let s' := noteFallback s c x (exFallback .dest .read .zero f)
    (∀ e, mxOfWord s' c x a = .error e → exec (.gnMx f) s = .next (settle s' c x (.error e))) ∧
    (∀ m oob, mxOfWord s' c x a = .ok (m, oob) →
      (∀ id, sfree (s.nodes c (graphNo x)) (graphLen (graphNo x)) 0 = some id → exec (.gnMx f) s = .next (built
        (if oob then s'.modGang c x fun g => g.raise fOob else s') c x f.d.toNat (.matrix { m with node := some id }))) ∧
      (sfree (s.nodes c (graphNo x)) (graphLen (graphNo x)) 0 = none →
        exec (.gnMx f) s = .next (uniDone s' c x f.d.toNat false 0xffffffff)))) ∧
  (∀ (f : EX) (s : State) (c x : Nat) (a b : W) (m n : Node), Ready s c x (exForm .zero .read .read f) [.s a, .s b] →
    let s' := noteFallback s c x (exFallback .zero .read .read f)
    let q := graphNo x
    nodeAt s' c x a = some m →
    (nodeAt s' c x b = none → exec (.gnEdge f) s = .next (s'.takeFault c x eRes 0 (resInfo f.b) 0 0)) ∧
    (nodeAt s' c x b = some n → exec (.gnEdge f) s = .next (
      if n.st = .built ∧ m.succ.length < 8 ∧ a ≠ b ∧ reaches (s'.nodes c q) a.toNat 64 [b.toNat] = false then
        let t := s'.modNode c q a.toNat fun d => { d with succ := d.succ ++ [b.toNat] }
        plainDone (if m.st = .done ∨ m.st = .killed then (t.lowerNode c q m.status [] b.toNat).1 else t) c x false
      else s'.takeFault c x eRes 0 (resInfo (if n.st = .built then f.a else f.b)) 0 0)))

/-- R317 to R319, R323, R324, R240, R244: `gn.arm` waits on the ls path, then adds its count and arms a BUILT node, which
starts where it can; that it waits at scope pod, as the edges of R244 have it, and not at .pkg, is the model's choice (log 65). `gn.wait` parks until the node has finished, then writes its status and ends the run; `gn.kill` kills the
node and its unstarted successors; `gn.free` frees a BUILT or finished node and the edges to it. Each faults E_RES on an id that
names no node, with the code of the operand that is refused. -/
def Sys2Proof.Safety.GraphControl : Prop :=
  ∀ (s : State) (c x : Nat),
    let q := graphNo x
    (∀ (f : EX) (a b : W), Ready s c x (exForm .zero .read .read f) [.s a, .s b] →
      let s' := noteFallback s c x (exFallback .zero .read .read f)
      let bad := fun i => s'.takeFault c x eRes 0 (resInfo i) 0 0
      (nodeAt s' c x a = none → exec (.gnArm f) s = .next (bad f.a) ∧ exec (.gnEdge f) s = .next (bad f.a)) ∧
      (∀ n, nodeAt s' c x a = some n →
        (n.st ≠ .built → exec (.gnArm f) s = .next (bad f.a)) ∧
        (n.st = .built → 64 < b.toNat → exec (.gnArm f) s = .next (bad f.b)) ∧
        (n.st = .built → b.toNat ≤ 64 → exec (.gnArm f) s = .next (
          if s'.fenceDone c x 1 4 then
            let t := s'.modNode c q a.toNat fun d => { d with count := d.count + b.toNat, st := .armed }
            plainDone (((t.startNode c q a.toNat).1.settleNodes c q 1024 (t.startNode c q a.toNat).2).reap c x) c x false
          else s'.park c x .fence 0)))) ∧
    (∀ (f : EX) (a : W), Ready s c x (exForm .dest .read .zero f) [.s a] →
      let s' := noteFallback s c x (exFallback .dest .read .zero f)
      let bad := exec (.gnWait f) s = .next (s'.takeFault c x eRes 0 (resInfo f.a) 0 0)
      (nodeAt s' c x a = none → bad) ∧
      (∀ n, nodeAt s' c x a = some n →
        (n.st = .built → bad) ∧
        (n.st = .armed ∨ n.st = .running → exec (.gnWait f) s = .next (s'.park c x .node (BitVec.ofNat 8 a.toNat))) ∧
        (n.st = .done ∨ n.st = .killed → exec (.gnWait f) s = .next
          (((uniDone s' c x f.d.toNat false (BitVec.ofNat 32 n.status)).modGang c x fun g =>
            { (g.modGroup fun q => { q with trailer := {} }) with window := [], runCnt := 0, run := 0 }).freeSlot c x)))) ∧
    (∀ (f : EX) (a : W), Ready s c x (exForm .zero .read .zero f) [.s a] →
      let s' := noteFallback s c x (exFallback .zero .read .zero f)
      let bad := s'.takeFault c x eRes 0 (resInfo f.a) 0 0
      (nodeAt s' c x a = none → exec (.gnKill f) s = .next bad ∧ exec (.gnFree f) s = .next bad) ∧
      (∀ n, nodeAt s' c x a = some n →
        exec (.gnKill f) s = .next (plainDone ((s'.killNodes c q 1024 [a.toNat]).reap c x) c x false) ∧
        exec (.gnFree f) s = .next (if n.st = .armed ∨ n.st = .running then bad
          else plainDone (s'.setNodes c q ((sdel (s'.nodes c q) a.toNat).map fun p =>
            (p.1, { p.2 with succ := p.2.succ.filter fun m => m != a.toNat }))) c x false)))

/-- R186, R193, R218, R319, R320: the copy engine serves the node that is to be killed, which ends with status 2, else the first of
its queue: it moves the next bytes of its element, those within one line of the source and of the destination, from the source's
place to the destination's; a byte whose source is uncorrectable marks the word that it is written to; an element beyond an EXTENT
is skipped, one that overruns the pinned region or is refused at its home stops the node, and a page that fails parks it
(`stopCopy`); behind the last element it ends the node, with status 3 after an error, 1 where a record was short, and else 0. A
pending page fault keeps it waiting, and so does an empty queue. That the elements go in rising or all in falling order, and that
a byte which the copy has overwritten is read as it stood or as it is, are the model's choices (log 11). -/
def Obligations.CopyEngine : Prop :=
  ∀ (s : State) (c : Nat),
    (s.copyHead c = none → exec (.copyNodeDone c) s = .next s) ∧
    (∀ q n nd cmd, s.copyHead c = some (q, n) → s.copyCmd c q n = some (nd, cmd) →
      (nd.kill = true → exec (.copyNodeDone c) s = .next (s.endCopy c q n 2)) ∧
      (nd.kill = false → cmd.pf.isSome = true → exec (.copyNodeDone c) s = .next s) ∧
      (nd.kill = false → cmd.pf = none →
        let short := fun r : BitVec 128 => recSwz r != 2 && decide (recExtent r < cmd.n)
        (cmd.n ≤ cmd.done → exec (.copyNodeDone c) s = .next (s.endCopy c q n
          (if cmd.bad then 3 else if short cmd.src || short cmd.dst then 1 else 0))) ∧
        (cmd.done < cmd.n →
          let w := recEsize cmd.src
          let place := fun r : BitVec 128 => laneAddress r c (s.pinOf c cmd.ctx).1 (s.pinOf c cmd.ctx).2 cmd.elem w
          (place cmd.src = .oob ∨ place cmd.dst = .oob → exec (.copyNodeDone c) s = .next (
            s.setCopy c q n { cmd with done := if cmd.down then cmd.done + 1 else cmd.n })) ∧
          (∀ a b o p, place cmd.src = .at a o → place cmd.dst = .at b p →
            let m := min (w - cmd.off) (min (128 - (a + cmd.off) % 128) (128 - (b + cmd.off) % 128))
            let from_ := s.engineKeys c (s.launchFor c cmd.ctx) cmd.asid .load (recKind cmd.src == 0) (a + cmd.off) m
            let into_ := fun u : State =>
              u.engineKeys c (s.launchFor c cmd.ctx) cmd.asid .store (recKind cmd.dst == 0) (b + cmd.off) m
            (o = true ∨ p = true → exec (.copyNodeDone c) s = .next (s.stopCopy c q n cmd false false .refused)) ∧
            (o = false → p = false →
              (∀ u e, from_ = (u, .error e) → exec (.copyNodeDone c) s = .next (u.stopCopy c q n cmd false false e)) ∧
              (∀ u ks, from_ = (u, .ok ks) →
                (∀ r e, into_ u = (r, .error e) → exec (.copyNodeDone c) s = .next (r.stopCopy c q n cmd true false e)) ∧
                (∀ r ls, into_ u = (r, .ok ls) →
                  ∃ (t : State) (v : Nat → Byte), exec (.copyNodeDone c) s = .next t ∧
                    (∀ k, v k = memRead r.mem k ∨ (k, v k) ∈ cmd.old) ∧
                    t.mem = (ks.zip ls).foldl (fun m p => memWrite m p.2 (v p.1)) r.mem ∧
                    (∀ p ∈ ks.zip ls, r.isBad p.1 1 = true → t.isBad p.2 1 = true) ∧
                    (∃ d, t.copyCmd c q n = some ({ nd with kind := .copy d }, d) ∧
                      (if w ≤ cmd.off + m then d.done = cmd.done + 1 ∧ d.off = 0
                        else d.done = cmd.done ∧ d.off = cmd.off + m)))))))))

namespace Sys2Proof.Safety

/-- The checks of a message buffer of `n` bytes (R263, R264). -/
def bufferFault (s : State) (c x : Nat) (a : W) (n : Nat) : Option Byte :=
  firstFault [(a.toNat % 16 != 0, eAlign), (a.toNat / 2 ^ 21 != c || decide (2 ^ 21 < a.toNat % 2 ^ 21 + n), ePerm),
    (!s.regionFor c x a.toNat || !s.regionFor c x (a.toNat + n - 1), ePerm)]

end Sys2Proof.Safety

/-- R237, R257, R259, R260, R263 to R266 (that E_ALIGN comes before E_PERM, that `mcancel` s0 takes back the oldest, and what
`mprobe` of the plaza looks for, are the model's choices, log 75; that `mcancel` has no window result, log 37): `msend` empties sD and sends its message, counted at its own core and at the
destination's; `mrecv` empties sD and takes the oldest message of the lay-by that matches, or posts its receive, or is refused
where 64 are posted; `mcancel` takes back the receive whose completion register is sD; `mprobe` writes the header that a
receive would take, or 0xffff_ffff. -/
def Sys2Proof.Safety.Messages : Prop :=
  ∀ (s : State) (c x : Nat),
    (∀ (f : EX) (a h : W), x ≠ 64 → Ready s c x (exForm .dest .read .read f) [.s a, .s h] →
      let s' := noteFallback s c x (exFallback .dest .read .read f)
      let d := f.d.toNat
      let dst := h.toNat / 2 ^ 20
      let closed := fun t : State => t.modGang c x (retired false 0 4 { val := none, dest := BitVec.ofNat 8 (64 + d), w := false })
      (∀ e, bufferFault s' c x a (16 * (h.toNat / 2 ^ 16 % 16 + 1)) = some e →
        exec (.msend f) s = .next (s'.takeFault c x e 0 0 0 0)) ∧
      (bufferFault s' c x a (16 * (h.toNat / 2 ^ 16 % 16 + 1)) = none →
        (1536 ≤ dst → exec (.msend f) s = .next (s'.takeFault c x ePerm 0 0 0 0)) ∧
        (dst < 1536 →
          let m : Msg :=
            { src := c, ctx := x, creg := d, addr := a.toNat, dst := dst, hdr := h, launch := s'.launchOf c x }
          let sent := { s' with msgs := sput s'.msgs s'.nextId m, nextId := s'.nextId + 1 }
          exec (.msend f) s = .next (closed (((sent.countHome c x 4 c (· + 1)).countHome c x 4 dst (· + 1)).emptyS c x d)))) ∧
      (∀ e, bufferFault s' c x a 256 = some e → exec (.mrecv f) s = .next (s'.takeFault c x e 0 0 0 0)) ∧
      (bufferFault s' c x a 256 = none →
        let t := s'.emptyS c x d
        let found := t.laybyMatch c (t.launchOf c x) h
        (∀ l, found = some l → exec (.mrecv f) s = .next (closed (((t.modCore c fun k =>
          { k with layby := k.layby.erase l }).clearOvf c).deliver c x d a.toNat l.hdr l.payload l.bad))) ∧
        (found = none → exec (.mrecv f) s = .next (closed (
          if (t.core c).receives.length < 64 then t.modCore c fun k =>
            let r : Receive := { ctx := x, sel := h, addr := a.toNat, creg := d, launch := t.launchOf c x }
            { k with receives := k.receives ++ [r] }
          else t.fillS c x d 0xfffffffe))))) ∧
    (∀ f : EX, Ready s c x { exForm .dest .zero .zero f with dests := [] } [] →
      let s' := noteFallback s c x (exFallback .dest .zero .zero f)
      let found := (s'.core c).receives.find? fun r => r.ctx == x && r.creg == f.d.toNat
      (∀ r, found = some r → exec (.mcancel f) s = .next (plainDone ((s'.modCore c fun k =>
        { k with receives := k.receives.erase r }).fillS c x f.d.toNat 0xffffffff) c x false)) ∧
      (found = none → exec (.mcancel f) s = .next (plainDone s' c x false))) ∧
    (∀ (f : EX) (a : W), Ready s c x (exForm .dest .zero .read f) [.s a] →
      let s' := noteFallback s c x (exFallback .dest .zero .read f)
      exec (.mprobe f) s = .next (uniDone s' c x f.d.toNat false
        (((s'.laybyMatch c (s'.launchOf c x) a).map (·.hdr)).getD 0xffffffff)))

/-- R237, R257 to R260, R264, R267: the payload of a message is read at its sender, 16 bytes at a time, each at any time before
the message leaves (pieces of 16 bytes, each at a time of its own, are the model's choice, log 37; the record of an overflow is
that of log 76); an error there poisons the sender's register, and nothing is sent. A message that arrives whole is acted on
at its destination: with no crew of its launch there its status is poison, with a receive that matches it is delivered there (the
buffer written, the header in the completion register), with room it enters the lay-by, else it is refused. The status then fills
the sender's register. -/
def Sys2Proof.Safety.MessageUnit : Prop :=
  ∀ (s : State) (n : Nat) (m : Msg), sget s.msgs n = some m →
    let pieces := m.hdr.toNat / 2 ^ 16 % 16 + 1
    (∀ i < pieces, sget m.got i = none →
      let key := sramKey m.addr + 16 * i
      let m' := { m with got := sput m.got i (readBytes s.mem key 16) }
      let u := { s with msgs := sput s.msgs n m' }
      payloadRead n i s =
        if s.isBad key 16 then
          ({ (s.countHome m.src m.ctx 4 m.src (· - 1)).countHome m.src m.ctx 4 m.dst (· - 1) with
            msgs := sdel s.msgs n }.poisonS m.src m.ctx m.creg 3).reap m.src m.ctx
        else if m'.got.length < pieces then u
        else (u.countHome m.src m.ctx 4 m.src (· - 1)).wakeRoute 0 m.src m.dst) ∧
    (m.status = none → m.got.length < pieces → exec (.messageArrival n) s = .next s) ∧
    (m.status = none → pieces ≤ m.got.length →
      let hdr := BitVec.ofNat 32 (m.src % 4096 * 2 ^ 20 + m.hdr.toNat % 2 ^ 20)
      let t := s.countHome m.src m.ctx 4 m.dst (· - 1)
      let bytes := m.got.flatMap (·.2)
      let finish := fun (u : State) (st : Nat) =>
        exec (.messageArrival n) s =
          .next ({ u with msgs := sput u.msgs n { m with status := some st } }.wakeRoute 1 m.dst m.src)
      ((t.crewOf m.dst m.launch = none → finish t 3) ∧
        (∀ q, t.crewOf m.dst m.launch = some q →
          let hit := (t.core m.dst).receives.find? fun r => r.launch == m.launch && selMatches r.sel hdr
          (∀ r, hit = some r → finish ((t.modCore m.dst fun k => { k with receives := k.receives.erase r }).deliver m.dst
            r.ctx r.creg r.addr hdr bytes m.bad) 0) ∧
          (hit = none → (t.core m.dst).layby.length < 32 → finish (t.modCore m.dst fun k =>
            let e : Layby := { hdr := hdr, payload := bytes, bad := m.bad, launch := m.launch }
            { k with layby := k.layby ++ [e] }) 1) ∧
          (hit = none → 32 ≤ (t.core m.dst).layby.length → finish (t.overflow m.dst q hdr) 2)))) ∧
    (m.status = none → exec (.msendStatus n) s = .next s) ∧
    (∀ st, m.status = some st → exec (.messageArrival n) s = .next s ∧
      let t := { s with msgs := sdel s.msgs n }
      exec (.msendStatus n) s = .next ((if st = 3 then t.poisonS m.src m.ctx m.creg 2
        else t.fillS m.src m.ctx m.creg (BitVec.ofNat 32 st)).reap m.src m.ctx))

/-- R256: a router powers down that is up, has forwarded no flit for 256 mesh cycles (128 cycles of the cores), has no wake signal
on its way, and to which no die bridge attaches (that none on an edge facing a neighbour does is the model's choice, log 5); a wake signal wakes one that is down and restarts the idle count of one that
is up; a waking one is up after its 3 mesh cycles. Nothing else of the state changes. -/
def Sys2Proof.Safety.Routers : Prop :=
  ∀ (s : State) (n : Nat),
    let r := s.router n
    exec (.routerPowerDown n) s = .next (
      if r.up = true ∧ r.waking = none ∧ 128 ≤ s.clock - r.since ∧ n ∉ s.wakes ∧ bridgeRouter n = false then
        { s with routers := sput s.routers n { r with up := false } }
      else s) ∧
    (let r' := if r.up then { r with since := s.clock } else { r with waking := some (r.waking.getD s.clock) }
     exec (.routerWakeSignal n) s = .next { s with
       routers := sput s.routers n r', wakes := s.wakes.filter fun k => k != n }) ∧
    (r.waking = none → exec (.routerWakeDone n) s = .next s) ∧
    (∀ t, r.waking = some t → exec (.routerWakeDone n) s = .next (if t + 2 ≤ s.clock then
      { s with routers := sput s.routers n { up := true, since := s.clock, waking := none } } else s))

/-- R240, R316 to R320, R323, R324: graph nodes. -/
def Obligations.Graphs : Prop := GraphNodes ∧ GraphControl

/-- R237, R256 to R260, R263 to R267: messages and routers. -/
def Obligations.MessagePassing : Prop := Messages ∧ MessageUnit ∧ Routers

/-! ### Objects and combiner waves (R269 to R288, R387 to R389) -/

namespace Sys2Proof.Safety

/-- A packet of requests is sent to the die of its object's table, counted on the nt path until it has arrived (R273, R237), and
sends a wake signal along its route (R256). -/
def requested (s : State) (c x : Nat) (obj : W) (vec : Bool) (reqs : List (Nat × W)) (dst : AccDst) (svc : Nat) (arg2 : W) :
    State :=
  let p : Pkt := { core := c, ctx := x, launch := s.launchOf c x, obj := obj, vec := vec, reqs := reqs, dst := dst
                   binds := (s.gang c x).binds, left := reqs.length, svc := svc, arg2 := arg2 }
  { s with pkts := sput s.pkts s.nextId p, nextId := s.nextId + 1 }.countHome c x 4 (4096 + obj.toNat / 4096 % 32) (· + 1)
    |>.wakeRoute 0 c (tableCore (obj.toNat / 4096 % 32))

/-- An instruction whose destination is left to its reply retires. -/
def awaiting (s : State) (c x : Nat) (dest : Byte) : State :=
  s.modGang c x (retired false 0 4 { val := none, dest := dest, w := false })

/-- A call of one request whose reply fills s`d`. -/
def called (s : State) (c x d : Nat) (obj arg : W) (svc : Nat) (arg2 : W) : State :=
  awaiting (requested (s.emptyS c x d) c x obj false [(0, arg)] (.s d) svc arg2) c x (BitVec.ofNat 8 (64 + d))

/-- R269, R272, R273, R389: `obj.call` sends its argument to its object and empties sD; `obj.callv` one request for each active
lane, and none where no lane is active, vD then being full with its value; an id beyond the tables is E_PERM. `wfetch` and `wphase` send theirs to the kiosk of the
launch, once every access at scope package is over; in the plaza context, which has no launch, they write some value (the model's
choice, log 12). -/
def ObjectCalls : Prop :=
  (∀ (f : EX) (s : State) (c x : Nat) (a o : W), x ≠ 64 → Ready s c x (exForm .dest .read .read f) [.s a, .s o] →
    let s' := noteFallback s c x (exFallback .dest .read .read f)
    exec (.objCall f) s = .next (if o.toNat < 24 * 4096 then called s' c x f.d.toNat o a 0 0
      else s'.takeFault c x ePerm 0 0 0 0)) ∧
  (∀ (f : CallvF) (s : State) (c x : Nat) (a : Val) (o : W), x ≠ 64 →
    Ready s c x { legal := true, fb := f.rest != 0, names := [(f.a.toNat, 1), (f.d.toNat, 1)],
                  srcs := [{ cls := .vt, code := f.a.toNat, blk := true }, uSrc f.s true], dests := [f.d.toNat] } [a, .s o] →
    let s' := noteFallback s c x (f.rest != 0)
    let ls := activeList (s.gang c x).lanes
    let d := f.d.toNat
    (24 * 4096 ≤ o.toNat → exec (.objCallv f) s = .next (s'.takeFault c x ePerm 0 0 0 0)) ∧
    (o.toNat < 24 * 4096 → exec (.objCallv f) s = .next (awaiting (if ls = [] then s'.setVreg c x d { s'.vreg c x d with fe := .full, busy := false } else
      requested ((s'.setVreg c x d { s'.vreg c x d with fe := .empty, busy := true }).modGang c x fun g => g.omitWrite 0 d) c x o true
        (ls.map fun l => (l, a.lanes.lane l)) (.v d 1) 0 0) c x (BitVec.ofNat 8 d)))) ∧
  (∀ p ∈ [(Instr.wfetch, 5), (.wphase, 6)], ∀ (f : EX) (s : State) (c x : Nat) (a : W),
    Ready s c x (exForm .dest .read .zero f) [.s a] →
    let s' := noteFallback s c x (exFallback .dest .read .zero f)
    (s'.fenceDone c x 15 3 = false → exec (p.1 f) s = .next (s'.park c x .fence 0)) ∧
    (s'.fenceDone c x 15 3 = true → x ≠ 64 →
      exec (p.1 f) s = .next (called s' c x f.d.toNat (s'.crew c (x / 16)).kiosk a p.2 0)) ∧
    (s'.fenceDone c x 15 3 = true → x = 64 → ∃ v : W, exec (p.1 f) s = .next (uniDone s' c x f.d.toNat false v)))

/-- R281 to R283: `obj.reply` records the lane of A of each active request; `obj.done` and `obj.fail` end their run, and the wave
begins to end; outside the plaza context each is E_PERM. -/
def WaveInstructions : Prop :=
  (∀ (f : EX) (s : State) (c x : Nat) (a : Val), Ready s c x (exForm .zero .vread .zero f true) [a] →
    let s' := noteFallback s c x (exFallback .zero .vread .zero f)
    (x ≠ 64 → exec (.objReply f) s = .next (s'.takeFault c x ePerm 0 0 0 0)) ∧
    (∀ w, x = 64 → (s.gang c x).wave = some w → exec (.objReply f) s = .next (plainDone
      (((activeList (s.gang c x).lanes).filter fun l => decide (l < w.reqs.length)).foldl (fun (t : State) l =>
        t.modGang c 64 fun g => { g with wave := g.wave.map fun w =>
          { w with replies := sput w.replies l (a.lanes.lane l) } }) s') c x false))) ∧
  (∀ (f : EX) (s : State) (c x : Nat), Ready s c x (exForm .zero .zero .zero f true) [] →
    let fb := exFallback .zero .zero .zero f
    let bad := (noteFallback s c x fb).takeFault c x ePerm 0 0 0 0
    exec (.objDone f) s = .next (if x = 64 then (endDone s c x fb 4 {} id).endWave c false else bad) ∧
    exec (.objFail f) s = .next (if x = 64 then (endDone s c x fb 4 {} id).endWave c true else bad))

/-- The instructions that the plaza context may not execute (R279), but for those of `RunControl`, `RegangAndExit`,
`ElectCompletes` and `MatrixRefusals`, with their forms. -/
noncomputable def plazaForms : List ((EX → Instr) × (EX → Form)) :=
  (barOps.map fun p => (p.1, p.2.1)) ++
  ([.objCall, .msend, .mrecv, .kvMap, .kvSt] : List (EX → Instr)).map (fun i => (i, fun f => exForm .dest .read .read f)) ++
  ([.slotOpen, .slotKerb, .kvFork, .kvDrop] : List (EX → Instr)).map (fun i => (i, fun f => exForm .dest .read .zero f)) ++
  ([.slotRule, .slotReopen] : List (EX → Instr)).map (fun i => (i, fun f => exForm .zero .read .read f)) ++
  ([.slotClose, .kvUnpin] : List (EX → Instr)).map (fun i => (i, fun f => exForm .zero .read .zero f)) ++
  ([.kvVqlut, .kvVqsc] : List (EX → Instr)).map (fun i => (i, fun f => exForm .zero .read .read f true)) ++
  [(.slotPass, pairForm), (.slotSt, pairForm), (.runshare, fun f => exForm .zero .read .zero f true),
   (.grow, fun f => exForm .dest .zero .count f), (.shrink, fun f => exForm .zero .zero .count f true),
   (.kvHad, fun f => { exForm .vdest .vread .zero f with
      names := [(f.a.toNat, 4), (f.d.toNat, 4)],
      srcs := (List.range 4).map fun i => { cls := .vt, code := f.a.toNat + i, blk := f.ba == 1 },
      dests := (List.range 4).map fun i => f.d.toNat + i })]

/-- R279: they fault E_PERM there, and so do `obj.callv` and `rshare`. -/
def PlazaRefusals : Prop :=
  ∀ (s : State) (c : Nat) (vs : List Val),
    let bad := fun (i : Instr) (fm : Form) => Ready s c 64 fm vs →
      exec i s = .next ((noteFallback s c 64 fm.fb).takeFault c 64 ePerm 0 0 0 0)
    (∀ p ∈ plazaForms, ∀ f : EX, bad (p.1 f) (p.2 f)) ∧
    (∀ f : CallvF,
      let fm : Form := { legal := true, fb := f.rest != 0, names := [(f.a.toNat, 1), (f.d.toNat, 1)]
                         srcs := [{ cls := .vt, code := f.a.toNat, blk := true }, uSrc f.s true], dests := [f.d.toNat] }
      bad (.objCallv f) fm) ∧
    (∀ f : RshareF, bad (.rshare f) { legal := true, fb := false, names := [(f.first.toNat, f.count.toNat + 1)], wide := true })

/-- R270, R271, R274, R413: a table of a die in service takes the defined bits of an entry (bit 0 of METHOD reads 0, log 52), and
entries 0 to 63 from firmware only. A packet at the table is forwarded to its object's home core where its entry is valid, and open or of the sender's launch;
else each of its requests fails. -/
def ObjectTable : Prop :=
  (∀ (d i : Nat) (v : BitVec 128) (fw : Bool) (s : State),
    exec (.objectTableWrite d i v fw) s = .next (
      if d < 24 ∧ s.dieUp d = true ∧ i < 4096 ∧ (64 ≤ i ∨ fw = true) then
        s.modDie d fun q => { q with objs := sput q.objs i (v &&& 0xff00001ffffffffffffffffe07ffff03) }
      else s)) ∧
  (∀ (n : Nat) (s : State) (p : Pkt), sget s.pkts n = some p → p.home = none → p.reqs ≠ [] →
    let die := p.obj.toNat / 4096 % 32
    let e := s.objEntry p.obj
    let ok := s.dieUp die && bit e 0 && (bit e 1 || e.extractLsb' 8 8 == p.launch.setWidth 8)
    let h := 64 * die + (e.extractLsb' 21 6).toNat
    (ok = true → exec (.objTableRequest n) s = .next ({ s with
      pkts := sput s.pkts n { p with home := some h } }.wakeRoute 0 (tableCore die) h)) ∧
    (ok = false → exec (.objTableRequest n) s = .next (((p.reqs.foldl (fun (t : State) q =>
      { t with replies := sput t.replies t.nextId { pkt := n, lane := q.1, ok := false, val := 0 }
               nextId := t.nextId + 1 }) { s with pkts := sput s.pkts n { p with reqs := [] } }).countHome p.core p.ctx 4
        (4096 + die) (· - 1)).wakeRoute 1 (tableCore die) p.core)))

/-- R275 to R278, R284: a packet at its plaza is accepted whole where its requests fit, each joining the open wave of its
object, and else turned back, to be sent again after 64 cycles, its sender holding one place in the list; an open wave closes 64
cycles after its first request, taking its place among the closed ones by the cycle and then by its object's INDEX; the first
closed wave starts in a free plaza context, in a cycle after that of its closing, and one that has issued PLZLIM instructions is stopped by E_TRAP. -/
def PlazaQueue : Prop :=
  (∀ (n : Nat) (s : State) (p : Pkt) (c : Nat), sget s.pkts n = some p → p.home = some c → p.reqs ≠ [] → p.tried = none →
    let q := (s.core c).plaza
    (q.room p.core < p.reqs.length → exec (.plazaPacketArrival n) s = .next (
      let q' := if p.core ∈ q.turned ∨ 64 ≤ q.turned.length then q else { q with turned := q.turned ++ [p.core] }
      { s.modCore c (fun k => { k with plaza := q' }) with
        pkts := sput s.pkts n { p with tried := some s.clock } }.wakeRoute 1 c p.core)) ∧
    (p.reqs.length ≤ q.room p.core → exec (.plazaPacketArrival n) s = .next (
      let q' := p.reqs.foldl (fun (q : Plaza) r => q.join p.obj (objMaxw (s.objEntry p.obj)) s.clock
        { pkt := n, core := p.core, ctx := p.ctx, lane := r.1, vec := p.vec, arg := r.2 }) (q.leave p.core p.reqs.length)
      let t := (s.modCore c fun k => { k with plaza := q' }).countHome p.core p.ctx 4 (4096 + p.obj.toNat / 4096 % 32) (· - 1)
      { t with pkts := sput t.pkts n { p with reqs := [] } }))) ∧
  (∀ (n : Nat) (s : State) (p : Pkt) (t : Nat), sget s.pkts n = some p → p.tried = some t →
    exec (.plazaPacketRetry n) s = .next (if t + 64 ≤ s.clock then
      { s with pkts := sput s.pkts n { p with tried := none } }.wakeRoute 0 p.core (p.home.getD p.core) else s)) ∧
  (∀ (c o : Nat) (s : State) (w : QWave), sget (s.core c).plaza.opens o = some w →
    exec (.waveTimeoutClose c o) s = .next (if s.clock < w.opened + 64 then s else s.modCore c fun k =>
      { k with plaza := { k.plaza with opens := sdel k.plaza.opens o, closed := closeWave s.clock w k.plaza.closed } })) ∧
  (∀ (c : Nat) (s : State),
    let t := s.waveSweep c
    ((t.gang? c 64).isSome ∨ (t.core c).plaza.closed = [] → exec (.waveStart c) s = .next t) ∧
    (∀ w r, t.gang? c 64 = none → (t.core c).plaza.closed = w :: r →
      exec (.waveStart c) s = .next (if w.closedAt < t.clock then t.startWave c w r else t))) ∧
  (∀ (t : Nat) (w : QWave) (l : List QWave),
    let before := fun u v : QWave => u.closedAt < v.closedAt ∨
      (u.closedAt = v.closedAt ∧ u.obj.toNat % 4096 ≤ v.obj.toNat % 4096)
    List.Pairwise before l → (∀ u ∈ l, u.closedAt ≤ t) →
    List.Pairwise before (closeWave t w l) ∧ List.Perm (closeWave t w l) ({ w with closedAt := t } :: l)) ∧
  (∀ (c : Nat) (s : State) (w : Wave), (s.gang c 64).wave = some w →
    let lim := (s.die (c / 64)).plzlim.toNat
    exec (.waveBudgetExceeded c) s = .next (if lim ≠ 0 ∧ lim ≤ w.issued ∧ w.ending = false then
      s.takeFault c 64 eTrap 0 0x3ffff 0 0 else s))

/-- R285: a reply that arrives is taken off its packet; for a uniform register it fills the register, or poisons it with cause 1
where it failed; for a varying one it writes its lane, and with the packet's last reply the register is full, or poisoned where
one failed. A reply for a gang whose launch is gone changes no register. -/
def RepliesArrive : Prop :=
  ∀ (n : Nat) (s : State) (r : Reply) (p : Pkt), sget s.replies n = some r → sget s.pkts r.pkt = some p →
    let bad := p.failed || !r.ok
    let here := s.launchOf p.core p.ctx = p.launch
    let last := p.left ≤ 1
    let t := { s with replies := sdel s.replies n
                      pkts := if p.left ≤ 1 then sdel s.pkts r.pkt
                        else sput s.pkts r.pkt { p with left := p.left - 1, failed := bad } }
    let ends := fun u : State => exec (.objReplyArrival n) s = .next (u.reap p.core p.ctx)
    (¬ here → ends t) ∧
    (∀ d, here → last → p.dst = .s d → ends (if bad then t.poisonS p.core p.ctx d 1 else t.fillS p.core p.ctx d r.val)) ∧
    (∀ d k, here → p.dst = .v d k →
      let u := if r.ok then t.laneV p.core p.ctx p.binds d (BitVec.ofNat 32 (2 ^ r.lane)) (Lanes.splat r.val) else t
      (¬ last → ends u) ∧
      (last → ends (if bad then u.poisonV p.core p.ctx p.binds d 1 else u.fillV p.core p.ctx p.binds d 0 (Lanes.splat 0) 0)))

end Sys2Proof.Safety

/-- R269, R272, R273, R279, R281 to R283, R389: the instructions that call objects and kiosks, and those that answer in a wave. -/
def Obligations.ObjectInstructions : Prop := ObjectCalls ∧ WaveInstructions ∧ PlazaRefusals

/-- R270, R271, R274 to R278, R284, R285, R413: tables, plazas, waves and replies. -/
def Obligations.ObjectMachinery : Prop := ObjectTable ∧ PlazaQueue ∧ RepliesArrive

/-! ### Slots (R333 to R352) and the KV store (R353 to R376) -/

namespace Sys2Proof.Safety

/-- A command of a context to the finaliser of a die. -/
def finCommand (s : State) (c x : Nat) (op : FinOp) (h : W) (die : Nat) (dst : Option Nat) : FinCmd :=
  { core := c, ctx := x, slot := s.slotOf c x, pc := (s.gang c x).pc, op := op, handle := h, die := die, dst := dst, pin := (s.pinOf c x).1
    pinSize := (s.pinOf c x).2, launch := (s.launchOf c x).setWidth 8, asid := s.asidOf c x }

/-- A handle that names a finaliser (R334). -/
def handleGood (h : W) : Bool := !bit h 15 && decide (h.toNat / 1024 % 32 < 24)

/-- Its die. -/
def handleAt (h : W) : Nat := h.toNat / 1024 % 32

/-- R334, R343, R344, R347 to R349: `slot.open`, `slot.pass`, `slot.st` and `slot.kerb` check their operands in order, wait on the
ls, mx and kv paths where the rule says so, empty their destination registers and send their command, counted for the homes that
`finHomes` names as it is sent (which those are is the model's choice, log 69); a pass waits while another
of its gang is on its way. -/
def SlotReads : Prop :=
  ∀ (s : State) (c x : Nat), x ≠ 64 →
    (∀ (f : EX) (a : W), Ready s c x (exForm .dest .read .zero f) [.s a] →
      let s' := noteFallback s c x (exFallback .dest .read .zero f)
      let d := f.d.toNat
      let one := fun (op : FinOp) (h : W) (die : Nat) =>
        awaiting ((s'.emptyS c x d).sendFin (finCommand s' c x op h die (some d))) c x (BitVec.ofNat 8 (64 + d))
      exec (.slotOpen f) s = .next (
        if a.toNat % 32 ≠ 0 then s'.takeFault c x eAlign 0 0 0 0
        else if !sramExists a.toNat then s'.takeFault c x ePerm 0 0 0 0
        else if !s'.fenceDone c x 13 3 then s'.park c x .fence 0
        else one (.open a.toNat) 0 (c / 64)) ∧
      exec (.slotKerb f) s = .next (
        if handleGood a then one .kerb a (handleAt a) else s'.takeFault c x ePerm 0 0 0 0)) ∧
    (∀ (f : EX) (a b : W), Ready s c x (pairForm f) [.s a, .s b] →
      let s' := noteFallback s c x (exFallback .dest .read .read f)
      let d := f.d.toNat
      let two := fun (t : State) (op : FinOp) =>
        awaiting ((if d = 0 then t else (t.emptyS c x d).emptyS c x (d + 1)).sendFin
          (finCommand s' c x op a (handleAt a) (if d = 0 then none else some d))) c x (BitVec.ofNat 8 (64 + d))
      let conf := vget (s.gang c x).recs (b.toNat % 16) 0
      let tok := vget (s.gang c x).recs (b.toNat / 16 % 16) 0
      let short := fun r : BitVec 128 => recSwz r != 2 && decide (recExtent r < 256)
      let beyond := fun r : BitVec 128 => (List.range 256).any fun i =>
        match laneAddress r c (s.pinOf c x).1 (s.pinOf c x).2 i 4 with
        | .at _ o => o
        | .oob => false
      let bad := firstFault [(!handleGood a, ePerm), (recBad conf || recBad tok, eRec), (recKind conf == 0 || recKind tok == 0, ePerm),
        ((recFmt conf).toNat % 16 != 1 || recEsize conf != 4 || recEsize tok != 4, eFmt),
        ((recStrict conf && short conf) || (recStrict tok && short tok), eBnd), (beyond conf || beyond tok, ePerm)]
      (exec (.slotSt f) s = .next (if handleGood a then two s' (.slotRead b) else s'.takeFault c x ePerm 0 0 0 0)) ∧
      (∀ e, bad = some e → exec (.slotPass f) s = .next (s'.takeFault c x e 0 0 0 0)) ∧
      (bad = none →
        let passing := s'.fins.any fun p => p.2.core == c && p.2.ctx == x && match p.2.op with
          | .pass _ _ => true
          | _ => false
        exec (.slotPass f) s = .next (
          if !s'.fenceDone c x 13 3 then s'.park c x .fence 0
          else if passing then s'.park c x .engine 6
          else two (if short conf || short tok then s'.modGang c x fun g => g.raise fOob else s') (.pass conf tok))))

/-- R343, R345, R346, R350, R351: `slot.rule`, `slot.reopen` and `slot.close` send their command and park; the answer lets the
group go on, or is E_SLOT or E_POISON. -/
def SlotVerdicts : Prop :=
  ∀ (s : State) (c x : Nat) (i : Instr) (fm : Form) (vs : List Val) (op : FinOp), x ≠ 64 → Ready s c x fm vs →
    ((∃ f a b, i = .slotRule f ∧ fm = exForm .zero .read .read f ∧ vs = [.s a, .s b] ∧ op = .rule b.toNat) ∨
     (∃ f a b, i = .slotReopen f ∧ fm = exForm .zero .read .read f ∧ vs = [.s a, .s b] ∧ op = .reopen b) ∨
     (∃ f a, i = .slotClose f ∧ fm = exForm .zero .read .zero f ∧ vs = [.s a] ∧ op = .close)) →
    let s' := noteFallback s c x fm.fb
    let h := uVal vs 0
    let found := s'.fins.find? fun p => p.2.core == c && p.2.ctx == x && p.2.pc == (s'.gang c x).pc && p.2.op.parks
    let sent := (s'.sendFin (finCommand s' c x op h (handleAt h) none)).park c x .verdict 0
    (found = none → handleGood h = false → exec i s = .next (s'.takeFault c x ePerm 0 0 0 0)) ∧
    (found = none → handleGood h = true →
      (∀ a, op = .rule a → exec i s = .next (
        if a % 16 ≠ 0 then s'.takeFault c x eAlign 0 0 0 0 else if s'.fenceDone c x 13 3 then sent else s'.park c x .fence 0)) ∧
      ((∀ a, op ≠ .rule a) → exec i s = .next sent)) ∧
    (∀ n m, found = some (n, m) →
      (m.place ≠ 4 → exec i s = .next (s'.park c x .verdict 0)) ∧
      (m.place = 4 → exec i s = .next (match m.w0.toNat with
        | 0 => plainDone { s' with fins := sdel s'.fins n } c x false
        | 1 => s'.takeFault c x eSlot 0 0 0 0
        | _ => s'.takeFault c x ePoison 3 0 0 0)))

/-- R333, R342, R352: a command that arrives takes a free place in the queue of its finaliser, or is turned back and comes again
after 64 cycles, its sender holding one place in the list; an answer fills the registers of its command, or poisons them with
cause 3, or waits for the parked group, in the save area of a saved gang (where there is the model's choice, log 40). -/
def FinaliserQueue : Prop :=
  ∀ (n : Nat) (s : State) (m : FinCmd), sget s.fins n = some m →
    let d := s.die m.die
    (m.place = 0 →
      (d.finRoom m.core = 0 → exec (.finaliserCommandArrival n) s = .next (
        let d' := if m.core ∈ d.finTurned ∨ 64 ≤ d.finTurned.length then d else { d with finTurned := d.finTurned ++ [m.core] }
        { s.setDie m.die d' with fins := sput s.fins n { m with place := 2, tried := s.clock } })) ∧
      (d.finRoom m.core ≠ 0 → exec (.finaliserCommandArrival n) s = .next (
        let d' := d.finLeave m.core
        { s.setDie m.die { d' with finQ := d'.finQ ++ [.cmd n] } with fins := sput s.fins n { m with place := 1 } }))) ∧
    (m.place ≠ 0 → exec (.finaliserCommandArrival n) s = .next s) ∧
    exec (.finaliserCommandRetry n) s = .next (if m.place = 2 ∧ m.tried + 64 ≤ s.clock then
      { s with fins := sput s.fins n { m with place := 0 } } else s) ∧
    (m.place ≠ 3 → exec (.slotReplyArrival n) s = .next s) ∧
    (m.place = 3 →
      let t := { s with fins := sdel s.fins n }
      (∀ d, (∃ i, m.op = .open i) ∨ m.op = .kerb → m.dst = some d → exec (.slotReplyArrival n) s = .next
        ((if m.poison then t.poisonS m.core m.ctx d 3 else t.fillS m.core m.ctx d m.w0).reap m.core m.ctx)) ∧
      (∀ d, (∃ a b, m.op = .pass a b) ∨ (∃ i, m.op = .slotRead i) → m.dst = some d → exec (.slotReplyArrival n) s = .next
        ((if m.poison then (t.poisonS m.core m.ctx d 3).poisonS m.core m.ctx (d + 1) 3
          else (t.fillS m.core m.ctx d m.w0).fillS m.core m.ctx (d + 1) m.w1).reap m.core m.ctx)) ∧
      (m.op.parks = true →
        (∀ k w, s.savedAt m.core m.ctx = some (k, w) → exec (.slotReplyArrival n) s = .next
          { (match s.verdictEntry k m.pc with
              | some i => s.putArea (k + 0x42 + 8 * i) [BitVec.ofNat 8 (16 + m.w0.toNat)]
              | none => s) with fins := sdel s.fins n }) ∧
        (∀ g, s.savedAt m.core m.ctx = none → s.gang? m.core m.ctx = some g → g.ended = false →
          exec (.slotReplyArrival n) s = .next
            ({ s with fins := sput s.fins n { m with place := 4 } }.reap m.core m.ctx))))

/-- R333 to R342, R344 to R351, R370: what the finaliser does with the command at the head of its queue: the block that a current handle
names is changed or read as the command says, and the answer follows; a handle that is not current, a refused record and an
uncorrectable one have their own answers. The due retries of a block arrive behind what stands in the queue, as far as it has
room, and the others again 64 cycles later (the model's choice, log 69); and the device
kernel's forced close ends a block and its retries. -/
def FinaliserActs : Prop :=
  ∀ (die n : Nat) (s : State) (m : FinCmd), s.finHead die = some (n, m) →
    let idx := m.handle.toNat % 1024
    let verdict := fun (t : State) (v : W) => t.finAnswer n m v 0
    let put := fun b : Block => s.setBlock die idx b
    (∀ a, m.op = .open a → exec (.finaliserOpen die) s = .next (
      if s.feature 3 = false then s.finAnswer n m 0xffffffff 0
      else if s.refused m.launch a 32 then s.finAnswer n m 0xfffffffe 0
      else if s.isBad (sramKey a) 32 then s.finAnswer n m 0 0 true
      else
        let bytes := readBytes s.mem (sramKey a) 32
        match (List.range 1024).find? fun i => !(s.block die i).isOpen with
        | none => s.finAnswer n m (if (openBlock bytes 1 0).isSome then 0xffffffff else 0xfffffffe) 0
        | some i =>
          match openBlock bytes (s.block die i).gen m.asid with
          | none => s.finAnswer n m 0xfffffffe 0
          | some b => ((s.setBlock die i b).put (sramKey b.wcur) (leBytes 4 0)).finAnswer n m
              (b.gen.setWidth 32 <<< 16 ||| BitVec.ofNat 32 (die * 1024 + i)) 0)) ∧
    (∀ a, m.op = .rule a → exec (.finaliserRule die) s = .next (
      let w := fun o k => s.load (sramKey (a + o)) k
      match s.current m with
      | none => verdict s 1
      | some b =>
        if s.refused m.launch a 16 then verdict s 1
        else if s.isBad (sramKey a) 16 then verdict s 2
        else if 256 < w 14 2 ∨ w 14 2 < w 12 2 then verdict s 1
        else verdict (put { b with rule := { thf := BitVec.ofNat 32 (w 0 4), tht := BitVec.ofNat 32 (w 4 4),
                                             rho := BitVec.ofNat 32 (w 8 4), kmin := w 12 2, kmax := w 14 2 } }) 0)) ∧
    (m.op = .close → exec (.finaliserClose die) s = .next (
      match s.current m with
      | none => verdict s 1
      | some b => verdict ((put { gen := if b.gen = 0xffff then 1 else b.gen + 1 }).modDie die fun d =>
          { d with finQ := d.finQ.filter fun i => i != .retry idx }) 0)) ∧
    (∀ i, m.op = .reopen i → exec (.finaliserReopen die) s = .next (
      match s.current m with
      | none => verdict s 1
      | some b =>
        match b.slots[i.toNat]? with
        | none => verdict s 1
        | some q => if q.st = 2 then verdict s 1 else verdict (put { b with slots := b.slots.set i.toNat { q with st := 0 } }) 0)) ∧
    (∀ i, m.op = .slotRead i → exec (.finaliserSlotRead die) s = .next (
      match (s.current m).bind fun b => b.slots[i.toNat]? with
      | none => s.finAnswer n m 0 0xffffffff
      | some q => s.finAnswer n m q.token (q.fpass ++ q.st.setWidth 16))) ∧
    (m.op = .kerb → exec (.finaliserKerbRead die) s = .next (
      match s.current m with
      | none => verdict s 0xffffffff
      | some b => verdict s (BitVec.ofNat 32 (b.rc + (b.slots.filter fun q => q.st.toNat == 2).length * 2 ^ 9
          + b.halted.isSome.toNat * 2 ^ 18 + b.kerr.toNat * 2 ^ 19)))) ∧
    (∀ i, m.op = .kvRead i → exec (.finaliserKvSlotRead die) s = .next (
      let ans := (s.current m).bind fun b => (b.slots[i]?).bind fun q =>
        if q.st = 2 then some (b.base + BitVec.ofNat 32 i) else none
      let t := s.finTaken n m
      { t with fins := sdel t.fins n }.modCore m.core fun k =>
        { k with kvQ := k.kvQ.map fun (q : KvCmd) => if q.asked = some n then { q with slot := some ans } else q })) ∧
    (∀ a b, m.op = .pass a b → s.current m = none → exec (.finaliserPass die) s = .next (s.finAnswer n m 0x08000000 0)) ∧
    (∀ a b blk, m.op = .pass a b → s.current m = some blk →
      let reads := passReads m a b blk
      (reads.any (fun r => s.refused m.launch r 4) = true →
        exec (.finaliserPass die) s = .next (s.finAnswer n m 0x10000000 0)) ∧
      (reads.any (fun r => s.refused m.launch r 4) = false → reads.any (fun r => s.isBad (sramKey r) 4) = true →
        exec (.finaliserPass die) s = .next (s.finAnswer n m 0 0 true)) ∧
      (reads.any (fun r => s.refused m.launch r 4) = false → reads.any (fun r => s.isBad (sramKey r) 4) = false →
        let qs := s.scored m a b blk
        let ranked := (qs.filterMap fun q => q.conf.map fun v => (q.i, v, q.tok)).foldl (fun acc q => insScored q acc) []
        let fin := finalists blk.rule ranked
        let slots := (List.range blk.slots.length).map fun i => match qs.find? fun q => q.i == i with
          | some q => passSlot blk.rule fin (blk.pass + 1) q (blk.slots.getD i {})
          | none => blk.slots.getD i {}
        let u := s.finTaken n m
        let r := u.releaseBlock die idx { blk with slots := slots, pass := blk.pass + 1, retries := (u.block die idx).retries }
        let open_ := (slots.filter fun q => q.st.toNat == 0).length + (slots.filter fun q => q.st.toNat == 1).length
        exec (.finaliserPass die) s = .next { r.1 with fins := sput r.1.fins n { m with
          place := 3
          w0 := BitVec.ofNat 32 (fin.length + r.2.1 * 2 ^ 9 + (qs.filter fun q => q.conf.isNone).length * 2 ^ 18)
          w1 := BitVec.ofNat 32 (open_ + r.2.2.toNat * 2 ^ 9 + (r.1.block die idx).kerr.toNat * 2 ^ 10
            + (blk.pass + 1).toNat * 2 ^ 16) } })) ∧
    (∀ blk,
      (let due := ((s.block die blk).retries.filter fun t => decide (t ≤ s.clock)).length +
          (if (s.block die blk).halted.any (fun t => decide (t ≤ s.clock)) then 1 else 0)
       let fit := min due (256 - (s.die die).finQ.length - (s.die die).finHeld)
       ((retryArrives die blk s).die die).finQ = (s.die die).finQ ++ List.replicate fit (.retry blk) ∧
       ((retryArrives die blk s).block die blk).retries =
         ((s.block die blk).retries.filter fun t => decide (s.clock < t)) ++ List.replicate (due - fit) (s.clock + 64)) ∧
      ((s.block die blk).isOpen = false → closeForced die blk s = s) ∧
      ((s.block die blk).isOpen = true →
        (closeForced die blk s).block die blk = { gen := if (s.block die blk).gen = 0xffff then 1 else (s.block die blk).gen + 1 } ∧
        ((closeForced die blk s).die die).finQ = (s.die die).finQ.filter fun i => i != .retry blk))

/-- R340: a retry at the head of the finaliser's queue tries the release of its block again, where it still waits; a retry that
stands elsewhere waits for its turn. -/
def KerbRetries : Prop :=
  ∀ (die blk : Nat) (s : State),
    ((s.die die).finQ.head? ≠ some (.retry blk) → exec (.kerbRetry die blk) s = .next s) ∧
    (∀ r, (s.die die).finQ = .retry blk :: r → exec (.kerbRetry die blk) s = .next (
      let t := s.modDie die fun d => { d with finQ := r }
      if (t.block die blk).isOpen = true ∧ (t.block die blk).halted.isSome = true then
        (t.releaseBlock die blk (t.block die blk)).1
      else t))

/-- The fence of a KV instruction over the paths `p`, at scope package, and what follows. -/
def fenced (s : State) (c x : Nat) (p : BitVec 6) (t : State) : State := if s.fenceDone c x p 3 then t else s.park c x .fence 0

/-- A command for the KV engine of a core. -/
def kvCommand (s : State) (c x : Nat) (op : KvOp) (a b : W) (dst : Option Nat) : KvCmd :=
  let m : KvCmd := { op := op, num := s.nextId, ctx := x, a := a, b := b, dst := dst, pc := (s.gang c x).pc
                     launch := (s.launchOf c x).setWidth 8, asid := s.asidOf c x }
  { m with homes := s.kvHomes m }

/-- Where fewer than 16 commands wait, a command enters the engine's queue and is counted, and `k` follows; else the group
parks. -/
def kvQueued (s : State) (c x : Nat) (m : KvCmd) (k : State → State) : State :=
  if ((s.core c).kvQ.filter fun q => q.ans.isNone).length < 16 then
    k ({ (s.modCore c fun q => { q with kvQ := q.kvQ ++ [m] }) with nextId := s.nextId + 1 }.countKv c m (· + 1))
  else s.park c x .engine 7

/-- R355, R361, R368, R369: `kv.map`, `kv.fork`, `kv.drop` and `kv.unpin` check their operands, wait on the ls and kv paths, and send
a request to the service of their pool; `kv.unpin` has no reply. -/
def KvRequests : Prop :=
  ∀ (s : State) (c x : Nat), x ≠ 64 →
    (∀ (f : EX) (a t : W), Ready s c x (exForm .dest .read .read f) [.s a, .s t] →
      let s' := noteFallback s c x (exFallback .dest .read .read f)
      let p := s'.pool (t.toNat % 32) (t.toNat / 32 % 2)
      let bad := firstFault [(a.toNat % 16 != 0, eAlign), (!sramExists a.toNat, ePerm), (decide (24 ≤ t.toNat % 32), ePerm),
        (p.nhome == 0, eKv)]
      (∀ e, bad = some e → exec (.kvMap f) s = .next (s'.takeFault c x e 0 0 0 0)) ∧
      (bad = none → exec (.kvMap f) s = .next (fenced s' c x 9 (called s' c x f.d.toNat p.svc a 1 t)))) ∧
    (∀ p ∈ [(Instr.kvFork, 2), (.kvDrop, 3)], ∀ (f : EX) (a : W), Ready s c x (exForm .dest .read .zero f) [.s a] →
      let s' := noteFallback s c x (exFallback .dest .read .zero f)
      exec (p.1 f) s = .next (if s'.refOk a then fenced s' c x 9 (called s' c x f.d.toNat (s'.refPool a).svc a p.2 0)
        else s'.takeFault c x eKv 0 0 0 0)) ∧
    (∀ (f : EX) (a : W), Ready s c x (exForm .zero .read .zero f) [.s a] →
      let s' := noteFallback s c x (exFallback .zero .read .zero f)
      exec (.kvUnpin f) s = .next (if s'.refOk a then fenced s' c x 9
          (plainDone (requested s' c x (s'.refPool a).svc false [(0, a)] .none 4 0) c x false)
        else s'.takeFault c x eKv 0 0 0 0))

/-- R364, R370 to R374: `kv.st` and `kv.ld` queue their command and empty sD; `kv.vqlut` and `kv.vqsc` queue theirs and park until the
engine's verdict; `kv.had` rotates the 128 FP32 values of four registers, whose banks then hold the result. -/
def KvInstructions : Prop :=
  ∀ (s : State) (c x : Nat), x ≠ 64 →
    (∀ (f : EX) (a b : W), Ready s c x (exForm .dest .read .read f) [.s a, .s b] →
      let s' := noteFallback s c x (exFallback .dest .read .read f)
      let d := f.d.toNat
      let bad := firstFault [(b.toNat % 16 != 0, eAlign), (!sramExists b.toNat, ePerm), (!s'.refOk a, eKv)]
      let go := fun op : KvOp => kvQueued s' c x (kvCommand s' c x op a b (some d)) fun t =>
        awaiting (t.emptyS c x d) c x (BitVec.ofNat 8 (64 + d))
      (∀ e, bad = some e → exec (.kvSt f) s = .next (s'.takeFault c x e 0 0 0 0) ∧
        exec (.kvLd f) s = .next (s'.takeFault c x e 0 0 0 0)) ∧
      (bad = none → exec (.kvSt f) s = .next (fenced s' c x 5 (go .st)) ∧ exec (.kvLd f) s = .next (go .ld))) ∧
    (∀ (f : EX) (a b : W), Ready s c x (exForm .zero .read .read f true) [.s a, .s b] →
      let s' := noteFallback s c x (exFallback .zero .read .read f)
      let go := fun (i : Instr) (op : KvOp) (bad : Option Byte) =>
        let found := (s'.core c).kvQ.find? fun m => m.ctx == x && m.pc == (s'.gang c x).pc && m.op == op
        (∀ e, found = none → bad = some e → exec i s = .next (s'.takeFault c x e 0 0 0 0)) ∧
        (found = none → bad = none → exec i s = .next (fenced s' c x 5
          (kvQueued s' c x (kvCommand s' c x op a b none) fun t => t.park c x .verdict 1))) ∧
        (∀ m, found = some m → exec i s = .next (match m.ans with
          | none => s'.park c x .verdict 1
          | some 1 => s'.takeFault c x eKv 0 0 0 0
          | some 2 => s'.takeFault c x ePerm 0 0 0 0
          | some 3 => s'.takeFault c x ePoison 3 0 0 0
          | some _ => plainDone (s'.modCore c fun k => { k with kvQ := k.kvQ.filter fun q => q.num != m.num }) c x false))
      go (.kvVqlut f) .vqlut (firstFault [(a.toNat % 16 != 0, eAlign), (!sramExists a.toNat, ePerm), (b.toNat % 16 != 0, eAlign),
        (!sramExists b.toNat, ePerm)]) ∧
      go (.kvVqsc f) .vqsc (firstFault [(b.toNat % 16 != 0, eAlign), (!sramExists b.toNat, ePerm), (!s'.refOk a, eKv)])) ∧
    (∀ (f : EX) (v0 v1 v2 v3 : Val),
      Ready s c x { exForm .vdest .vread .zero f with
        names := [(f.a.toNat, 4), (f.d.toNat, 4)]
        srcs := (List.range 4).map fun i => { cls := .vt, code := f.a.toNat + i, blk := f.ba == 1 }
        dests := (List.range 4).map fun i => f.d.toNat + i } [v0, v1, v2, v3] →
      (∀ v ∈ [v0, v1, v2, v3], tagOk [1] v = true) →
      let s' := noteFallback s c x (exFallback .vdest .vread .zero f)
      let y := hadamard ([v0, v1, v2, v3].flatMap fun v => (List.range 32).map fun l => (v.lanes.lane l).toNat)
      exec (.kvHad f) s = .next (awaiting ((List.range 4).foldl (fun (t : State) i =>
        (t.writeV c x (f.d.toNat + i) (s.gang c x).lanes (Lanes.of fun l => BitVec.ofNat 32 (y.getD (32 * i + l) 0)) 1).modGang c x
          fun g => g.commit 0 (f.d.toNat + i)) s')
        c x (f.d.setWidth 8)))

/-- R356, R358, R366, R367, R370 to R374: what the KV engine of a core does with its oldest command. `kv.ld` answers an invalid entry, or
copies the block to its destination and answers with the valid bits, and with DRAIN where the entry drains. `kv.st` checks its
request, the entry and the handle in order, and asks the finaliser for the slot; once that has answered it stores (`kvStEnd`). `kv.vqlut`
checks its request and writes the table of 16 × 256 products of the query with the codebook's vectors. `kv.vqsc` checks its request,
the entry and the reads of the table, and writes the 16 scores, -∞ where an element is not valid. An uncorrectable table entry poisons
the status of `kv.st` and `kv.ld`, and is cause 3 for `kv.vqsc` (for `kv.st` and `kv.vqsc`, and that `kv.ld` then copies nothing, the
model's choice, log 61). A `kv.ld` that is refused keeps what it wrote before the refused element (the model's choice, log 40;
R372 says it of `kv.vqlut` and `kv.vqsc`). -/
def KvEngine : Prop :=
  ∀ (s : State) (c : Nat) (m : KvCmd), s.kvHead c = some m →
    let p := s.refPool m.a
    let cls := m.a.toNat / 2 ^ 25 % 2
    let blk := m.a.toNat % 2 ^ 20
    (m.op = .ld →
      let e := s.kvGet p blk
      let ps := (List.range (blkSize cls / 16)).map fun i =>
        (readBytes s.mem (p.blkKey cls blk + 16 * i) 16, s.isBad (p.blkKey cls blk + 16 * i) 16)
      let t := s.touch (p.tblKey blk) true false
      let w := (t.touchAll (p.blkKey cls blk) (blkSize cls) false).kvWrite m m.b.toNat ps
      let drain := if e.st = 2 then 2 ^ 19 else 0
      exec (.kvLdExec c) s = .next (
        if s.isBad (p.tblKey blk) 16 then t.kvStatus c m none
        else if e.st = 0 then t.kvStatus c m (some (e.valid + 2 ^ 16))
        else if w.2 then w.1.kvStatus c m (some (e.valid + 2 * 2 ^ 16 + drain))
        else w.1.kvStatus c m (if ps.any (fun q => q.2) then none else some (e.valid + drain)))) ∧
    (m.op = .st → ∀ ans, m.slot = some ans → exec (.kvStExec c) s = .next (s.kvStEnd c m ans)) ∧
    (m.op = .st → m.slot = none → m.asked = none →
      let a := m.b.toNat
      let w := fun o k => s.load (sramKey (a + o)) k
      let h : W := BitVec.ofNat 32 (w 0 4)
      let ent := s.load (p.tblKey blk) 16
      let e := kvEntryOf ent
      let m' := { m with homes := s.kvHomes m }
      let t := ((s.countKv c m (· - 1)).countKv c m' (· + 1)).setKvHead c m m'
      let u := t.touch (p.tblKey blk) true false
      exec (.kvStExec c) s = .next (
        if t.kvRefused m' a 16 then t.kvStatus c m' (some 6)
        else if t.isBad (sramKey a) 16 then t.kvStatus c m' none
        else if w 6 2 ≠ 0 ∨ w 12 4 ≠ 0 ∨ w 8 4 % 16 ≠ 0 ∨ sramExists (w 8 4) = false then t.kvStatus c m' (some 7)
        else if t.isBad (p.tblKey blk) 16 then u.kvStatus c m' none
        else if e.st ≠ 1 then u.kvStatus c m' (some 2)
        else if 1 < e.ref then u.kvStatus c m' (some 3)
        else if handleGood h = false then u.kvStatus c m' (some 1)
        else (u.setKvHead c m' { m' with asked := some t.nextId, src := w 8 4, ent := ent }).sendFin
          { core := c, ctx := m.ctx, pc := m.pc, op := .kvRead (w 4 2), handle := h, die := handleAt h, dst := none
            launch := m.launch, asid := m.asid })) ∧
    (m.op = .vqlut →
      let a := m.a.toNat
      let bs := readBytes s.mem (sramKey a) 16
      let layer := bytesNat bs 0 1
      let head := bytesNat bs 1 1
      let q := s.pool (bytesNat bs 2 1) 1
      let query := (List.range 128).map fun i => s.load (sramKey (a + 16 + 4 * i)) 4
      let out := (List.range 16).flatMap fun g => (List.range 256).flatMap fun v => leBytes 4 (s.lutEntry q layer head g v query)
      let t := s.seeBooks q 0 layer head
      let w := t.kvWrite m m.b.toNat (pieces out)
      exec (.kvVqlutExec c) s = .next (
        if s.kvRefused m a 528 then s.kvVerdict c m 2
        else if s.isBad (sramKey a) 528 then s.kvVerdict c m 3
        else if 7 < head ∨ bytesNat bs 3 13 ≠ 0 ∨ q.nhome = 0 then s.kvVerdict c m 1
        else if (List.range 16).any fun g => s.isBad (bookKey q 0 layer head g) 4096 then t.kvVerdict c m 3
        else w.1.kvVerdict c m (if w.2 then 2 else 0))) ∧
    (m.op = .vqsc →
      let a := m.b.toNat
      let bs := readBytes s.mem (sramKey a) 16
      let lut := bytesNat bs 0 4
      let out := bytesNat bs 4 4
      let head := bytesNat bs 8 1
      let e := s.kvGet p blk
      let at_ := fun q => p.blkKey 1 blk + 16 * ((q * 8 + head) * 2)
      let valid := fun q : Nat => decide (e.valid / 2 ^ q % 2 = 1)
      let entry := fun q g => lut + 1024 * g + 4 * (memRead s.mem (at_ q + g)).toNat
      let used := ((List.range 16).filter valid).flatMap fun q => (List.range 16).map (entry q)
      let t := s.touch (p.tblKey blk) true false
      let u := t.seeKeys (((List.range 16).filter valid).map at_)
      let w := u.kvWrite m out (pieces ((List.range 16).flatMap fun q => leBytes 4 (
        if valid q then fSum ((List.range 16).map fun g => s.load (sramKey (entry q g)) 4) else 0xff800000)))
      exec (.kvVqscExec c) s = .next (
        if s.kvRefused m a 16 then s.kvVerdict c m 2
        else if s.isBad (sramKey a) 16 then s.kvVerdict c m 3
        else if cls = 0 ∨ out % 16 ≠ 0 ∨ 7 < head ∨ bytesNat bs 9 7 ≠ 0 then s.kvVerdict c m 1
        else if s.isBad (p.tblKey blk) 16 then t.kvVerdict c m 3
        else if e.st = 0 then t.kvVerdict c m 1
        else if used.any fun q => s.kvRefused1 m q || s.kvRefused1 m (q + 3) then u.kvVerdict c m 2
        else if (used.any fun q => s.isBad (sramKey q) 4) || (List.range 16).any (fun q => valid q && s.isBad (at_ q) 16) then
          u.kvVerdict c m 3
        else w.1.kvVerdict c m (if w.2 then 2 else 0)))

end Sys2Proof.Safety

/-- R334, R343 to R351: the slot instructions. -/
def Obligations.SlotInstructions : Prop := SlotReads ∧ SlotVerdicts

/-- R333 to R342, R344 to R352, R370: the finaliser. -/
def Obligations.Finaliser : Prop := FinaliserQueue ∧ FinaliserActs ∧ KerbRetries

/-- R355, R361, R364, R368 to R374: the KV instructions. -/
def Obligations.KvStore : Prop := KvRequests ∧ KvInstructions

/-- R356, R358, R366, R367, R370 to R374: the KV engine. -/
def Obligations.KvEngineCommands : Prop := KvEngine

/-! ### Queues, packets and signals (R378 to R383, R395, R397, R399, R400) -/

namespace Sys2Proof.Safety

/-- The head packet of queue `q` can be taken up: the queue runs with tickets and holds no packet, its turn has come or the
packet is a WAIT or a TIMER, and its bytes `bs` at address `a` are read and good; `u` is the state after the reading. -/
structure HeadReady (s : State) (q : Nat) (u : State) (a : Nat) (bs : List Byte) : Prop where
  runs : (s.refresh.queue q).runs = true
  room : s.refresh.holdFull = false
  addr : (s.refresh.queue q).pktAddr = some a
  read : s.refresh.headBytes q = (u, some bs)
  good : u.pktOk bs = true
  turn : s.refresh.pickQueue = some q ∨ pktKind bs = 4 ∨ pktKind bs = 6

/-- Its completion signal. -/
def headSig (u : State) (q a : Nat) (bs : List Byte) : Option Sig := pktSig q a (u.queue q).asid bs

/-- The head packet starts and completes. -/
def headPassed (u : State) (q a : Nat) (bs : List Byte) : State :=
  (u.startHead q none none).completePkt q (u.queue q).num (headSig u q a bs)

/-- R378, R379, R395: a write of WIDX is taken where it lies at most 2^LOG2SIZE beyond both indices, and else halts the queue with
QTAIL; a STATE of 0, 1 or 2 and a TICKETS of 16 bits are taken, and values beyond are ignored. That STATE 0 drops the chain of
INDIRECT buffers, so that its INDIRECTs never complete, and that STATE 0 and 2 withdraw the launch that waits at the head, are the
model's choices (log 42). -/
def QueueWrites : Prop :=
  ∀ (q : Nat) (v : W) (s : State), q < 256 →
    (let x := s.refresh.queue q
     let n := 2 ^ x.log2size
     ((v - x.ridx).toNat ≤ n → (v - x.widx).toNat ≤ n →
       exec (.widxWrite q v) s = .next (((s.refresh.kick q).modQueue q fun x => { x with widx := v }).refresh)) ∧
     (n < (v - x.ridx).toNat ∨ n < (v - x.widx).toNat →
       exec (.widxWrite q v) s = .next ((s.refresh.kick q).haltQueue q 1 none).refresh)) ∧
    (3 ≤ v.toNat → exec (.queueStateWrite q v) s = .next s) ∧
    (v = 1 → exec (.queueStateWrite q v) s = .next (s.refresh.modQueue q fun x => { x with st := 1 }).refresh) ∧
    (v = 0 → exec (.queueStateWrite q v) s = .next
      ((s.refresh.unselect q).modQueue q fun x =>
        { x with st := 0, chain := [], outst := x.outst.filter fun o =>
            !(o.inner && x.chain.any fun i => i.num == o.num) }).refresh) ∧
    (v = 2 → exec (.queueStateWrite q v) s = .next ((s.refresh.unselect q).modQueue q fun x => { x with st := 2 }).refresh) ∧
    (65536 ≤ v.toNat → exec (.ticketsWrite q v) s = .next s) ∧
    (v.toNat < 65536 → exec (.ticketsWrite q v) s = .next
      (s.refresh.modQueue q fun x => { x with tickets := v.toNat }).refresh)

/-- R379, R381, R395, R397: what a halt, a start and a signal write. A halt of a queue leaves STATE 2 and the reason, and the address
of the packet where one is at fault; a start of a ring packet adds 1 to RIDX and the stride to PASS; a signal's VALUE is set, or
the operand added to it or taken from it modulo 2^64. -/
def QueueActs : Prop :=
  ∀ (s : State) (q : Nat),
    (∀ err pkt, let y := (s.haltQueue q err pkt).queue q
      y.st = 2 ∧ y.err = err ∧ y.widx = (s.queue q).widx ∧ y.ridx = (s.queue q).ridx ∧
        (∀ a, pkt = some a → y.errpkt = BitVec.ofNat 64 a)) ∧
    (∀ sig, (s.queue q).chain = [] → let y := (s.startHead q sig none).queue q
      y.ridx = (s.queue q).ridx + 1 ∧ y.pass = (s.queue q).pass + BitVec.ofNat 64 (2 ^ 20 / (s.queue q).tickets)) ∧
    (∀ (g : Sig) (e : TlbEntry) (u : State), s.lookupDie 0 g.asid g.va .store = (u, .ok e) → u.isBad (e.key g.va) 32 = false →
      u.load (e.key g.va + 0x14) 1 = 0 →
      let old := BitVec.ofNat 64 (u.load (e.key g.va) 8)
      s.signal g = u.put (e.key g.va) (leBytes 8 (if g.op = 0 then g.val else if g.op = 1 then old + g.val else old - g.val).toNat))

/-- R380 to R382: NOP, SIGNAL and FENCE start and complete at once; a FENCE, and any packet with ORDER, is not taken up before the
earlier ones have completed (R395 finds the queue not ready). A head that cannot be read halts its queue with PF when its turn
comes, one with a bad value with BADPKT. -/
def PacketsAtOnce : Prop :=
  (∀ p ∈ [(Instr.packetNop, 0), (.packetSignal, 3), (.packetFence, 8)], ∀ (s u : State) (q a : Nat) (bs : List Byte),
    HeadReady s q u a bs → pktKind bs = p.2 → exec (p.1 q) s = .next (headPassed u q a bs).refresh) ∧
  (∀ (s : State) (q : Nat) (bs : List Byte), (s.headBytes q).2 = some bs → s.pktOk bs = true →
    pktOrder bs = true ∨ bytesNat bs 0 1 = 8 →
    (s.queue q).chain = [] → (s.queue q).outst ≠ [] → s.canStart q = false) ∧
  (∀ p ∈ [Instr.packetNop, .packetSignal, .packetFence, .packetWait, .packetTimer, .packetIndirect, .packetCopy, .packetLaunch,
      .streamOpen, .streamTouch, .streamRetime, .streamClose],
    ∀ (s u : State) (q a : Nat), (s.refresh.queue q).runs = true → s.refresh.holdFull = false →
      (s.refresh.queue q).pktAddr = some a → s.refresh.pickQueue = some q →
      (s.refresh.headBytes q = (u, none) → exec (p q) s = .next (u.haltQueue q 4 (some a)).refresh) ∧
      (∀ bs, s.refresh.headBytes q = (u, some bs) → u.pktOk bs = false →
        exec (p q) s = .next (u.haltQueue q 3 (some a)).refresh))

/-- R382: a WAIT holds its queue until its word meets its condition, and a TIMER until device time reaches T; either completes when
it starts. -/
def PacketsHeld : Prop :=
  (∀ p ∈ [(Instr.packetWait, Instr.waitReread, 4), (.packetTimer, .timerPacketDue, 6)],
    ∀ (s u : State) (q a : Nat) (bs : List Byte), HeadReady s q u a bs → pktKind bs = p.2.2 →
      let h := u.modQueue q fun x => { x with head := some bs }
      exec (p.1 q) s = .next (if p.2.2 = 4 then h.tryWait q bs else h.tryTimer q bs).refresh) ∧
  (∀ (s : State) (q : Nat) (bs : List Byte), (s.queue q).head = some bs → s.headFree q bs = true →
    (bytesNat bs 0 1 = 4 →
      let r := s.feRead (s.queue q).asid (bytesNat bs 0x18 8) 8
      (∀ u, r = (u, none) → exec (.waitReread q) s = .next (u.haltQueue q 4 (u.queue q).pktAddr).refresh) ∧
      (∀ u w, r = (u, some w) →
        let v := BitVec.ofNat 64 (leNat w)
        let x := BitVec.ofNat 64 (bytesNat bs 0x20 8)
        let holds : Bool := match bytesNat bs 0x28 8 with
          | 0 => decide (x ≤ v)
          | 1 => v == x
          | 2 => v != x
          | _ => decide (v < x)
        exec (.waitReread q) s = .next (if holds then headPassed u q ((u.queue q).pktAddr.getD 0) bs else u).refresh)) ∧
    (bytesNat bs 0 1 = 6 → exec (.timerPacketDue q) s = .next
      (if s.fe.failover = false ∧ bytesNat bs 0x18 8 ≤ s.ns then headPassed s q ((s.queue q).pktAddr.getD 0) bs else s).refresh))

/-- R382, R383: an INDIRECT starts its buffer, or halts with IB_DEPTH at depth 5 or on a repeated address; a COPY starts a job,
which writes its bytes and then completes, whatever its queue does meanwhile. That a page which fails halts its queue with PF, and
that the copy goes on once the queue runs again, are the model's choices (log 42). -/
def PacketsNested : Prop :=
  (∀ (s u : State) (q a : Nat) (bs : List Byte), HeadReady s q u a bs → pktKind bs = 5 →
    let x := u.queue q
    let va := bytesNat bs 0x18 8 % 2 ^ 48
    exec (.packetIndirect q) s = .next (
      if 4 ≤ x.chain.length ∨ (∃ i ∈ x.chain, i.ibva = va) then (u.haltQueue q 2 (some a)).refresh
      else (u.startHead q (headSig u q a bs)
        (some { ibva := va, left := bytesNat bs 0x20 8, next := va, num := x.num })).refresh)) ∧
  (∀ (s u : State) (q a : Nat) (bs : List Byte), HeadReady s q u a bs → pktKind bs = 2 →
    let f := fun o k : Nat => bytesNat bs o k
    let job : CopyJob := { queue := q, num := (u.queue q).num, src := f 0x18 8 % 2 ^ 48, dst := f 0x20 8 % 2 ^ 48
                           len := f 0x28 8, asid := BitVec.ofNat 8 (f 0x38 1), pkt := a, sig := headSig u q a bs }
    let t := u.startHead q none none
    exec (.packetCopy q) s = .next
      { t with fe := { t.fe with copies := sput t.fe.copies t.nextId job }, nextId := t.nextId + 1 }.refresh) ∧
  (∀ (s : State) (n : Nat) (j : CopyJob), sget s.fe.copies n = some j →
    j.stuck = false ∨ (s.queue j.queue).st = 1 → s.holdFull = false →
    let r := s.feRuns j.asid .load (j.len / 65536 + 2) j.src j.len
    let w := r.1.feRuns j.asid .store (j.len / 65536 + 2) j.dst j.len
    let stuck := fun t : State =>
      (State.haltQueue { t with fe := { t.fe with copies := sput t.fe.copies n { j with stuck := true } } } j.queue 4
        (some j.pkt)).refresh
    (r.2 = none → exec (.copyPacketDone n) s = .next (stuck r.1)) ∧
    (∀ src, r.2 = some src → w.2 = none →
      exec (.copyPacketDone n) s = .next (stuck w.1)) ∧
    (∀ src dst, r.2 = some src → w.2 = some dst →
      let t := w.1.moveRuns src dst
      exec (.copyPacketDone n) s = .next
        ({ t with fe := { t.fe with copies := sdel t.fe.copies n } }.completePkt j.queue j.num j.sig).refresh))

/-- R13, R399, R400: FAILOVER holds the completions; the acknowledgement releases them in the order in which they were held, and
the standby acts in the policy core's place. -/
def TakeOver : Prop :=
  ∀ (s : State), exec .failover s = .next { s with fe := { s.fe with failover := true } } ∧
    (s.fe.failover = true → exec .standbyAck s = .next (s.fe.held.foldl (fun (t : State) g => t.releaseSig g)
      { s with fe := { s.fe with failover := false, held := [], acting := 1 - s.fe.acting } }).refresh) ∧
    (∀ g, s.fe.failover = true → s.deliverSig g = { s with fe := { s.fe with held := s.fe.held ++ [g] } })

end Sys2Proof.Safety

/-- R378 to R382, R395, R397: queue registers, and what halts, starts and signals write. -/
def Obligations.QueueRegisters : Prop := QueueWrites ∧ QueueActs

/-- R380 to R383, R397, R399, R400: packets and take-over. -/
def Obligations.Packets : Prop := PacketsAtOnce ∧ PacketsHeld ∧ PacketsNested ∧ TakeOver

/-! ### Launches and streams (R54, R108, R384 to R386, R390 to R394, R20) -/

namespace Sys2Proof.Safety

/-- A LAUNCH that has been read waits at the head of its queue. -/
def waits (s : State) (q : Nat) (bs : List Byte) (w : Waiting) : State :=
  let t := s.modQueue q fun x => { x with head := some bs }
  { t with fe := { t.fe with waiting := t.fe.waiting ++ [w] } }

/-- R381, R382, R385: a LAUNCH of which a read fails halts its queue with PF, one with a bad descriptor or target with BADLAUNCH. A
page of the image that fails halts the queue of the launch that admission would take, and nothing is taken; a stream's launch is
dropped, and a CLOSE that waited for it takes effect: the model's choices (logs 43 and 44). Admission of another queue does
nothing. -/
def AdmissionFails : Prop :=
  (∀ (s u v : State) (q a e : Nat) (bs : List Byte), HeadReady s q u a bs → pktKind bs = 1 →
    u.readLaunch q a bs = (v, .error e) → exec (.packetLaunch q) s = .next (v.haltQueue q e (some a)).refresh) ∧
  (∀ (s : State) (w : Waiting), s.admissible = some w →
    let t := s.refresh
    let r := t.feRuns w.req.asid .load (w.req.simglen / 65536 + 2) w.req.simg w.req.simglen
    let halted := (r.1.dropWaiting w).haltQueue w.queue 4 (some w.req.pkt)
    (r.2 = none → w.stream = none → exec (.launchAdmission w.queue) s = .next halted.refresh) ∧
    (r.2 = none → ∀ id, w.stream = some id → exec (.launchAdmission w.queue) s = .next (halted.closeStream id).refresh) ∧
    (∀ q, q ≠ w.queue → exec (.launchAdmission q) s = .next s))

/-- The launch instructions complete. A LAUNCH packet that is read and good waits, and is admitted at once where it is the launch
that admission takes (R382, R385); LAUNCH_ADMISSION admits the launch that admission takes, once its image is translated (R385);
LAUNCH_SENIOR makes the launches of its queue senior that have waited 1 ms, which is 800,000 cycles (R385); and LAUNCH_COMPLETE
ends a launch all of whose crews are over: its slot, barriers, kiosk and parameter lines are free, the end is journalled, and its
signal is updated, or its stream's flight ends, with the completion of a CLOSE that waits for it; so the hold queue has room for
both (R20, R392, R399). -/
def LaunchesComplete : Prop :=
  (∀ (s u v : State) (q a : Nat) (bs : List Byte) (r : LaunchReq), HeadReady s q u a bs → pktKind bs = 1 →
    u.readLaunch q a bs = (v, .ok r) →
    let w : Waiting := { queue := q, since := v.clock, req := r }
    let h := waits v q bs w
    exec (.packetLaunch q) s = .next (if h.admissible = some w then h.admitLaunch w else h).refresh) ∧
  (∀ (s v : State) (w : Waiting) (src : List (Nat × Nat)), s.admissible = some w →
    s.refresh.feRuns w.req.asid .load (w.req.simglen / 65536 + 2) w.req.simg w.req.simglen = (v, some src) →
    exec (.launchAdmission w.queue) s = .next (v.takeLaunch w src).refresh) ∧
  (∀ (s : State) (q : Nat), exec (.launchSenior q) s = .next { s with fe := { s.fe with
    waiting := s.fe.waiting.map fun w =>
      if w.queue = q ∧ w.since + 800000 ≤ s.clock then { w with senior := true } else w } }) ∧
  (∀ (s : State) (slot : Nat) (l : Launch), sget s.fe.launches slot = some l →
    let t := s.sweepLaunch slot l
    t.launchOver slot l = true → t.holdShort (t.endsWith slot l) = false →
    let id : BitVec 32 := l.stamp ++ BitVec.ofNat 8 slot
    let a := { t with barriers := t.barriers.filter fun p => p.2.owner != id
                      fe := { t.fe with launches := sdel t.fe.launches slot } }
    let b := a.modDie (l.kiosk.toNat / 4096) fun d => { d with objs := sdel d.objs (l.kiosk.toNat % 4096) }
    let e := (l.cores.foldl (fun (u : State) c => u.modCore c fun k =>
      { k with pcache := k.pcache.filter fun p => p.launch != BitVec.ofNat 8 slot }) b).journal
    exec (.launchComplete slot) s = .next (match l.stream with
      | none => (e.refresh.completePkt l.queue l.num l.sig).refresh
      | some n => ((e.deliverSig l.sig).endFlight n slot).refresh))

/-- R385, R395, R399: what admission takes is free: none is taken in a take-over, none younger than a senior launch whose targets
meet its own, none for which a slot, or on any target core contexts, registers or a pinned region are wanting, and none of a stream
out of turn while its queue has a packet that could start. That the queue must be in state RUN is the model's choice (logs 42 and
43). -/
def AdmissionRules : Prop :=
  (∀ (s : State) (w : Waiting), s.admissible = some w → s.fe.failover = false ∧ w ∈ s.fe.waiting ∧
    (∃ slot, slot < 256 ∧ sget s.fe.launches slot = none) ∧ (s.queue w.queue).st = 1 ∧
    (w.stream ≠ none → s.canStart w.queue = true → s.pickQueue = some w.queue) ∧
    (∀ c ∈ w.req.targets, (s.core c).ctxUsed + w.req.gangs ≤ 16 ∧ w.req.vregs / 8 * w.req.gangs ≤ (s.core c).poolFree ∧
      (s.pinPlace c (w.req.sram / 65536)).isSome = true) ∧
    (∃ older younger, s.fe.waiting = older ++ w :: younger ∧
      ∀ o ∈ older, o.senior = true → overlaps o.req w.req = false))

/-- R108, R385, R395, R396: a launch that is admitted takes the next stamp, and is no longer waiting; and a stream's launch is a
start of its queue, which adds the stride to its PASS. -/
def AdmissionTakes : Prop :=
  ∀ (s : State) (w : Waiting) (src : List (Nat × Nat)),
    let t := s.takeLaunch w src
    t.fe.stamp = s.fe.stamp + 1 ∧ w ∉ t.fe.waiting ∧
    (∀ id, w.stream = some id → w.queue < 256 →
      (t.queue w.queue).pass = (s.queue w.queue).pass + BitVec.ofNat 64 (2 ^ 20 / (s.queue w.queue).tickets))

/-- R20: while a crew of a launch is left, or its completions cannot be held, only the crews that are over leave. -/
def LaunchGoesOn : Prop :=
  ∀ (s : State) (slot : Nat) (l : Launch), sget s.fe.launches slot = some l →
    let t := s.sweepLaunch slot l
    t.launchOver slot l = false ∨ t.holdShort (t.endsWith slot l) = true → exec (.launchComplete slot) s = .next t

/-- What a STREAM packet needs to end. -/
def closing (u : State) (q a : Nat) (bs : List Byte) : Closing :=
  { queue := q, num := (u.queue q).num, pkt := a, status := bytesNat bs 0x30 8 % 2 ^ 48, asid := (u.queue q).asid
    sig := headSig u q a bs }

/-- R391, R394: the STREAM packets. Each changes its context, writes its status word and completes; a CLOSE waits for the launch in
flight, but frees an evicted context at once. A TOUCH of a context that is not FREE sets ACT and starts the restore of an evicted
stream. The model's choices (log 44): LATE and OVERRUN go on from what they were before an OPEN; a second CLOSE answers BADSTATE; the
CLOSE of an evicted context withdraws its launch that waits for admission; and a pin of length 0 meets no other range, but answers
NOPIN where the region of its PINADDR is not withheld. -/
def StreamPackets : Prop :=
  (∀ (s u : State) (q a : Nat) (bs : List Byte), HeadReady s q u a bs →
    let id := bytesNat bs 0x1c 4
    let k := closing u q a bs
    let t := u.startHead q none none
    (pktKind bs = 7 + 16 * 1 → exec (.streamTouch q) s = .next ((t.touchStream id).1.endStream k (t.touchStream id).2).refresh) ∧
    (pktKind bs = 7 + 16 * 2 →
      (t.stream? id = none → exec (.streamRetime q) s = .next (t.endStream k 3).refresh) ∧
      (∀ x, t.stream? id = some x → exec (.streamRetime q) s = .next
        ((t.putStream id { x with next := bytesNat bs 0x28 8 }).endStream k 0).refresh)) ∧
    (pktKind bs = 7 + 16 * 3 →
      (t.stream? id = none → exec (.streamClose q) s = .next (t.endStream k 3).refresh) ∧
      (∀ x, t.stream? id = some x → x.closing.isSome = true → exec (.streamClose q) s = .next (t.endStream k 3).refresh) ∧
      (∀ x, t.stream? id = some x → x.closing = none → x.st = .evicted → exec (.streamClose q) s = .next
        (((t.withdraw id).freeStream id).endStream k 0).refresh) ∧
      (∀ x, t.stream? id = some x → x.closing = none → x.st ≠ .evicted → exec (.streamClose q) s = .next
        (if t.inFlight? id then (t.putStream id { x with closing := some k }).refresh
         else ((t.freeStream id).endStream k 0).refresh))) ∧
    (pktKind bs = 7 →
      let r := u.feRead k.asid (bytesNat bs 0x20 8) 64
      let v := r.1.startHead q none none
      (r.2 = none → exec (.streamOpen q) s = .next (r.1.haltQueue q 4 (some a)).refresh) ∧
      (∀ d, r.2 = some d → (∃ x, v.stream? id = some x) → exec (.streamOpen q) s = .next (v.endStream k 1).refresh) ∧
      (∀ d, r.2 = some d → v.stream? id = none →
        let o := v.openStream id d (bytesNat bs 0x28 8) k.asid
        exec (.streamOpen q) s = .next (o.1.endStream k o.2).refresh))) ∧
  (∀ (s : State) (id : Nat) (d : List Byte) (next : Nat) (asid : Byte),
    let o := s.openStream id d next asid
    (streamDesc d next asid = none → o = (s, 4)) ∧
    (∀ t, streamDesc d next asid = some t →
      let n := t.pinSize
      let met := s.fe.streams.any fun p => p.2.pins && rangesMeet t.pinAddr n p.2.pinAddr p.2.pinSize
      (s.fe.pinBudget < s.pinUsed + n ∨ met = true ∨ s.pinWithheld t.pinAddr n = false → o = (s, 2)) ∧
      (s.pinUsed + n ≤ s.fe.pinBudget → met = false → s.pinWithheld t.pinAddr n = true →
        let old := sgetD s.fe.streams id {}
        o = (s.putStream id { t with late := old.late, overrun := old.overrun }, 0) ∧ t.st = .active ∧ t.act = false ∧
          t.silent = 0 ∧ t.next = next))) ∧
  (∀ (s : State) (v : W),
    (16384 ≤ v.toNat → exec (.touchRegisterWrite v) s = .next s) ∧
    (v.toNat < 16384 → exec (.touchRegisterWrite v) s = .next ((s.kick (256 + v.toNat)).touchStream v.toNat).1)) ∧
  (∀ (s : State) (id : Nat),
    (s.stream? id = none → s.touchStream id = (s, 3)) ∧
    (∀ t, s.stream? id = some t → s.touchStream id = (s.putStream id
      { t with act := true, touched := t.evict, st := if t.st = .evicted then .restoring else t.st }, 0)))

/-- R392 to R394: due times, evictions and restores of a stream. That an eviction in progress changes nothing at a due time is the
model's choice (log 44). -/
def StreamTimes : Prop :=
  ∀ (s : State) (id : Nat) (t : Stream), s.stream? id = some t →
    (s.ns < t.next → exec (.streamDue id) s = .next s) ∧
    (t.next ≤ s.ns → s.fe.failover = true → exec (.streamDue id) s = .next (s.putStream id { t with held := true })) ∧
    (t.next ≤ s.ns → s.fe.failover = false →
      let d := nextDue t.next t.period s.ns
      let u := { t with next := d.1, late := t.late + BitVec.ofNat 32 d.2, held := false }
      (t.st = .restoring → exec (.streamDue id) s = .next (s.putStream id { u with pend := true }).refresh) ∧
      (t.st = .evicted → exec (.streamDue id) s = .next (s.putStream id u).refresh) ∧
      (t.st ≠ .restoring → t.st ≠ .evicted →
        (t.act = false → let n := min (t.silent + 1) 15
          exec (.streamDue id) s = .next (s.putStream id { u with
            silent := n, st := .silent, evict := t.evict || n == t.silentMax }).refresh) ∧
        (t.act = true →
          let l := { u with late := u.late + (if t.held = true ∧ t.next + 1000 < s.ns then 1 else 0)
                            act := false, silent := 0, st := .active }
          exec (.streamDue id) s = .next (if s.inFlight? id then (s.putStream id { l with
              overrun := t.overrun + 1, pend := true }).refresh
            else ((s.putStream id l).streamLaunch id).refresh)))) ∧
    (t.evict = true → exec (.streamEvictDone id) s = .next
      ((s.moveRuns [(sramKey t.pinAddr, t.pinLen * 1024)] [(s.evictKey id, t.pinLen * 1024)]).putStream id
        { t with evict := false, touched := false, st := if t.act || t.touched then .restoring else .evicted })) ∧
    (t.st = .restoring → t.copying = false → exec (.streamRestoreStart id) s = .next
      (if s.restoreFits id t then s.putStream id { t with copying := true } else s)) ∧
    (t.copying = true →
      let v := s.moveRuns [(s.evictKey id, t.pinLen * 1024)] [(sramKey t.pinAddr, t.pinLen * 1024)]
      let w := { t with copying := false, st := .active, pend := false }
      exec (.streamRestoreDone id) s = .next (if t.pend then v.dueLaunch id w else v.putStream id w).refresh) ∧
    (t.evict = false → exec (.streamEvictDone id) s = .next s) ∧ (t.copying = false → exec (.streamRestoreDone id) s = .next s)

/-- R392: the due time after one that has come lies a whole number of periods later, is the first one beyond now, and every period
passed over beyond the first is counted. -/
def DueTimes : Prop :=
  ∀ next period now : Nat, 0 < period → next ≤ now →
    let d := nextDue next period now
    now < d.1 ∧ d.1 ≤ now + period ∧ d.1 = next + (d.2 + 1) * period

end Sys2Proof.Safety

/-- R20, R108, R381, R382, R384 to R386: the instructions PACKET_LAUNCH, LAUNCH_ADMISSION, LAUNCH_SENIOR and LAUNCH_COMPLETE complete
(`LaunchesComplete`), and what else admission and the end of a launch do. -/
def Obligations.Launches : Prop := LaunchesComplete ∧ AdmissionFails ∧ AdmissionRules ∧ AdmissionTakes ∧ LaunchGoesOn

/-- R390 to R394: streams. -/
def Obligations.Streams : Prop := StreamPackets ∧ StreamTimes ∧ DueTimes

/-! ### Crew commands and pre-emption (R79, R80, R404 to R407) -/

namespace Sys2Proof.Safety

/-- What a crew command does: a full queue discards it and sets CQERR. -/
def crewDone (die : Nat) (s t : State) : Host.Outcome State Fault Refusal :=
  .next (if (s.die die).cqUsed < 32 then t else s.modDie die fun d => { d with cqErr := true })

/-- R404, R405: RESUME and HANDLER act on the fault-halted gangs that GANGS names, and end with status 0, or do nothing and end with 1
(BADCMD) or 2 (NOTHALTED); KILL ends the gangs that it names. That RESUME and HANDLER of no crew are NOTHALTED is the model's choice
(log 46). -/
def LettingGo : Prop :=
  ∀ (s : State) (die : Nat) (t : CCmd),
    let c := coreOf t.core.toNat
    let halted := fun q g : Nat => ∃ r, (s.gang? c (q * 16 + g)).bind (·.halt) = some r
    (s.ccmdBad t = true → exec (.resume die t) s = crewDone die s (s.endCrewCmd t 1) ∧
      exec (.handler die t) s = crewDone die s (s.endCrewCmd t 1) ∧
      exec (.kill die t) s = crewDone die s (s.endCrewCmd t 1)) ∧
    (s.ccmdBad t = false → 2 ^ 48 ≤ t.addr.toNat ∨ bit t.addr 0 = true →
      exec (.handler die t) s = crewDone die s (s.endCrewCmd t 1)) ∧
    (∀ p ∈ [(Instr.resume die t, Gang.resume), (.handler die t, fun g => g.handler (t.addr.setWidth 48))],
      s.ccmdBad t = false → (p.1 = .handler die t → t.addr.toNat < 2 ^ 48 ∧ bit t.addr 0 = false) →
      (2 ≤ (cmdSlots t).length → exec p.1 s = crewDone die s (s.endCrewCmd t 1)) ∧
      (cmdSlots t = [] → exec p.1 s = crewDone die s (s.endCrewCmd t 2)) ∧
      (∀ q, cmdSlots t = [q] →
        ((t.gangs = 0xffff ∧ ∀ g < 16, ¬ halted q g) ∨
          (t.gangs ≠ 0xffff ∧ ∃ g < 16, bit t.gangs g = true ∧ ¬ halted q g) →
            exec p.1 s = crewDone die s (s.endCrewCmd t 2)) ∧
        (t.gangs ≠ 0xffff → (∀ g < 16, bit t.gangs g = true → halted q g) → exec p.1 s = crewDone die s
          (((List.range 16).filter fun g => bit t.gangs g).foldl (fun (u : State) g =>
            u.modGang c (q * 16 + g) p.2) s |>.endCrewCmd t 0)) ∧
        (t.gangs = 0xffff → (∃ g < 16, halted q g) → exec p.1 s = crewDone die s
          (((List.range 16).filter fun g => s.faulted c (q * 16 + g)).foldl (fun (u : State) g =>
            u.modGang c (q * 16 + g) p.2) s |>.endCrewCmd t 0)))) ∧
    (s.ccmdBad t = false → exec (.kill die t) s = crewDone die s ((cmdSlots t).foldl (fun (u : State) q =>
      ((List.range 16).filter fun g => bit t.gangs g).foldl (fun (u : State) g => u.killGang c q g) u) s |>.endCrewCmd t 0))

/-- R79, R405: a gang that resumes goes on at the instruction that faulted, or after it where that is a `trap` or a `brk`; one that a
handler takes has word 0 of its record in s31, full, and starts a run of the faulting group at the handler. -/
def Returns : Prop :=
  ∀ (g : Gang) (r : Rec), g.halt = some r →
    g.resume.halt = none ∧
    (∀ i : Fin 8, g.resume.pcs[i] = if bit g.active i.val ∧ (r.code = 0x10 ∨ r.code = 0x11) then g.pc + 4 else g.pcs[i]) ∧
    (∀ pc, (g.handler pc).halt = none ∧ ((g.handler pc).sreg 31).val = recWord0 r ∧ ((g.handler pc).sreg 31).fe = .full ∧
      (∀ d, d < 31 → (g.handler pc).sreg d = g.sreg d) ∧
      (g.handler pc).window = [] ∧ (g.handler pc).runCnt = 0 ∧ (g.handler pc).run = g.active ∧
      (∀ i : Fin 8, (g.handler pc).pcs[i] = if bit g.active i.val then pc else g.pcs[i]))

/-- R406, R407: SAVE begins the save of the crews it names, or ends with 1 (BADCMD) or 4 (STATE); SAVE_COMPLETE writes the areas and
the completion. RESTORE ends with 1, 3 (NOSPACE), 4 or 5 (BADSAVE) with nothing restored, or puts the gangs back, gives them the
verdicts that came meanwhile (R352), acts on their marks and ends with 0; it reads the areas through the memory-side caches (R215).
The model's choices: an ADDR that is misaligned or unusable, and a SAVE of a crew that has ended, are BADCMD, a command of no crew ends
with 0, and a SAVE keeps its place in the queue until SAVE_COMPLETE (log 46); where the second and later areas lie is a free value
(log 20). -/
def SaveRestore : Prop :=
  (∀ (s : State) (die : Nat) (t : CCmd),
    let c := coreOf t.core.toNat
    let n := (cmdSlots t).length
    let bad := s.ccmdBad t || !saveBaseOk t.addr
    (bad = true → exec (.save die t) s = crewDone die s (s.endCrewCmd t 1) ∧
      exec (.restore die t) s = crewDone die s (s.endCrewCmd t 1)) ∧
    (bad = false → (∃ q ∈ cmdSlots t, (s.crew c q).allEnded = true) → exec (.save die t) s = crewDone die s (s.endCrewCmd t 1)) ∧
    (bad = false → cmdSlots t = [] → exec (.save die t) s = crewDone die s (s.endCrewCmd t 0)) ∧
    (bad = false → (∀ q ∈ cmdSlots t, (s.crew c q).allEnded = false) →
      ((∃ q ∈ cmdSlots t, (s.crew c q).saved ≠ none ∨ (s.crew c q).saving ≠ none) →
        exec (.save die t) s = crewDone die s (s.endCrewCmd t 4)) ∧
      ((∀ q ∈ cmdSlots t, (s.crew c q).saved = none ∧ (s.crew c q).saving = none) → cmdSlots t ≠ [] →
        exec (.save die t) s = crewDone die s ((((cmdSlots t).zip (List.range n)).foldl (fun (u : State) p =>
          u.modCrew c p.1 fun w => { w with saving := some {
            base := saveArea t.addr.toNat p.2, die := die
            done := if p.2 + 1 = n then some (t.done.toNat, t.tag) else none } }) s).modDie die fun d =>
              { d with cqUsed := d.cqUsed + 1 }))) ∧
    (bad = false →
      let areas := (cmdSlots t).zip ((List.range 4).map (saveArea t.addr.toNat))
      let v := s.seeAreas c areas
      let rs : List Reload := areas.map fun p =>
        { slot := p.1, gangs := v.areaGangs c p.1 p.2
          shares := v.areaShares p.2 (v.areaGangs c p.1 p.2) (v.crew c p.1).sns }
      ((∃ q ∈ cmdSlots t, (s.crew c q).saved = none) →
        exec (.restore die t) s = crewDone die s (s.endCrewCmd t 4)) ∧
      ((∀ q ∈ cmdSlots t, (s.crew c q).saved ≠ none) →
        ((∃ p ∈ areas, v.areaOk c p.1 p.2 = false) → exec (.restore die t) s = crewDone die s (v.endCrewCmd t 5)) ∧
        ((∀ p ∈ areas, v.areaOk c p.1 p.2 = true) →
          exec (.restore die t) s = crewDone die s (if v.reloadFits c rs then
              ((rs.flatMap fun r => r.gangs.map (·.1)).foldl (fun (u : State) x => (u.takeVerdicts c x).actMark c x)
                (rs.foldl (fun (u : State) r => u.reload c r) v)).endCrewCmd t 0
            else v.endCrewCmd t 3))))) ∧
  (∀ (s : State) (c : Nat), exec (.saveComplete c) s = .next ((s.core c).crews.foldl (fun (u : State) p =>
    match p.2.saving with
    | none => u
    | some v =>
      let u := if p.2.allEnded then (u.modCrew c p.1 fun w => { w with saving := none }).crewSweep c p.1
        else u.saveCrew c p.1 v.base
      match v.done with
      | none => u
      | some (a, tag) => (u.doneWord a tag 0).modDie v.die fun d => { d with cqUsed := d.cqUsed - 1 }) s))

/-- R39: an illegal encoding is E_ILL with the word, or the halfword, and nothing else. -/
def IllegalWords : Prop :=
  ∀ (s : State) (c x : Nat) (w : BitVec 32) (wide : Bool), s.cur = some (c, x) →
    exec (.illegalEncoding w wide) s = .next (s.takeFault c x 1 0 (if wide then w else w &&& 0xffff) 0 0)

end Sys2Proof.Safety

/-- R79, R80, R404 to R407: crew commands. -/
def Obligations.CrewCommands : Prop := LettingGo ∧ Returns ∧ SaveRestore

/-! ### Start-up, features, attestation (R412 to R416) -/

namespace Sys2Proof.Safety

/-- R413, R415: POWER_GOOD puts everything at its reset value (which those are where the spec gives none is log 3) but what is fused, the
certificate, and the inputs that have not acted: that these stay is the model's reading (log 4). The boot ROM takes the image of root port 0, or of port 1 where port 0 holds none; an image that is not accepted
leaves BOOTSTAT 3. The reduced service offers REDUCED and ATTEST; full function offers bits 1 to 10, without FULL where a die has
failed; a failed die 0 leaves BOOTSTAT 5. A change of what is offered sends vector 0 (R412), and firmware installs the block services
of the dies in service (R289; what their entries hold beyond R289 is log 12). A BOOTLOAD repeats the check while BOOTSTAT is 3, and does
nothing else: the model's reading (log 45). -/
def StartUp : Prop :=
  ∀ (s : State),
    exec .powerGood s = .next { State.reset with
      sys := { keyDigest := s.sys.keyDigest, minSvn := s.sys.minSvn, attCert := s.sys.attCert }
      tick := s.tick, inputs := s.inputs } ∧
    (∀ p0 p1, s.sys.bootstat = 0 → exec (.bootRomImageCheck p0 p1) s = .next
      (match (p0 <|> p1).bind s.sys.checkImage with
        | some i => { s with sys := { s.sys with image := some i } }
        | none => { s with sys := { s.sys with bootstat := 3 } })) ∧
    (s.sys.bootstat = 0 ∨ s.sys.bootstat = 3 → exec .reducedServiceReached s = .next
      (State.sendVector { s with sys := { s.sys with featOff := 0x401, bootstat := if s.sys.bootstat = 3 then 3 else 1 } } 0)) ∧
    (s.sys.bootstat = 1 → s.sys.image ≠ none → ∀ good : BitVec 24,
      (bit good 0 = false → exec (.fullFunctionReached good) s = .next { s with sys := { s.sys with bootstat := 5 } }) ∧
      (bit good 0 = true →
        let t := (List.range 24).foldl (fun (u : State) d =>
          let v := u.modDie d fun x => { x with ok := bit good d }
          if bit good d then v.installServices d else v) s
        exec (.fullFunctionReached good) s = .next (State.sendVector { t with sys := { t.sys with
          featOff := if good = 0xffffff then 0x7fe else 0x7fc, bootstat := if good = 0xffffff then 2 else 4 } } 0))) ∧
    (s.sys.bootstat = 3 → ∀ len,
      let r := s.feRead s.sys.apasid (s.sys.apbase.toNat % 2 ^ 48) len.toNat
      (r.2 = none → exec (.bootload len) s = .next
        { r.1 with sys := { r.1.sys with aperr := r.1.sys.aperr + 1 } }) ∧
      (∀ bs, r.2 = some bs → exec (.bootload len) s = .next (match r.1.sys.checkImage bs with
        | none => r.1
        | some i => { r.1 with sys := { r.1.sys with image := some i, bootstat := 1 } })))

/-- R415: an image is accepted only where its header is well formed, the digest of its key is the fused one, its signature verifies,
and its SVN is at least the fused one. -/
def ImagesChecked : Prop :=
  ∀ (y : Sys) (bs : List Byte),
    let len := bytesNat bs 4 4
    let key := (bs.take len).drop (len - 64)
    let svn := BitVec.ofNat 64 (bytesNat bs 8 8)
    y.checkImage bs = if bytesNat bs 0 4 = 0x5a465731 ∧ 0x80 ≤ len ∧ len ≤ 2 ^ 31 ∧ bytesNat bs 0x10 4 = len - 64 ∧
        bytesNat bs 0x14 44 = 0 ∧ len + 29792 ≤ bs.length ∧ Config.shake256 key = y.keyDigest ∧
        Config.slhVerify key (bs.take len) ((bs.drop len).take 29792) = true ∧ y.minSvn ≤ svn
      then some (Config.shake256 (bs.take (len + 29792)), svn) else none

/-- R412: a commit is refused, and FEATSTAT reads 2, where a queue is not DISABLED, a bit is accepted that is not offered, or REDUCED
is offered and left out; else FEATSTAT reads 1 and the accepted bits are in force, and a discipline source of device time that they do
not choose, PTM (bit 7) before 1588 (bit 8), is followed no longer (R15). -/
def Features : Prop :=
  ∀ (s : State) (v : W),
    (v ≠ 1 → exec (.featcommit v) s = .next s ∧ exec (.attgo v) s = .next s) ∧
    (let refused := (∃ q ∈ s.fe.queues, q.2.st ≠ 0) ∨ s.sys.featAcc &&& ~~~s.sys.featOff ≠ 0 ∨
        (bit s.sys.featOff 0 = true ∧ bit s.sys.featAcc 0 = false)
     (refused → exec (.featcommit 1) s = .next { s with sys := { s.sys with featStat := 2 } }) ∧
     (¬ refused →
       let t : State := { s with sys := { s.sys with featStat := 1, committed := s.sys.featAcc } }
       let src := if bit s.sys.featAcc 7 then some TimeSrc.ptm else if bit s.sys.featAcc 8 then some .ptp else none
       exec (.featcommit 1) s = .next (if s.time.source = src then t
         else { t with time := { t.time with source := none, target := none } })))

/-- R416: with ATTEST accepted ATTGO begins a report on the nonce, unless one is being made; the report holds the digest and SVN of the
image, FEATOFF, the accepted bits, DIEMAP, the nonce, and a signature over them. ATTREP shows these in that order, the words of a
part least significant first (log 70), and ATTCERT the certificate. -/
def Attestation : Prop :=
  ∀ (s : State),
    (bit s.sys.committed 10 = false ∨ s.sys.attBusy ≠ none → exec (.attgo 1) s = .next s) ∧
    (bit s.sys.committed 10 = true → s.sys.attBusy = none → exec (.attgo 1) s = .next
      { s with sys := { s.sys with attBusy := some s.sys.attNonce, attStat := 0 } }) ∧
    (∀ n, s.sys.attBusy = some n → ∃ r : Report, exec .attestationReportReady s = .next
        { s with sys := { s.sys with attBusy := none, attStat := 1, attRep := some r } } ∧
      (∀ d v, s.sys.image = some (d, v) → r.digest = d ∧ r.svn = v) ∧
      r.off = s.sys.featOff ∧ r.acc = s.sys.committed ∧ r.nonce = n ∧
      (∀ d < 24, bit r.diemap d = (s.die d).ok) ∧
      r.sig = Config.slhSign (leBytes 64 r.digest.toNat ++ leBytes 8 r.svn.toNat ++ leBytes 16 r.off.toNat
        ++ leBytes 16 r.acc.toNat ++ leBytes 4 r.diemap.toNat ++ leBytes 32 r.nonce.toNat)) ∧
    (∀ r i, s.sys.attRep = some r → s.readBar (.attRep i) = BitVec.ofNat 32 (bytesNat (leBytes 64 r.digest.toNat ++
      leBytes 8 r.svn.toNat ++ leBytes 16 r.off.toNat ++ leBytes 16 r.acc.toNat ++ leBytes 4 r.diemap.toNat ++
      leBytes 32 r.nonce.toNat ++ r.sig) (4 * i) 4)) ∧
    (s.sys.attRep = none → ∀ i, s.readBar (.attRep i) = 0) ∧
    (∀ i, s.readBar (.attCert i) = BitVec.ofNat 32 (bytesNat s.sys.attCert (4 * i) 4))

/-! ### Device time and the host's window (R15, R410) -/

/-- R15: the first lock of the chosen source steps device time, a later one leaves it and slews it; its loss leaves it. That each
source has a first lock of its own is the model's reading (log 54). -/
def TimeSources : Prop :=
  ∀ (s : State) (src : TimeSrc) (ns : Nat),
    (s.chosenSource ≠ some src → exec (.timeSourceLock src ns) s = .next s) ∧
    (s.chosenSource = some src → src ∉ s.time.lockedOnce → exec (.timeSourceLock src ns) s = .next
      { s with time := { now := 4 * ns, lockedOnce := s.time.lockedOnce ++ [src], source := some src, target := some 0 } }) ∧
    (s.chosenSource = some src → src ∈ s.time.lockedOnce → exec (.timeSourceLock src ns) s = .next
      { s with time := { s.time with source := some src, target := some ((4 * ns : Int) - s.time.now) } }) ∧
    exec (.timeSourceLoss src) s = .next (if s.time.source = some src then
      { s with time := { s.time with source := none, target := none } } else s)

/-- R410: an access through BAR2 is to APBASE and its offset in APASID; a read that fails gives all ones, a write that fails is
dropped, and both are counted in APERR. -/
def HostWindow : Prop :=
  ∀ (s : State) (off : Nat),
    let a := (s.sys.apbase.toNat + off) % 2 ^ 48
    (∀ n, off + n ≤ 2 ^ 38 →
      let r := s.feRead s.sys.apasid a n
      (r.2 = none → exec (.hostApertureAccess off n none) s = .next
        { r.1 with sys := { r.1.sys with aperr := r.1.sys.aperr + 1 }, apRead := List.replicate n 0xff }) ∧
      (∀ bs, r.2 = some bs → exec (.hostApertureAccess off n none) s = .next { r.1 with apRead := bs })) ∧
    (∀ n (bs : List Byte), off + bs.length ≤ 2 ^ 38 →
      let r := s.feRuns s.sys.apasid .store (bs.length / 65536 + 2) a bs.length
      (r.2 = none → exec (.hostApertureAccess off n (some bs)) s = .next
        { r.1 with sys := { r.1.sys with aperr := r.1.sys.aperr + 1 } }) ∧
      (∀ runs, r.2 = some runs → exec (.hostApertureAccess off n (some bs)) s = .next (runs.foldl
        (fun (p : State × List Byte) q => (p.1.put q.1 (p.2.take q.2), p.2.drop q.2)) (r.1, bs)).1))

/-! ### Control-block registers, background work, and the control cores (R185, R378, R398, R401, R411, R417) -/

/-- R411: a register write that is not 4 bytes wide, or to a reserved register, changes nothing; R378: RING, LOG2SIZE, PRIO and ASID are
written only while STATE is 0, RIDX while it is 0 or 2 (that a write of RIDX drops the chain of INDIRECT buffers is the model's
reading, log 42); R185: the region table; R401: a fault ring's base, a multiple of 2 KiB, and its
read index, post what waits for a place. -/
def RegisterWrites : Prop :=
  ∀ (s : State) (v : W),
    (∀ n r, n ≠ 4 → exec (.registerWrite n r v) s = .next s) ∧ exec (.registerWrite 4 .reserved v) s = .next s ∧
    (∀ q f, q < 256 → exec (.registerWrite 4 (.queue q f) v) s = .next
      (s.refresh.modQueue q fun x => x.writeField f v).refresh) ∧
    (∀ x : Queue, (x.st ≠ 0 → (∀ f, f ≠ .ridx → x.writeField f v = x)) ∧ (x.st = 1 → x.writeField .ridx v = x) ∧
      (x.st ≠ 1 → x.writeField .ridx v = { x with ridx := v, chain := [], outst := x.outst.filter fun o =>
        !(o.inner && x.chain.any fun i => i.num == o.num) }) ∧
      (x.st = 0 → v.toNat = 0 ∨ 16 < v.toNat → x.writeField .log2size v = x) ∧
      (x.st = 0 → 1 ≤ v.toNat → v.toNat ≤ 16 → x.writeField .log2size v = { x with log2size := v.toNat })) ∧
    (∀ hi, exec (.registerWrite 4 (.apbase hi) v) s = .next { s with sys := { s.sys with apbase := putHalf64 s.sys.apbase hi v } }) ∧
    (∀ i < 4, exec (.registerWrite 4 (.featAcc i) v) s = .next { s with sys := { s.sys with featAcc := putWord s.sys.featAcc i v } }) ∧
    (∀ c i, c < 1536 → i < 32 → exec (.regionTableWrite c i v) s = .next (s.modCore c fun k =>
      { k with regions := vput k.regions i (v.extractLsb' 0 2, bit v 2, v.extractLsb' 8 8) })) ∧
    (∀ r base, ringExists r = true → base % 2048 = 0 → hbmUsable base = true → exec (.faultRingBaseWrite r base) s = .next
      ((s.setRing r { s.ring r with base := some base }).drainRing r (s.ring r).waiting.length)) ∧
    (∀ r, ringExists r = true → exec (.fqrWrite r v) s = .next
      ((s.setRing r { s.ring r with fqr := v }).drainRing r (s.ring r).waiting.length))

/-- R378, R410, R411: a read of BAR0 answers with the register at its address, and 0 for a reserved one; a write of a register is
taken, of the descriptor of a queue field by field (STATE last: log 63), and one of what can only be read is ignored; an access that is
not 4 bytes wide or not aligned to its width completes as an unsupported request. An interrupt vector takes its address and data from the table in BAR4; one that is masked becomes pending, and is sent
once it is not (log 62). -/
def BarsAndVectors : Prop :=
  ∀ (s : State) (a n : Nat) (r : RReg),
    (n ≠ 4 ∨ a % n ≠ 0 → ∀ w, barAccess a n r w s = { s with sys := { s.sys with barRead := none } }) ∧
    (a % 4 = 0 →
      (∀ r', barReg a = some r' ∨ (barReg a = none ∧ r = r') →
        barAccess a 4 r none s = { s with sys := { s.sys with barRead := some (s.readBar r') } } ∧
        (∀ v q, r' = .reg q → exec (.registerWrite 4 q v) s = .next (barAccess a 4 r (some v) s)) ∧
        (∀ v q, r' = .queueDesc q 4 → exec (.widxWrite q v) s = .next (barAccess a 4 r (some v) s)) ∧
        (∀ v q, r' = .queueDesc q 2 →
          let t := ([(QField.log2size, 0), (.prio, 8), (.asid, 16)] : List (QField × Nat)).foldl (fun (t : State) p =>
            t.writeReg (.queue q p.1) (BitVec.ofNat 32 (v.toNat / 2 ^ p.2 % 256))) s
          exec (.queueStateWrite q (BitVec.ofNat 32 (v.toNat / 2 ^ 24))) t = .next (barAccess a 4 r (some v) s)) ∧
        (∀ v f, r' = .fqr f → exec (.fqrWrite f v) s = .next (barAccess a 4 r (some v) s)) ∧
        (∀ v d, r' = .rbtok d → exec (.rbtokWrite d v) s = .next (barAccess a 4 r (some v) s)) ∧
        (∀ v, r' ∈ [RReg.bootstat, .featStat, .aperr, .attStat, .dieMap] → barAccess a 4 r (some v) s = s))) ∧
    s.readBar (.reg .reserved) = 0 ∧
    (∀ d, s.readBar (.tqFree d) = BitVec.ofNat 32 (32 - ((s.die d).tsyncs.length + (s.die d).tqWaits.length)) ∧
      s.readBar (.cqFree d) = BitVec.ofNat 32 (32 - (s.die d).cqUsed)) ∧
    (∀ v, let e := s.vector v
      (e.masked = true → s.sendVector v = { s with sys := { s.sys with msixPend := insNat v s.sys.msixPend } }) ∧
      (e.masked = false → s.sendVector v = s.sendMsi { addr := e.addr, data := e.data, mode := 3 })) ∧
    (∀ v (x : Vec), v < 2048 → x.masked = true ∨ s.sys.msixPend.contains v = false →
      msixWrite v x s = { s with sys := { s.sys with msix := sput s.sys.msix v x } })

/-- R417: background work changes no value that a program reads: a scrub counts an error of its die, a recalibration nothing. Telemetry of
a die in service writes a record of 32 bytes at the next place of its ring, from the readings, RBTOK and the error counts, where firmware has
given the ring a place; the layout and the ring's size are free values (log 21). -/
def Background : Prop :=
  ∀ (s : State),
    (∀ k single d, keyDie k = some d → exec (.patrolScrub k single) s = .next (if s.isBad k 1 then
        s.modDie d fun x => { x with uncorr := x.uncorr + 1 }
      else if single then s.modDie d fun x => { x with corr := x.corr + 1 } else s)) ∧
    (∀ d temp current power, d < 24 → s.dieUp d = true →
      let x := s.die d
      let a := x.telBase + 32 * (x.telIdx % (Config.telemetrySize + 1))
      let fields := [temp.toNat, current.toNat, power.toNat, x.rbtok.toNat, x.corr.toNat, x.uncorr.toNat]
      let t := s.modDie d fun x => { x with telIdx := x.telIdx + 1 }
      (x.telBase ≠ 0 → hbmUsable (a + 31) = true → exec (.telemetryRecord d temp current power) s =
        .next (t.put (hbmKey a) ((List.range 32).map (Config.telemetryByte fields)))) ∧
      (x.telBase = 0 ∨ hbmUsable (a + 31) = false → exec (.telemetryRecord d temp current power) s = .next t)) ∧
    (∀ l, exec (.linkRecalibration l) s = .next s)

/-- R398: `zwait` reads the word at rs1, through the memory-side cache (R215); where it differs from rs2, or an interrupt is pending, rd takes it and the hart goes on, else
the hart parks; a parked hart reads again. A misaligned rs1 raises exception 4, and the hart then runs no `zwait`. That rs1 is a physical
address of HBM, and that the trap stops the hart, are the model's readings (log 7). -/
def HartsWait : Prop :=
  ∀ (s : State) (f : Zw),
    let reads := fun (h : Nat) (x : Hart) (f : Zw) =>
      let a := (x.reg f.rs1.toNat).toNat
      let u := s.touch (hbmKey a) true false
      let w := s.hartWord h a
      if w ≠ x.reg f.rs2.toNat ∨ x.irq = true then
        u.setHart h { x.setReg f.rd.toNat w with pc := x.pc + 4, parked := none }
      else u.setHart h { x with parked := some (a, f) }
    (let h := s.curHart
     let x := s.hart h
     let a := x.reg f.rs1.toNat
     (x.trap ≠ none → exec (.zwait f) s = .next s) ∧
     (x.parked = none → x.trap = none →
       (a.toNat % 8 ≠ 0 → exec (.zwait f) s = .next (s.setHart h { x with trap := some (4, a) })) ∧
       (a.toNat % 8 = 0 → hbmUsable a.toNat = true → exec (.zwait f) s = .next (reads h x f)))) ∧
    (∀ h p, (s.hart h).parked = some (p, f) → exec (.zwaitResume h) s = .next (reads h (s.hart h) f))

end Sys2Proof.Safety

/-- R412, R413, R415, R416: start-up, features and attestation. -/
def Obligations.StartsUp : Prop := StartUp ∧ ImagesChecked ∧ Features ∧ Attestation

/-- R15, R410: device time and the host's window. -/
def Obligations.TimeAndHost : Prop := TimeSources ∧ HostWindow

/-- R185, R378, R398, R401, R411, R417: control blocks, background work, and the harts. -/
def Obligations.ControlBlocks : Prop := RegisterWrites ∧ BarsAndVectors ∧ Background ∧ HartsWait

/-! ### The machine as a whole: reset, storage, decoding, the order of checks, faults, frames, and steps -/

namespace Sys2Proof.Safety

/-- R15, R185, R284, R313, R378: what the spec gives for reset: device time is 0, LOG2SIZE of every queue 1, every region RC and OPEN, RBTOK 1
and PLZLIM 65,536. Beside it what the model chooses (log 2, log 3): BOOTSTAT is 0, no feature is offered or in force, every queue is
DISABLED with ERR 0, no crew, gang, launch, stream or barrier is there, and memory lists nothing. -/
def AtReset : Prop :=
  let s := State.reset
  s.time.now = 0 ∧ s.sys.bootstat = 0 ∧ s.sys.featOff = 0 ∧ s.sys.committed = 0 ∧ s.mem = [] ∧ s.bad = [] ∧
  (∀ q, (s.queue q).st = 0 ∧ (s.queue q).log2size = 1 ∧ (s.queue q).err = 0) ∧
  (∀ c i, i < 32 → (vget (s.core c).regions i (0, false, 0)).1 = 1 ∧ (vget (s.core c).regions i (0, false, 0)).2.1 = true) ∧
  (∀ d, (s.die d).plzlim = 65536 ∧ (s.die d).rbtok = 1) ∧
  (∀ c x, s.gang? c x = none ∧ s.crew? c x = none) ∧ s.fe.launches = [] ∧ s.fe.streams = [] ∧ s.barriers = []

/-- R61, R96, R54: a gang at the start of its kernel: every slice live at the entry in one group, KUSE all ones, every register full,
values and tags 0, MXC 1.0, PTILE 5, RMODE and GSTAT 0, no role, empty stacks and window, and the records of its descriptor. -/
def AtStart : Prop :=
  ∀ r : LaunchReq, let g := startGang r
    (∀ i : Fin 8, g.pcs[i] = r.entry ∧ g.retStacks[i] = []) ∧ g.live = 0xff ∧ g.kuse = 0xffffffff ∧
    g.groups.map (·.slices) = [0xff] ∧ g.valloc = r.vregs ∧ g.gstat = 0 ∧ g.rmode = 0 ∧ g.ptile = 5 ∧ g.mxc = 0x3f800000 ∧
    g.role = 0 ∧ g.window = [] ∧ g.runCnt = 0 ∧ g.binds = [] ∧
    (∀ i < 32, (g.sreg i).val = 0 ∧ (g.sreg i).fe = .full) ∧ (∀ i < 16, (g.areg i).base = 0 ∧ (g.areg i).stride = 0 ∧
      (g.areg i).fe = .full) ∧ (∀ i, 0 < i → g.kreg i = 0) ∧
    (∀ i < 64, (vget g.v i {}).tag = 0 ∧ (vget g.v i {}).fe = .full ∧ ∀ l < 32, (vget g.v i {}).val.lane l = 0) ∧
    (∀ i < 16, (∀ v, (∀ p ∈ r.recs, p.1 = i → p.2 = v) → (∃ p ∈ r.recs, p.1 = i) → vget g.recs i 0 = v) ∧
      ((∀ p ∈ r.recs, p.1 ≠ i) → vget g.recs i 0 = 0))

/-- Memory reads what was written last; a list in canonical form is fixed by what it reads as; a write keeps the form (log 2 says what
an unlisted byte reads as). -/
def MemoryHolds : Prop :=
  (∀ (m : List Host.Cell) (k k' : Nat) (b : Byte), Memory.wf m = true →
    memRead (memWrite m k b) k' = (if k' = k then b else memRead m k') ∧ Memory.wf (memWrite m k b) = true) ∧
  (∀ m n : List Host.Cell, Memory.wf m = true → Memory.wf n = true → (∀ k, memRead m k = memRead n k) → m = n) ∧
  (∀ (s : State) (k n x : Nat), Memory.wf s.mem = true → (s.store k n x).load k n = x % 256 ^ n)

/-- R96, R110: the register files. A write is read back; s0 and k0 discard it and read 0 and all ones; a bound register is one for
every gang of the crew that binds its place. -/
def RegistersHold : Prop :=
  (∀ (g : Gang) (i j : Nat) (r : SReg), i < 32 → (g.setSreg i r).sreg j = if j = i ∧ i ≠ 0 then r else g.sreg j) ∧
  (∀ g : Gang, (g.sreg 0).val = 0 ∧ (g.sreg 0).fe = .full ∧ g.kreg 0 = 0xffffffff) ∧
  (∀ (g : Gang) (i j : Nat) (m : W), i < 8 → (g.setKreg i m).kreg j = if j = i ∧ i ≠ 0 then m else g.kreg j) ∧
  (∀ (g : Gang) (i j : Nat) (r : AReg), i < 16 → (g.setAreg i r).areg j = if j = i then r else g.areg j) ∧
  (∀ (s : State) (c x n m : Nat) (r : VReg), (s.gang? c x).isSome = true → (s.gang c x).bind? n = none → n < 64 →
    (s.setVreg c x n r).vreg c x m = if m = n then r else s.vreg c x m) ∧
  (∀ (s : State) (c x y n m : Nat) (r : VReg) (a b : Bind) (h : Share), x / 16 = y / 16 → (s.gang c x).bind? n = some a →
    (s.gang c y).bind? m = some b → a.id = b.id → (s.crew? c (x / 16)).isSome = true →
    sget (s.crew c (x / 16)).shares a.id = some h → n - a.first < h.regs.length →
    (s.setVreg c x n r).vreg c y m = if m - b.first = n - a.first then r else s.vreg c y m)

/-! #### The order of checks -/

/-- The instructions of three-operand formats and uniform formats, with their forms. -/
noncomputable def formed : List ((T3 → Instr) × (T3 → Form)) :=
  (intLanes.map fun p => (p.1, t3Form .v .any .any)) ++ (fpLanes.map fun p => (p.1, t3Form .v .any .any)) ++
  (oneLanes.map fun p => (p.1, t3Form .v .any .zero)) ++ (cmpLanes.map fun p => (p.1, t3Form .k .any .any)) ++
  (accLanes.map fun p => (p.1, fun f => t3Form .v .any .any f true)) ++
  (affOps.map fun p => (p.1, t3Form .a p.2.1 p.2.2.1)) ++ (maskOps.map fun p => (p.1, t3Form .k .kidx .kidx))

/-- R39, R41, R42, R62, R100, R103, R112: what a context issues is checked in order: an illegal word is E_ILL with the word; a register
outside the allotment is E_RES with its code; a form for a whole gang is E_UWP in a part of it; then the sources in order, each of
which may fault or park; then a destination that must wait parks: that it is looked at after the sources is the model's reading
(log 24). A word that met a fallback has set WMOD by then, and WMODPC where WMOD was 0, unless its group
has decoded it before and parked with it: it is counted once. -/
def Checked : Prop :=
  ∀ p ∈ formed, ∀ (f : T3) (s : State) (c x : Nat), s.issuer = some (c, x) →
    let fm := p.2 f
    let s' := if fm.fb = true ∧ (s.gang c x).group.held = none then s.modGang c x fun g =>
      { g with gstat := g.gstat ||| 1, wmodpc := if bit g.gstat 0 then g.wmodpc else g.pc } else s
    let stopped := fun e : Stop => exec (p.1 f) s = .next (match e with
      | .fault code cause info aux fl => s'.takeFault c x code cause info aux fl
      | .park k a => s'.park c x k a)
    (fm.legal = false → exec (p.1 f) s = .next (s.takeFault c x 1 0 s.ir 0 0)) ∧
    (fm.legal = true →
      let names := (∀ q ∈ fm.names, q.1 + q.2 ≤ (s.gang c x).valloc)
      let whole := (fm.wide = true → (s.gang c x).active = (s.gang c x).live)
      (∀ pre q post, fm.names = pre ++ q :: post → (∀ r ∈ pre, r.1 + r.2 ≤ (s.gang c x).valloc) →
        (s.gang c x).valloc < q.1 + q.2 → stopped (.fault 0x14 0 (BitVec.ofNat 32 q.1) 0 0)) ∧
      (names → ¬ whole → stopped (.fault 4 0 0 0 0)) ∧
      (names → whole → ∀ pre q post vs e, fm.srcs = pre ++ q :: post → readSrcs s c x pre = .ok vs →
        readSrc s c x q = .error e → stopped e) ∧
      (names → whole → ∀ vs pre d post, readSrcs s c x fm.srcs = .ok vs → fm.dests = pre ++ d :: post →
        (∀ r ∈ pre, mustWait s c x r = false) → mustWait s c x d = true → stopped (.park .write (BitVec.ofNat 8 d))))

/-- R29, R69, R103, R112: a read of a register. A full one gives its value, unless others of the crew have waited longer for it; a
poisoned one is E_POISON with its cause; an empty one parks a blocking read whose producer is outstanding, or that is shared,
and is E_EMPTY else. A t gives the value of its window entry, or is E_TMP. A write waits for a producer, and on a shared
register for the register to be empty; a group parked to write goes on in the cycle after the completion (R104). A shared register
reads as it was before the writes of this cycle (R104). Log 50 says which operands `vtake` reads. -/
def ReadsAndWaits : Prop :=
  ∀ (s : State) (c x : Nat) (q : Src),
    let info : W := BitVec.ofNat 32 q.code
    let rule := fun (fe : Fe) (fills turn : Bool) (v : Val) => readSrc s c x q = match fe with
      | .full => if q.blk && turn then .error (.park .read (BitVec.ofNat 8 q.code)) else .ok v
      | .poisoned z => .error (.fault 3 (z.setWidth 8) info 0 0)
      | .empty => .error (if q.blk && fills then .park .read (BitVec.ofNat 8 q.code) else .fault 2 0 info 0 0)
    (∀ n, (s.gang c x).bind? n = none → s.vread c x n = s.vreg c x n) ∧
    (∀ n b, (s.gang c x).bind? n = some b →
      s.vread c x n = (sget (s.share c x b.id).before (n - b.first)).getD (s.vreg c x n)) ∧
    (q.code < 64 →
      let r := s.vread c x q.code
      rule r.fe (r.busy || s.isShared c x q.code) (s.behind c x .read q.code) (.v r.val r.tag)) ∧
    (64 ≤ q.code → q.code < 96 → let r := (s.gang c x).sreg (q.code - 64)
      rule r.fe r.busy false (.s r.val)) ∧
    (96 ≤ q.code → q.code < 112 → let r := (s.gang c x).areg (q.code - 96)
      rule r.fe r.busy false (.a r.base r.stride)) ∧
    (112 ≤ q.code →
      (∀ e v, (s.gang c x).window[q.code - 112]? = some e → e.val = some v → typeOk q.cls v = true →
        readSrc s c x q = .ok v) ∧
      ((∀ e v, (s.gang c x).window[q.code - 112]? = some e → e.val = some v → typeOk q.cls v = false) →
        readSrc s c x q = .error (.fault 6 0 info 0 0))) ∧
    (let late := fun d : Nat => decide ((s.gang c x).park = some (.write, BitVec.ofNat 8 d)) && s.justDone c x d
     (∀ d < 64, s.isShared c x d = false → mustWait s c x d = (late d || (s.vreg c x d).busy)) ∧
     (∀ d < 64, s.isShared c x d = true → mustWait s c x d = (late d || (s.vreg c x d).busy || (s.vreg c x d).fe != .empty ||
       s.behind c x .write d)) ∧
     (∀ d, 64 ≤ d → d < 96 → mustWait s c x d = (late d || ((s.gang c x).sreg (d - 64)).busy)) ∧
     (∀ d, 96 ≤ d → mustWait s c x d = (late d || ((s.gang c x).areg (d - 96)).busy)))

/-! #### Faults -/

/-- R79, R401, R402: a gang that takes a fault halts with the record at its PC, its slot is free, and its registers, stacks, window
and flags stay (that the word which its group had decoded is fetched again is the model's reading, log 23); the record has the next number of its core and is posted: where its ring has a base, fewer than 64 records unread
and none waiting, its 32 bytes are written at the write index, which rises by 1, and an interrupt write follows; else it waits.
Every other byte of memory stays. -/
def FaultsTaken : Prop :=
  ∀ (s : State) (c x : Nat) (code cause : Byte) (info : W) (aux : PC) (fl : Byte), x < 64 → (s.gang? c x).isSome = true →
    let t := s.takeFault c x code cause info aux fl
    let rc : Rec := { code := code, b1 := cause, b2 := fl, gang := BitVec.ofNat 8 x, info := info, pc := (s.gang c x).pc
                      asid := (s.crew c (x / 16)).asid, b15 := (s.gang c x).active, aux := aux, core := gidOf c
                      seq := (s.core c).seq }
    let ring := s.ring (.place c (x / 16))
    let room := ring.isFull = false ∧ ring.waiting = []
    t.gang c x = { (s.gang c x).modGroup (fun q => { q with held := none }) with halt := some rc } ∧
    (∀ y, y ≠ x → t.gang? c y = s.gang? c y) ∧
    (∀ i : Fin 4, (t.core c).slots[i] ≠ some x) ∧
    (t.core c).seq = (if (s.core c).seq = 0xfffffffe then 0 else (s.core c).seq + 1) ∧
    (x / 16 < 4 → room →
      (t.ring (.place c (x / 16))).fqw = ring.fqw + 1 ∧
      t.mem = writeBytes s.mem (hbmKey (ring.base.getD 0 + 32 * (ring.fqw.toNat % 64))) (recBytes rc) ∧
      t.msis = s.msis ++ [{ addr := ring.msiAddr, data := ring.msiData, mode := 1 }]) ∧
    (x / 16 < 4 → ¬ room → t.mem = s.mem ∧ (t.ring (.place c (x / 16))).waiting = ring.waiting ++ [rc])

/-! #### Frames -/

/-- What is as it was after an instruction of context `x` of core `c`: every byte of memory and every mark, every other context,
and of its own every register but those that `v`, `u`, `a` and `k` name, every record, control register, count and role; the
flags beyond `fl`; and where no register that `v` names is shared, all share storage. -/
structure Frame (s t : State) (c x : Nat) (v u a k : Nat → Bool) (fl : BitVec 14) : Prop where
  memory : ∀ i, memRead t.mem i = memRead s.mem i
  marks : t.bad = s.bad
  others : ∀ d y, d ≠ c ∨ y ≠ x → t.gang? d y = s.gang? d y
  varying : ∀ n, v n = false → (∀ m, v m = true → (s.gang c x).bind? m = none) → t.vreg c x n = s.vreg c x n
  own : ∀ n, v n = false → (s.gang c x).bind? n = none → t.vreg c x n = s.vreg c x n
  shares : (∀ m, v m = true → (s.gang c x).bind? m = none) → ∀ q, (t.crew c q).shares = (s.crew c q).shares
  uniform : ∀ n, u n = false → (t.gang c x).sreg n = (s.gang c x).sreg n
  affine : ∀ n, a n = false → (t.gang c x).areg n = (s.gang c x).areg n
  mask : ∀ n, k n = false → (t.gang c x).kreg n = (s.gang c x).kreg n
  records : (t.gang c x).recs = (s.gang c x).recs
  control : (t.gang c x).mxc = (s.gang c x).mxc ∧ (t.gang c x).rmode = (s.gang c x).rmode ∧
    (t.gang c x).ptile = (s.gang c x).ptile ∧ (t.gang c x).kuse = (s.gang c x).kuse ∧
    (t.gang c x).role = (s.gang c x).role ∧ (t.gang c x).live = (s.gang c x).live ∧
    (t.gang c x).valloc = (s.gang c x).valloc ∧ (t.gang c x).counts = (s.gang c x).counts ∧
    (t.gang c x).binds = (s.gang c x).binds ∧ (t.gang c x).timeh = (s.gang c x).timeh
  flags : (t.gang c x).gstat &&& ~~~fl = (s.gang c x).gstat &&& ~~~fl

/-- An instruction's next state, if it has one, keeps its frame. -/
def Framed (i : Instr) (s : State) (c x : Nat) (v u a k : Nat → Bool) (fl : BitVec 14) : Prop :=
  ∀ t, exec i s = .next t → Frame s t c x v u a k fl

/-- No register. -/
def none' : Nat → Bool := fun _ => false

/-- The varying destination of a T3 word: none where W = 1. -/
def vDest (f : T3) : Nat → Bool := fun n => f.w == 0 && n == f.d.toNat

/-- What an instruction may set of GSTAT (R41, R120, R126): WMOD; SAT with it; and the floating flags FINV, FOVF, FUNF, FINX and FDZ with
it. -/
def wmodOnly : BitVec 14 := 0x001
def satFlags : BitVec 14 := 0x021
def fpFlags : BitVec 14 := 0x7c1

end Sys2Proof.Safety

/-- The frames of the instructions that act on registers alone, once they pass their checks: a lane instruction writes its varying
destination; an integer one raises no flag but WMOD, a saturating one SAT too, and a floating one or a conversion the floating flags; a
compare and a mask instruction write a k register, and a compare may raise FINV; a uniform instruction writes an s register; an affine one
an a register, and may raise AOV; a branch, `nop` and `isync` write none. -/
def Obligations.Frames : Prop :=
  (∀ l ∈ [(intPlain, wmodOnly), (intSat, satFlags), (fpLanes, fpFlags)], ∀ p ∈ l.1, ∀ (f : T3) (s : State) (c x : Nat) (a b : Val),
    Ready s c x (t3Form .v .any .any f) [a, b] → tagOk p.2.1 a = true → tagOk p.2.1 b = true →
    Framed (p.1 f) s c x (vDest f) none' none' none' l.2) ∧
  (∀ l ∈ [(onePlain, wmodOnly), (oneConv, fpFlags)], ∀ p ∈ l.1, ∀ (f : T3) (s : State) (c x : Nat) (a : Val),
    Ready s c x (t3Form .v .any .zero f) [a] → tagOk p.2.1 a = true →
    Framed (p.1 f) s c x (vDest f) none' none' none' l.2) ∧
  (∀ l ∈ [(accPlain, wmodOnly), (accSat, satFlags), (accFp, fpFlags)], ∀ p ∈ l.1, ∀ (f : T3) (s : State) (c x : Nat) (a b d : Val),
    Ready s c x (t3Form .v .any .any f true) [a, b, d] → tagOk p.2.1 a = true → tagOk p.2.1 b = true →
    tagOk p.2.2.1 d = true → Framed (p.1 f) s c x (vDest f) none' none' none' l.2) ∧
  (∀ p ∈ cmpLanes, ∀ (f : T3) (s : State) (c x : Nat) (a b : Val),
    Ready s c x (t3Form .k .any .any f) [a, b] → tagOk p.2.1 a = true → tagOk p.2.1 b = true →
    Framed (p.1 f) s c x none' none' none' (fun n => n == f.d.toNat) 0x41) ∧
  (∀ p ∈ uniOps, ∀ (f : SR) (s : State) (c x : Nat) (a b : W), Ready s c x (srForm f) [.s a, .s b] →
    Framed (p.1 f) s c x none' (fun n => n == f.d.toNat) none' none' 1) ∧
  (∀ p ∈ uniOps, ∀ (f : SRI) (s : State) (c x : Nat) (a : W), Ready s c x (sriForm f) [.s a] →
    Framed (p.2.1 f) s c x none' (fun n => n == f.d.toNat) none' none' 0) ∧
  (∀ p ∈ affOps, ∀ (f : T3) (s : State) (c x : Nat) (a b : Val), Ready s c x (t3Form .a p.2.1 p.2.2.1 f) [a, b] →
    Framed (p.1 f) s c x none' none' (fun n => n == f.d.toNat) none' 5) ∧
  (∀ p ∈ maskOps, ∀ (f : T3) (s : State) (c x : Nat), Ready s c x (t3Form .k .kidx .kidx f) [] →
    Framed (p.1 f) s c x none' none' none' (fun n => n == f.d.toNat) 1) ∧
  (∀ p ∈ branchOps, ∀ (f : BR) (s : State) (c x : Nat) (a b : W),
    Ready s c x { legal := true, fb := false, srcs := [uSrc f.a true, uSrc f.b true] } [.s a, .s b] →
    Framed (p.1 f) s c x none' none' none' none' 0) ∧
  (∀ p ∈ [Instr.nop, .isync], ∀ (f : EX) (s : State) (c x : Nat), Ready s c x (exForm .zero .zero .zero f) [] →
    Framed (p f) s c x none' none' none' none' 1)

/-- R15, R54, R61, R96, R378, R413: what reset and a gang's start leave. -/
def Obligations.ResetState : Prop := AtReset ∧ AtStart

/-- R96, R110: memory and registers hold what is written. -/
def Obligations.StorageHolds : Prop := MemoryHolds ∧ RegistersHold

/-- R39, R41, R42, R62, R100, R103: checks before an effect; illegal words. -/
def Obligations.ChecksInOrder : Prop := Checked ∧ ReadsAndWaits ∧ IllegalWords

/-- R79, R401, R402: taking a fault. -/
def Obligations.TakingFaults : Prop := FaultsTaken

/-- R23, R33: decoding what has been encoded gives the instruction back, for every well-formed instruction of a gang; and what
decodes is encoded by the bytes that it was decoded from, so that no bit is dropped and no two instructions share a word. -/
def Obligations.DecodeEncode : Prop :=
  (∀ (i : Instr) (rest : List Byte), i.wellFormed = true → isEvent i = false → (∀ w b, i ≠ .illegalEncoding w b) →
    decode (encode i ++ rest) = .ok (i, rest)) ∧
  (∀ (bs rest : List Byte) (i : Instr), decode bs = .ok (i, rest) → encode i ++ rest = bs ∧ isEvent i = false) ∧
  (∀ f : Zw, ∃ w : BitVec 32, encode (.zwait f) = wordBytes w ∧ decodeHart w = some f)

/-- Words written out from the encodings of the spec, one or more for each format (the 16-bit form, T3, MR, SR with its register and its
immediate form, UI, BR, J, EX with and without its own immediate fields), and `zwait` of a hart. -/
def Obligations.DecodeWords : Prop :=
  decodeTableWord 16 0x0902 = some (.vaddI3216 { vd := 8, vs := 1 }) ∧
  decodeTableWord 16 0xc934 = some (.vfadd16 { vd := 9, vs := 25 }) ∧
  decodeTableWord 32 0x06e11199 = some (.vldX4 { d := 8, bd := 0, x := 97, bx := 1, rc := 6, ord := 0, scope := 0 }) ∧
  decodeTableWord 32 0x44821209 = some (.vfma { d := 9, w := 0, a := 2, ba := 1, b := 68, bb := 0 }) ∧
  decodeTableWord 32 0x04910621 = some (.sadd { d := 3, a := 2, ba := 1, b := 4, bb := 1, hi := 0 }) ∧
  decodeTableWord 32 0x12346167 = some (.slui { d := 5, imm := 0x2468c }) ∧
  decodeTableWord 32 0x003041ad = some (.bkany { a := 0, b := 1, disp := 6 }) ∧
  decodeTableWord 32 0x003041ed = some (.bkall { a := 0, b := 1, disp := 6 }) ∧
  decodeTableWord 32 0x0000026f = some (.call { disp := 4 }) ∧
  decodeTableWord 32 0x00001631 = some (.isync { d := 0, bd := 0, a := 0, ba := 0, b := 0, bb := 0 }) ∧
  decodeTableWord 32 0x86850801 = some (.vaddI32 { d := 4, w := 0, a := 5, ba := 1, b := 6, bb := 1 }) ∧
  decodeTableWord 32 0xc281028b = some (.vcmpLtI32 { d := 1, w := 0, a := 1, ba := 1, b := 66, bb := 1 }) ∧
  decodeTableWord 32 0x00314621 = some (.saddImm { d := 3, a := 2, ba := 1, imm := 1 }) ∧
  decodeTableWord 32 0x000060a5 = some (.sli { d := 2, imm := 12 }) ∧
  decodeTableWord 32 0xc3c20229 = some (.amk { d := 1, w := 0, a := 66, ba := 1, b := 67, bb := 1 }) ∧
  decodeTableWord 32 0x0041062d = some (.beq { a := 3, b := 4, disp := 8 }) ∧
  decodeTableWord 32 0x0000022f = some (.jmp { disp := 4 }) ∧
  decodeTableWord 32 0x000a8c31 = some (.trap { code := 0x2a }) ∧
  decodeTableWord 32 0x143404b1 = some (.rshare { first := 16, count := 3, id := 5 }) ∧
  decodeTableWord 32 0x9a528037 = some (.gnCp { d := 10, bd := 0, a := 5, ba := 1, b := 6, bb := 1 }) ∧
  decodeTableWord 32 0x9a510039 = some (.msend { d := 4, bd := 0, a := 5, ba := 1, b := 6, bb := 1 }) ∧
  decodeHart 0x0062828b = some { rd := 5, rs1 := 5, rs2 := 6 }

/-- The invariant holds at reset. It is the model's own: the canonical form of memory is log 2, and what waits to act log 26. -/
def Obligations.ResetInv : Prop := Inv State.reset

/-- From every state with the invariant, a step that answers a next state keeps it: every write of memory leaves the canonical form, and
only steps of units, inputs and instructions of harts wait to act. The invariant is the model's own (logs 2 and 26). -/
def Obligations.StepKeepsInv : Prop := ∀ s t : State, Inv s → step s = .next t → Inv t

/-- No instruction is refused, and none stops while a context issues; a step of a unit or an input stops never; so from every state with the
invariant a step answers a next state. -/
def Obligations.StepNeverStops : Prop :=
  (∀ (i : Instr) (s : State) (r : Refusal), exec i s ≠ .refused r) ∧
  (∀ (i : Instr) (s : State) (p : Nat × Nat), s.issuer = some p → ∃ t, exec i s = .next t) ∧
  (∀ (i : Instr) (s : State), isEvent i = true → ∃ t, exec i s = .next t) ∧
  (∀ s : State, Inv s → Goes s)

/-- R23, R42: a step runs what is fetched (a fetch passes through the memory-side caches, R215). While a core issues for the contexts that its slots have selected, the next of them issues:
the bytes of its group's instruction are fetched at its PC, or are those of the word that it has parked with, and the step is `exec`
of the instruction that they decode to, or of the step of an illegal encoding. The step counter has advanced, the context is no
longer among those selected, the core is done once none is left, and the rank of the instruction is noted for the order of its
cycle. An instruction that this order puts before what has happened already in the cycle (R262, R324, R329) issues in a later one. -/
def Obligations.StepRunsDecoded : Prop :=
  ∀ (s : State) (c x : Nat) (rest : List (Nat × Nat)) (q : Group) (fresh : Bool),
    let t : State := { s with tick := s.tick + 1, cur := none }
    let t := t.modCore c fun k => { k with chosen := k.chosen.erase x }
    let u : State := if (t.core c).chosen = [] then { t with todo := rest } else t
    s.todo = (c, 4) :: rest → State.nextChosen { s with tick := s.tick + 1, cur := none } c = some x →
    (u.gang? c x).isSome = true → u.gangReady c x (u.gang c x) = true → u.pickGroup c x = some (q, fresh) →
    let v := u.modGang c x fun g => { (if fresh then g.newRound else g) with active := q.slices }
    ((v.gang c x).run ≠ 0 ∨ v.trailerDead c x q.trailer = none) →
    let w := if (v.gang c x).run ≠ 0 then v else v.modGang c x fun g => g.startRun q
    (x = 64 → w.changes (.op (.waveBudgetExceeded c)) = false) →
    ((∀ h, (w.gang c x).group.held = some h → w.word c x = (w, some (leBytes (if bit h 0 then 4 else 2) h.toNat))) ∧
      ((w.gang c x).group.held = none → w.word c x = w.fetch c x)) ∧
    ∀ z bs, w.word c x = (z, some bs) →
      let go := fun i => if z.inTurn (z.issueTurn c x i) = true then
          exec i (State.noteTurn { z with cur := some (c, x), ir := BitVec.ofNat 32 (leNat bs) } (z.issueTurn c x i))
        else .next w
      (∀ i r, decode bs = .ok (i, r) → step s = go i) ∧
      (∀ e, decode bs = .error e → step s = go (.illegalEncoding (BitVec.ofNat 32 (leNat bs)) (bs.length == 4)))
end

