-- ==== Sys2Proof/Laws/State.lean ====
section
/-! SUPPORT. Sys2Proof/Laws/State.lean: which fields an update leaves as they are: one lemma for each field and each
update of the state and of a gang. -/

namespace Sys2Proof.Machine

/-! ### `State.setCore` -/

@[simp] theorem State.setCore_clock (s : State) (c : Nat) (k : Core) : (s.setCore c k).clock = s.clock := rfl
@[simp] theorem State.setCore_time (s : State) (c : Nat) (k : Core) : (s.setCore c k).time = s.time := rfl
@[simp] theorem State.setCore_todo (s : State) (c : Nat) (k : Core) : (s.setCore c k).todo = s.todo := rfl
@[simp] theorem State.setCore_tick (s : State) (c : Nat) (k : Core) : (s.setCore c k).tick = s.tick := rfl
@[simp] theorem State.setCore_inputs (s : State) (c : Nat) (k : Core) : (s.setCore c k).inputs = s.inputs := rfl
@[simp] theorem State.setCore_flight (s : State) (c : Nat) (k : Core) : (s.setCore c k).flight = s.flight := rfl
@[simp] theorem State.setCore_cur (s : State) (c : Nat) (k : Core) : (s.setCore c k).cur = s.cur := rfl
@[simp] theorem State.setCore_ir (s : State) (c : Nat) (k : Core) : (s.setCore c k).ir = s.ir := rfl
@[simp] theorem State.setCore_mem (s : State) (c : Nat) (k : Core) : (s.setCore c k).mem = s.mem := rfl
@[simp] theorem State.setCore_bad (s : State) (c : Nat) (k : Core) : (s.setCore c k).bad = s.bad := rfl
@[simp] theorem State.setCore_dies (s : State) (c : Nat) (k : Core) : (s.setCore c k).dies = s.dies := rfl
@[simp] theorem State.setCore_barriers (s : State) (c : Nat) (k : Core) : (s.setCore c k).barriers = s.barriers := rfl
@[simp] theorem State.setCore_barCmds (s : State) (c : Nat) (k : Core) : (s.setCore c k).barCmds = s.barCmds := rfl
@[simp] theorem State.setCore_bridges (s : State) (c : Nat) (k : Core) : (s.setCore c k).bridges = s.bridges := rfl
@[simp] theorem State.setCore_msgs (s : State) (c : Nat) (k : Core) : (s.setCore c k).msgs = s.msgs := rfl
@[simp] theorem State.setCore_pkts (s : State) (c : Nat) (k : Core) : (s.setCore c k).pkts = s.pkts := rfl
@[simp] theorem State.setCore_replies (s : State) (c : Nat) (k : Core) : (s.setCore c k).replies = s.replies := rfl
@[simp] theorem State.setCore_fins (s : State) (c : Nat) (k : Core) : (s.setCore c k).fins = s.fins := rfl
@[simp] theorem State.setCore_nextId (s : State) (c : Nat) (k : Core) : (s.setCore c k).nextId = s.nextId := rfl
@[simp] theorem State.setCore_fe (s : State) (c : Nat) (k : Core) : (s.setCore c k).fe = s.fe := rfl
@[simp] theorem State.setCore_sys (s : State) (c : Nat) (k : Core) : (s.setCore c k).sys = s.sys := rfl
@[simp] theorem State.setCore_harts (s : State) (c : Nat) (k : Core) : (s.setCore c k).harts = s.harts := rfl
@[simp] theorem State.setCore_curHart (s : State) (c : Nat) (k : Core) : (s.setCore c k).curHart = s.curHart := rfl
@[simp] theorem State.setCore_routers (s : State) (c : Nat) (k : Core) : (s.setCore c k).routers = s.routers := rfl
@[simp] theorem State.setCore_msis (s : State) (c : Nat) (k : Core) : (s.setCore c k).msis = s.msis := rfl
@[simp] theorem State.setCore_apRead (s : State) (c : Nat) (k : Core) : (s.setCore c k).apRead = s.apRead := rfl
@[simp] theorem State.setCore_turns (s : State) (c : Nat) (k : Core) : (s.setCore c k).turns = s.turns := rfl
@[simp] theorem State.setCore_msc (s : State) (c : Nat) (k : Core) : (s.setCore c k).msc = s.msc := rfl
@[simp] theorem State.setCore_wakes (s : State) (c : Nat) (k : Core) : (s.setCore c k).wakes = s.wakes := rfl

/-! ### `State.modCore` -/

@[simp] theorem State.modCore_clock (s : State) (c : Nat) (f : Core → Core) : (s.modCore c f).clock = s.clock := rfl
@[simp] theorem State.modCore_time (s : State) (c : Nat) (f : Core → Core) : (s.modCore c f).time = s.time := rfl
@[simp] theorem State.modCore_todo (s : State) (c : Nat) (f : Core → Core) : (s.modCore c f).todo = s.todo := rfl
@[simp] theorem State.modCore_tick (s : State) (c : Nat) (f : Core → Core) : (s.modCore c f).tick = s.tick := rfl
@[simp] theorem State.modCore_inputs (s : State) (c : Nat) (f : Core → Core) : (s.modCore c f).inputs = s.inputs := rfl
@[simp] theorem State.modCore_flight (s : State) (c : Nat) (f : Core → Core) : (s.modCore c f).flight = s.flight := rfl
@[simp] theorem State.modCore_cur (s : State) (c : Nat) (f : Core → Core) : (s.modCore c f).cur = s.cur := rfl
@[simp] theorem State.modCore_ir (s : State) (c : Nat) (f : Core → Core) : (s.modCore c f).ir = s.ir := rfl
@[simp] theorem State.modCore_mem (s : State) (c : Nat) (f : Core → Core) : (s.modCore c f).mem = s.mem := rfl
@[simp] theorem State.modCore_bad (s : State) (c : Nat) (f : Core → Core) : (s.modCore c f).bad = s.bad := rfl
@[simp] theorem State.modCore_dies (s : State) (c : Nat) (f : Core → Core) : (s.modCore c f).dies = s.dies := rfl
@[simp] theorem State.modCore_barriers (s : State) (c : Nat) (f : Core → Core) : (s.modCore c f).barriers = s.barriers := rfl
@[simp] theorem State.modCore_barCmds (s : State) (c : Nat) (f : Core → Core) : (s.modCore c f).barCmds = s.barCmds := rfl
@[simp] theorem State.modCore_bridges (s : State) (c : Nat) (f : Core → Core) : (s.modCore c f).bridges = s.bridges := rfl
@[simp] theorem State.modCore_msgs (s : State) (c : Nat) (f : Core → Core) : (s.modCore c f).msgs = s.msgs := rfl
@[simp] theorem State.modCore_pkts (s : State) (c : Nat) (f : Core → Core) : (s.modCore c f).pkts = s.pkts := rfl
@[simp] theorem State.modCore_replies (s : State) (c : Nat) (f : Core → Core) : (s.modCore c f).replies = s.replies := rfl
@[simp] theorem State.modCore_fins (s : State) (c : Nat) (f : Core → Core) : (s.modCore c f).fins = s.fins := rfl
@[simp] theorem State.modCore_nextId (s : State) (c : Nat) (f : Core → Core) : (s.modCore c f).nextId = s.nextId := rfl
@[simp] theorem State.modCore_fe (s : State) (c : Nat) (f : Core → Core) : (s.modCore c f).fe = s.fe := rfl
@[simp] theorem State.modCore_sys (s : State) (c : Nat) (f : Core → Core) : (s.modCore c f).sys = s.sys := rfl
@[simp] theorem State.modCore_harts (s : State) (c : Nat) (f : Core → Core) : (s.modCore c f).harts = s.harts := rfl
@[simp] theorem State.modCore_curHart (s : State) (c : Nat) (f : Core → Core) : (s.modCore c f).curHart = s.curHart := rfl
@[simp] theorem State.modCore_routers (s : State) (c : Nat) (f : Core → Core) : (s.modCore c f).routers = s.routers := rfl
@[simp] theorem State.modCore_msis (s : State) (c : Nat) (f : Core → Core) : (s.modCore c f).msis = s.msis := rfl
@[simp] theorem State.modCore_apRead (s : State) (c : Nat) (f : Core → Core) : (s.modCore c f).apRead = s.apRead := rfl
@[simp] theorem State.modCore_turns (s : State) (c : Nat) (f : Core → Core) : (s.modCore c f).turns = s.turns := rfl
@[simp] theorem State.modCore_msc (s : State) (c : Nat) (f : Core → Core) : (s.modCore c f).msc = s.msc := rfl
@[simp] theorem State.modCore_wakes (s : State) (c : Nat) (f : Core → Core) : (s.modCore c f).wakes = s.wakes := rfl

/-! ### `State.setDie` -/

@[simp] theorem State.setDie_clock (s : State) (d : Nat) (x : Die) : (s.setDie d x).clock = s.clock := rfl
@[simp] theorem State.setDie_time (s : State) (d : Nat) (x : Die) : (s.setDie d x).time = s.time := rfl
@[simp] theorem State.setDie_todo (s : State) (d : Nat) (x : Die) : (s.setDie d x).todo = s.todo := rfl
@[simp] theorem State.setDie_tick (s : State) (d : Nat) (x : Die) : (s.setDie d x).tick = s.tick := rfl
@[simp] theorem State.setDie_inputs (s : State) (d : Nat) (x : Die) : (s.setDie d x).inputs = s.inputs := rfl
@[simp] theorem State.setDie_flight (s : State) (d : Nat) (x : Die) : (s.setDie d x).flight = s.flight := rfl
@[simp] theorem State.setDie_cur (s : State) (d : Nat) (x : Die) : (s.setDie d x).cur = s.cur := rfl
@[simp] theorem State.setDie_ir (s : State) (d : Nat) (x : Die) : (s.setDie d x).ir = s.ir := rfl
@[simp] theorem State.setDie_mem (s : State) (d : Nat) (x : Die) : (s.setDie d x).mem = s.mem := rfl
@[simp] theorem State.setDie_bad (s : State) (d : Nat) (x : Die) : (s.setDie d x).bad = s.bad := rfl
@[simp] theorem State.setDie_cores (s : State) (d : Nat) (x : Die) : (s.setDie d x).cores = s.cores := rfl
@[simp] theorem State.setDie_barriers (s : State) (d : Nat) (x : Die) : (s.setDie d x).barriers = s.barriers := rfl
@[simp] theorem State.setDie_barCmds (s : State) (d : Nat) (x : Die) : (s.setDie d x).barCmds = s.barCmds := rfl
@[simp] theorem State.setDie_bridges (s : State) (d : Nat) (x : Die) : (s.setDie d x).bridges = s.bridges := rfl
@[simp] theorem State.setDie_msgs (s : State) (d : Nat) (x : Die) : (s.setDie d x).msgs = s.msgs := rfl
@[simp] theorem State.setDie_pkts (s : State) (d : Nat) (x : Die) : (s.setDie d x).pkts = s.pkts := rfl
@[simp] theorem State.setDie_replies (s : State) (d : Nat) (x : Die) : (s.setDie d x).replies = s.replies := rfl
@[simp] theorem State.setDie_fins (s : State) (d : Nat) (x : Die) : (s.setDie d x).fins = s.fins := rfl
@[simp] theorem State.setDie_nextId (s : State) (d : Nat) (x : Die) : (s.setDie d x).nextId = s.nextId := rfl
@[simp] theorem State.setDie_fe (s : State) (d : Nat) (x : Die) : (s.setDie d x).fe = s.fe := rfl
@[simp] theorem State.setDie_sys (s : State) (d : Nat) (x : Die) : (s.setDie d x).sys = s.sys := rfl
@[simp] theorem State.setDie_harts (s : State) (d : Nat) (x : Die) : (s.setDie d x).harts = s.harts := rfl
@[simp] theorem State.setDie_curHart (s : State) (d : Nat) (x : Die) : (s.setDie d x).curHart = s.curHart := rfl
@[simp] theorem State.setDie_routers (s : State) (d : Nat) (x : Die) : (s.setDie d x).routers = s.routers := rfl
@[simp] theorem State.setDie_msis (s : State) (d : Nat) (x : Die) : (s.setDie d x).msis = s.msis := rfl
@[simp] theorem State.setDie_apRead (s : State) (d : Nat) (x : Die) : (s.setDie d x).apRead = s.apRead := rfl
@[simp] theorem State.setDie_turns (s : State) (d : Nat) (x : Die) : (s.setDie d x).turns = s.turns := rfl
@[simp] theorem State.setDie_msc (s : State) (d : Nat) (x : Die) : (s.setDie d x).msc = s.msc := rfl
@[simp] theorem State.setDie_wakes (s : State) (d : Nat) (x : Die) : (s.setDie d x).wakes = s.wakes := rfl

/-! ### `State.modDie` -/

@[simp] theorem State.modDie_clock (s : State) (d : Nat) (f : Die → Die) : (s.modDie d f).clock = s.clock := rfl
@[simp] theorem State.modDie_time (s : State) (d : Nat) (f : Die → Die) : (s.modDie d f).time = s.time := rfl
@[simp] theorem State.modDie_todo (s : State) (d : Nat) (f : Die → Die) : (s.modDie d f).todo = s.todo := rfl
@[simp] theorem State.modDie_tick (s : State) (d : Nat) (f : Die → Die) : (s.modDie d f).tick = s.tick := rfl
@[simp] theorem State.modDie_inputs (s : State) (d : Nat) (f : Die → Die) : (s.modDie d f).inputs = s.inputs := rfl
@[simp] theorem State.modDie_flight (s : State) (d : Nat) (f : Die → Die) : (s.modDie d f).flight = s.flight := rfl
@[simp] theorem State.modDie_cur (s : State) (d : Nat) (f : Die → Die) : (s.modDie d f).cur = s.cur := rfl
@[simp] theorem State.modDie_ir (s : State) (d : Nat) (f : Die → Die) : (s.modDie d f).ir = s.ir := rfl
@[simp] theorem State.modDie_mem (s : State) (d : Nat) (f : Die → Die) : (s.modDie d f).mem = s.mem := rfl
@[simp] theorem State.modDie_bad (s : State) (d : Nat) (f : Die → Die) : (s.modDie d f).bad = s.bad := rfl
@[simp] theorem State.modDie_cores (s : State) (d : Nat) (f : Die → Die) : (s.modDie d f).cores = s.cores := rfl
@[simp] theorem State.modDie_barriers (s : State) (d : Nat) (f : Die → Die) : (s.modDie d f).barriers = s.barriers := rfl
@[simp] theorem State.modDie_barCmds (s : State) (d : Nat) (f : Die → Die) : (s.modDie d f).barCmds = s.barCmds := rfl
@[simp] theorem State.modDie_bridges (s : State) (d : Nat) (f : Die → Die) : (s.modDie d f).bridges = s.bridges := rfl
@[simp] theorem State.modDie_msgs (s : State) (d : Nat) (f : Die → Die) : (s.modDie d f).msgs = s.msgs := rfl
@[simp] theorem State.modDie_pkts (s : State) (d : Nat) (f : Die → Die) : (s.modDie d f).pkts = s.pkts := rfl
@[simp] theorem State.modDie_replies (s : State) (d : Nat) (f : Die → Die) : (s.modDie d f).replies = s.replies := rfl
@[simp] theorem State.modDie_fins (s : State) (d : Nat) (f : Die → Die) : (s.modDie d f).fins = s.fins := rfl
@[simp] theorem State.modDie_nextId (s : State) (d : Nat) (f : Die → Die) : (s.modDie d f).nextId = s.nextId := rfl
@[simp] theorem State.modDie_fe (s : State) (d : Nat) (f : Die → Die) : (s.modDie d f).fe = s.fe := rfl
@[simp] theorem State.modDie_sys (s : State) (d : Nat) (f : Die → Die) : (s.modDie d f).sys = s.sys := rfl
@[simp] theorem State.modDie_harts (s : State) (d : Nat) (f : Die → Die) : (s.modDie d f).harts = s.harts := rfl
@[simp] theorem State.modDie_curHart (s : State) (d : Nat) (f : Die → Die) : (s.modDie d f).curHart = s.curHart := rfl
@[simp] theorem State.modDie_routers (s : State) (d : Nat) (f : Die → Die) : (s.modDie d f).routers = s.routers := rfl
@[simp] theorem State.modDie_msis (s : State) (d : Nat) (f : Die → Die) : (s.modDie d f).msis = s.msis := rfl
@[simp] theorem State.modDie_apRead (s : State) (d : Nat) (f : Die → Die) : (s.modDie d f).apRead = s.apRead := rfl
@[simp] theorem State.modDie_turns (s : State) (d : Nat) (f : Die → Die) : (s.modDie d f).turns = s.turns := rfl
@[simp] theorem State.modDie_msc (s : State) (d : Nat) (f : Die → Die) : (s.modDie d f).msc = s.msc := rfl
@[simp] theorem State.modDie_wakes (s : State) (d : Nat) (f : Die → Die) : (s.modDie d f).wakes = s.wakes := rfl

/-! ### `State.store` -/

@[simp] theorem State.store_clock (s : State) (k n x : Nat) : (s.store k n x).clock = s.clock := rfl
@[simp] theorem State.store_time (s : State) (k n x : Nat) : (s.store k n x).time = s.time := rfl
@[simp] theorem State.store_todo (s : State) (k n x : Nat) : (s.store k n x).todo = s.todo := rfl
@[simp] theorem State.store_tick (s : State) (k n x : Nat) : (s.store k n x).tick = s.tick := rfl
@[simp] theorem State.store_inputs (s : State) (k n x : Nat) : (s.store k n x).inputs = s.inputs := rfl
@[simp] theorem State.store_flight (s : State) (k n x : Nat) : (s.store k n x).flight = s.flight := rfl
@[simp] theorem State.store_cur (s : State) (k n x : Nat) : (s.store k n x).cur = s.cur := rfl
@[simp] theorem State.store_ir (s : State) (k n x : Nat) : (s.store k n x).ir = s.ir := rfl
@[simp] theorem State.store_bad (s : State) (k n x : Nat) : (s.store k n x).bad = s.bad := rfl
@[simp] theorem State.store_cores (s : State) (k n x : Nat) : (s.store k n x).cores = s.cores := rfl
@[simp] theorem State.store_dies (s : State) (k n x : Nat) : (s.store k n x).dies = s.dies := rfl
@[simp] theorem State.store_barriers (s : State) (k n x : Nat) : (s.store k n x).barriers = s.barriers := rfl
@[simp] theorem State.store_barCmds (s : State) (k n x : Nat) : (s.store k n x).barCmds = s.barCmds := rfl
@[simp] theorem State.store_bridges (s : State) (k n x : Nat) : (s.store k n x).bridges = s.bridges := rfl
@[simp] theorem State.store_msgs (s : State) (k n x : Nat) : (s.store k n x).msgs = s.msgs := rfl
@[simp] theorem State.store_pkts (s : State) (k n x : Nat) : (s.store k n x).pkts = s.pkts := rfl
@[simp] theorem State.store_replies (s : State) (k n x : Nat) : (s.store k n x).replies = s.replies := rfl
@[simp] theorem State.store_fins (s : State) (k n x : Nat) : (s.store k n x).fins = s.fins := rfl
@[simp] theorem State.store_nextId (s : State) (k n x : Nat) : (s.store k n x).nextId = s.nextId := rfl
@[simp] theorem State.store_fe (s : State) (k n x : Nat) : (s.store k n x).fe = s.fe := rfl
@[simp] theorem State.store_sys (s : State) (k n x : Nat) : (s.store k n x).sys = s.sys := rfl
@[simp] theorem State.store_harts (s : State) (k n x : Nat) : (s.store k n x).harts = s.harts := rfl
@[simp] theorem State.store_curHart (s : State) (k n x : Nat) : (s.store k n x).curHart = s.curHart := rfl
@[simp] theorem State.store_routers (s : State) (k n x : Nat) : (s.store k n x).routers = s.routers := rfl
@[simp] theorem State.store_msis (s : State) (k n x : Nat) : (s.store k n x).msis = s.msis := rfl
@[simp] theorem State.store_apRead (s : State) (k n x : Nat) : (s.store k n x).apRead = s.apRead := rfl
@[simp] theorem State.store_turns (s : State) (k n x : Nat) : (s.store k n x).turns = s.turns := rfl
@[simp] theorem State.store_msc (s : State) (k n x : Nat) : (s.store k n x).msc = s.msc := rfl
@[simp] theorem State.store_wakes (s : State) (k n x : Nat) : (s.store k n x).wakes = s.wakes := rfl

/-! ### `State.storeBytes` -/

@[simp] theorem State.storeBytes_clock (s : State) (k : Nat) (bs : List Byte) : (s.storeBytes k bs).clock = s.clock := rfl
@[simp] theorem State.storeBytes_time (s : State) (k : Nat) (bs : List Byte) : (s.storeBytes k bs).time = s.time := rfl
@[simp] theorem State.storeBytes_todo (s : State) (k : Nat) (bs : List Byte) : (s.storeBytes k bs).todo = s.todo := rfl
@[simp] theorem State.storeBytes_tick (s : State) (k : Nat) (bs : List Byte) : (s.storeBytes k bs).tick = s.tick := rfl
@[simp] theorem State.storeBytes_inputs (s : State) (k : Nat) (bs : List Byte) : (s.storeBytes k bs).inputs = s.inputs := rfl
@[simp] theorem State.storeBytes_flight (s : State) (k : Nat) (bs : List Byte) : (s.storeBytes k bs).flight = s.flight := rfl
@[simp] theorem State.storeBytes_cur (s : State) (k : Nat) (bs : List Byte) : (s.storeBytes k bs).cur = s.cur := rfl
@[simp] theorem State.storeBytes_ir (s : State) (k : Nat) (bs : List Byte) : (s.storeBytes k bs).ir = s.ir := rfl
@[simp] theorem State.storeBytes_bad (s : State) (k : Nat) (bs : List Byte) : (s.storeBytes k bs).bad = s.bad := rfl
@[simp] theorem State.storeBytes_cores (s : State) (k : Nat) (bs : List Byte) : (s.storeBytes k bs).cores = s.cores := rfl
@[simp] theorem State.storeBytes_dies (s : State) (k : Nat) (bs : List Byte) : (s.storeBytes k bs).dies = s.dies := rfl
@[simp] theorem State.storeBytes_barriers (s : State) (k : Nat) (bs : List Byte) : (s.storeBytes k bs).barriers = s.barriers := rfl
@[simp] theorem State.storeBytes_barCmds (s : State) (k : Nat) (bs : List Byte) : (s.storeBytes k bs).barCmds = s.barCmds := rfl
@[simp] theorem State.storeBytes_bridges (s : State) (k : Nat) (bs : List Byte) : (s.storeBytes k bs).bridges = s.bridges := rfl
@[simp] theorem State.storeBytes_msgs (s : State) (k : Nat) (bs : List Byte) : (s.storeBytes k bs).msgs = s.msgs := rfl
@[simp] theorem State.storeBytes_pkts (s : State) (k : Nat) (bs : List Byte) : (s.storeBytes k bs).pkts = s.pkts := rfl
@[simp] theorem State.storeBytes_replies (s : State) (k : Nat) (bs : List Byte) : (s.storeBytes k bs).replies = s.replies := rfl
@[simp] theorem State.storeBytes_fins (s : State) (k : Nat) (bs : List Byte) : (s.storeBytes k bs).fins = s.fins := rfl
@[simp] theorem State.storeBytes_nextId (s : State) (k : Nat) (bs : List Byte) : (s.storeBytes k bs).nextId = s.nextId := rfl
@[simp] theorem State.storeBytes_fe (s : State) (k : Nat) (bs : List Byte) : (s.storeBytes k bs).fe = s.fe := rfl
@[simp] theorem State.storeBytes_sys (s : State) (k : Nat) (bs : List Byte) : (s.storeBytes k bs).sys = s.sys := rfl
@[simp] theorem State.storeBytes_harts (s : State) (k : Nat) (bs : List Byte) : (s.storeBytes k bs).harts = s.harts := rfl
@[simp] theorem State.storeBytes_curHart (s : State) (k : Nat) (bs : List Byte) : (s.storeBytes k bs).curHart = s.curHart := rfl
@[simp] theorem State.storeBytes_routers (s : State) (k : Nat) (bs : List Byte) : (s.storeBytes k bs).routers = s.routers := rfl
@[simp] theorem State.storeBytes_msis (s : State) (k : Nat) (bs : List Byte) : (s.storeBytes k bs).msis = s.msis := rfl
@[simp] theorem State.storeBytes_apRead (s : State) (k : Nat) (bs : List Byte) : (s.storeBytes k bs).apRead = s.apRead := rfl
@[simp] theorem State.storeBytes_turns (s : State) (k : Nat) (bs : List Byte) : (s.storeBytes k bs).turns = s.turns := rfl
@[simp] theorem State.storeBytes_msc (s : State) (k : Nat) (bs : List Byte) : (s.storeBytes k bs).msc = s.msc := rfl
@[simp] theorem State.storeBytes_wakes (s : State) (k : Nat) (bs : List Byte) : (s.storeBytes k bs).wakes = s.wakes := rfl

/-! ### `State.markBad` -/

@[simp] theorem State.markBad_clock (s : State) (k n : Nat) : (s.markBad k n).clock = s.clock := rfl
@[simp] theorem State.markBad_time (s : State) (k n : Nat) : (s.markBad k n).time = s.time := rfl
@[simp] theorem State.markBad_todo (s : State) (k n : Nat) : (s.markBad k n).todo = s.todo := rfl
@[simp] theorem State.markBad_tick (s : State) (k n : Nat) : (s.markBad k n).tick = s.tick := rfl
@[simp] theorem State.markBad_inputs (s : State) (k n : Nat) : (s.markBad k n).inputs = s.inputs := rfl
@[simp] theorem State.markBad_flight (s : State) (k n : Nat) : (s.markBad k n).flight = s.flight := rfl
@[simp] theorem State.markBad_cur (s : State) (k n : Nat) : (s.markBad k n).cur = s.cur := rfl
@[simp] theorem State.markBad_ir (s : State) (k n : Nat) : (s.markBad k n).ir = s.ir := rfl
@[simp] theorem State.markBad_mem (s : State) (k n : Nat) : (s.markBad k n).mem = s.mem := rfl
@[simp] theorem State.markBad_cores (s : State) (k n : Nat) : (s.markBad k n).cores = s.cores := rfl
@[simp] theorem State.markBad_dies (s : State) (k n : Nat) : (s.markBad k n).dies = s.dies := rfl
@[simp] theorem State.markBad_barriers (s : State) (k n : Nat) : (s.markBad k n).barriers = s.barriers := rfl
@[simp] theorem State.markBad_barCmds (s : State) (k n : Nat) : (s.markBad k n).barCmds = s.barCmds := rfl
@[simp] theorem State.markBad_bridges (s : State) (k n : Nat) : (s.markBad k n).bridges = s.bridges := rfl
@[simp] theorem State.markBad_msgs (s : State) (k n : Nat) : (s.markBad k n).msgs = s.msgs := rfl
@[simp] theorem State.markBad_pkts (s : State) (k n : Nat) : (s.markBad k n).pkts = s.pkts := rfl
@[simp] theorem State.markBad_replies (s : State) (k n : Nat) : (s.markBad k n).replies = s.replies := rfl
@[simp] theorem State.markBad_fins (s : State) (k n : Nat) : (s.markBad k n).fins = s.fins := rfl
@[simp] theorem State.markBad_nextId (s : State) (k n : Nat) : (s.markBad k n).nextId = s.nextId := rfl
@[simp] theorem State.markBad_fe (s : State) (k n : Nat) : (s.markBad k n).fe = s.fe := rfl
@[simp] theorem State.markBad_sys (s : State) (k n : Nat) : (s.markBad k n).sys = s.sys := rfl
@[simp] theorem State.markBad_harts (s : State) (k n : Nat) : (s.markBad k n).harts = s.harts := rfl
@[simp] theorem State.markBad_curHart (s : State) (k n : Nat) : (s.markBad k n).curHart = s.curHart := rfl
@[simp] theorem State.markBad_routers (s : State) (k n : Nat) : (s.markBad k n).routers = s.routers := rfl
@[simp] theorem State.markBad_msis (s : State) (k n : Nat) : (s.markBad k n).msis = s.msis := rfl
@[simp] theorem State.markBad_apRead (s : State) (k n : Nat) : (s.markBad k n).apRead = s.apRead := rfl
@[simp] theorem State.markBad_turns (s : State) (k n : Nat) : (s.markBad k n).turns = s.turns := rfl
@[simp] theorem State.markBad_msc (s : State) (k n : Nat) : (s.markBad k n).msc = s.msc := rfl
@[simp] theorem State.markBad_wakes (s : State) (k n : Nat) : (s.markBad k n).wakes = s.wakes := rfl

/-! ### `State.clearBad` -/

@[simp] theorem State.clearBad_clock (s : State) (k n : Nat) : (s.clearBad k n).clock = s.clock := rfl
@[simp] theorem State.clearBad_time (s : State) (k n : Nat) : (s.clearBad k n).time = s.time := rfl
@[simp] theorem State.clearBad_todo (s : State) (k n : Nat) : (s.clearBad k n).todo = s.todo := rfl
@[simp] theorem State.clearBad_tick (s : State) (k n : Nat) : (s.clearBad k n).tick = s.tick := rfl
@[simp] theorem State.clearBad_inputs (s : State) (k n : Nat) : (s.clearBad k n).inputs = s.inputs := rfl
@[simp] theorem State.clearBad_flight (s : State) (k n : Nat) : (s.clearBad k n).flight = s.flight := rfl
@[simp] theorem State.clearBad_cur (s : State) (k n : Nat) : (s.clearBad k n).cur = s.cur := rfl
@[simp] theorem State.clearBad_ir (s : State) (k n : Nat) : (s.clearBad k n).ir = s.ir := rfl
@[simp] theorem State.clearBad_mem (s : State) (k n : Nat) : (s.clearBad k n).mem = s.mem := rfl
@[simp] theorem State.clearBad_cores (s : State) (k n : Nat) : (s.clearBad k n).cores = s.cores := rfl
@[simp] theorem State.clearBad_dies (s : State) (k n : Nat) : (s.clearBad k n).dies = s.dies := rfl
@[simp] theorem State.clearBad_barriers (s : State) (k n : Nat) : (s.clearBad k n).barriers = s.barriers := rfl
@[simp] theorem State.clearBad_barCmds (s : State) (k n : Nat) : (s.clearBad k n).barCmds = s.barCmds := rfl
@[simp] theorem State.clearBad_bridges (s : State) (k n : Nat) : (s.clearBad k n).bridges = s.bridges := rfl
@[simp] theorem State.clearBad_msgs (s : State) (k n : Nat) : (s.clearBad k n).msgs = s.msgs := rfl
@[simp] theorem State.clearBad_pkts (s : State) (k n : Nat) : (s.clearBad k n).pkts = s.pkts := rfl
@[simp] theorem State.clearBad_replies (s : State) (k n : Nat) : (s.clearBad k n).replies = s.replies := rfl
@[simp] theorem State.clearBad_fins (s : State) (k n : Nat) : (s.clearBad k n).fins = s.fins := rfl
@[simp] theorem State.clearBad_nextId (s : State) (k n : Nat) : (s.clearBad k n).nextId = s.nextId := rfl
@[simp] theorem State.clearBad_fe (s : State) (k n : Nat) : (s.clearBad k n).fe = s.fe := rfl
@[simp] theorem State.clearBad_sys (s : State) (k n : Nat) : (s.clearBad k n).sys = s.sys := rfl
@[simp] theorem State.clearBad_harts (s : State) (k n : Nat) : (s.clearBad k n).harts = s.harts := rfl
@[simp] theorem State.clearBad_curHart (s : State) (k n : Nat) : (s.clearBad k n).curHart = s.curHart := rfl
@[simp] theorem State.clearBad_routers (s : State) (k n : Nat) : (s.clearBad k n).routers = s.routers := rfl
@[simp] theorem State.clearBad_msis (s : State) (k n : Nat) : (s.clearBad k n).msis = s.msis := rfl
@[simp] theorem State.clearBad_apRead (s : State) (k n : Nat) : (s.clearBad k n).apRead = s.apRead := rfl
@[simp] theorem State.clearBad_turns (s : State) (k n : Nat) : (s.clearBad k n).turns = s.turns := rfl
@[simp] theorem State.clearBad_msc (s : State) (k n : Nat) : (s.clearBad k n).msc = s.msc := rfl
@[simp] theorem State.clearBad_wakes (s : State) (k n : Nat) : (s.clearBad k n).wakes = s.wakes := rfl

/-! ### `State.put` -/

@[simp] theorem State.put_clock (s : State) (k : Nat) (bs : List Byte) : (s.put k bs).clock = s.clock := rfl
@[simp] theorem State.put_time (s : State) (k : Nat) (bs : List Byte) : (s.put k bs).time = s.time := rfl
@[simp] theorem State.put_todo (s : State) (k : Nat) (bs : List Byte) : (s.put k bs).todo = s.todo := rfl
@[simp] theorem State.put_tick (s : State) (k : Nat) (bs : List Byte) : (s.put k bs).tick = s.tick := rfl
@[simp] theorem State.put_inputs (s : State) (k : Nat) (bs : List Byte) : (s.put k bs).inputs = s.inputs := rfl
@[simp] theorem State.put_flight (s : State) (k : Nat) (bs : List Byte) : (s.put k bs).flight = s.flight := rfl
@[simp] theorem State.put_cur (s : State) (k : Nat) (bs : List Byte) : (s.put k bs).cur = s.cur := rfl
@[simp] theorem State.put_ir (s : State) (k : Nat) (bs : List Byte) : (s.put k bs).ir = s.ir := rfl
@[simp] theorem State.put_cores (s : State) (k : Nat) (bs : List Byte) : (s.put k bs).cores = s.cores := rfl
@[simp] theorem State.put_dies (s : State) (k : Nat) (bs : List Byte) : (s.put k bs).dies = s.dies := rfl
@[simp] theorem State.put_barriers (s : State) (k : Nat) (bs : List Byte) : (s.put k bs).barriers = s.barriers := rfl
@[simp] theorem State.put_barCmds (s : State) (k : Nat) (bs : List Byte) : (s.put k bs).barCmds = s.barCmds := rfl
@[simp] theorem State.put_bridges (s : State) (k : Nat) (bs : List Byte) : (s.put k bs).bridges = s.bridges := rfl
@[simp] theorem State.put_msgs (s : State) (k : Nat) (bs : List Byte) : (s.put k bs).msgs = s.msgs := rfl
@[simp] theorem State.put_pkts (s : State) (k : Nat) (bs : List Byte) : (s.put k bs).pkts = s.pkts := rfl
@[simp] theorem State.put_replies (s : State) (k : Nat) (bs : List Byte) : (s.put k bs).replies = s.replies := rfl
@[simp] theorem State.put_fins (s : State) (k : Nat) (bs : List Byte) : (s.put k bs).fins = s.fins := rfl
@[simp] theorem State.put_nextId (s : State) (k : Nat) (bs : List Byte) : (s.put k bs).nextId = s.nextId := rfl
@[simp] theorem State.put_fe (s : State) (k : Nat) (bs : List Byte) : (s.put k bs).fe = s.fe := rfl
@[simp] theorem State.put_sys (s : State) (k : Nat) (bs : List Byte) : (s.put k bs).sys = s.sys := rfl
@[simp] theorem State.put_harts (s : State) (k : Nat) (bs : List Byte) : (s.put k bs).harts = s.harts := rfl
@[simp] theorem State.put_curHart (s : State) (k : Nat) (bs : List Byte) : (s.put k bs).curHart = s.curHart := rfl
@[simp] theorem State.put_routers (s : State) (k : Nat) (bs : List Byte) : (s.put k bs).routers = s.routers := rfl
@[simp] theorem State.put_msis (s : State) (k : Nat) (bs : List Byte) : (s.put k bs).msis = s.msis := rfl
@[simp] theorem State.put_apRead (s : State) (k : Nat) (bs : List Byte) : (s.put k bs).apRead = s.apRead := rfl
@[simp] theorem State.put_turns (s : State) (k : Nat) (bs : List Byte) : (s.put k bs).turns = s.turns := rfl
@[simp] theorem State.put_wakes (s : State) (k : Nat) (bs : List Byte) : (s.put k bs).wakes = s.wakes := rfl

@[simp] theorem State.putArea_clock (s : State) (k : Nat) (bs : List Byte) : (s.putArea k bs).clock = s.clock := rfl
@[simp] theorem State.putArea_time (s : State) (k : Nat) (bs : List Byte) : (s.putArea k bs).time = s.time := rfl
@[simp] theorem State.putArea_todo (s : State) (k : Nat) (bs : List Byte) : (s.putArea k bs).todo = s.todo := rfl
@[simp] theorem State.putArea_tick (s : State) (k : Nat) (bs : List Byte) : (s.putArea k bs).tick = s.tick := rfl
@[simp] theorem State.putArea_inputs (s : State) (k : Nat) (bs : List Byte) : (s.putArea k bs).inputs = s.inputs := rfl
@[simp] theorem State.putArea_flight (s : State) (k : Nat) (bs : List Byte) : (s.putArea k bs).flight = s.flight := rfl
@[simp] theorem State.putArea_cur (s : State) (k : Nat) (bs : List Byte) : (s.putArea k bs).cur = s.cur := rfl
@[simp] theorem State.putArea_ir (s : State) (k : Nat) (bs : List Byte) : (s.putArea k bs).ir = s.ir := rfl
@[simp] theorem State.putArea_cores (s : State) (k : Nat) (bs : List Byte) : (s.putArea k bs).cores = s.cores := rfl
@[simp] theorem State.putArea_dies (s : State) (k : Nat) (bs : List Byte) : (s.putArea k bs).dies = s.dies := rfl
@[simp] theorem State.putArea_barriers (s : State) (k : Nat) (bs : List Byte) : (s.putArea k bs).barriers = s.barriers := rfl
@[simp] theorem State.putArea_barCmds (s : State) (k : Nat) (bs : List Byte) : (s.putArea k bs).barCmds = s.barCmds := rfl
@[simp] theorem State.putArea_bridges (s : State) (k : Nat) (bs : List Byte) : (s.putArea k bs).bridges = s.bridges := rfl
@[simp] theorem State.putArea_msgs (s : State) (k : Nat) (bs : List Byte) : (s.putArea k bs).msgs = s.msgs := rfl
@[simp] theorem State.putArea_pkts (s : State) (k : Nat) (bs : List Byte) : (s.putArea k bs).pkts = s.pkts := rfl
@[simp] theorem State.putArea_replies (s : State) (k : Nat) (bs : List Byte) : (s.putArea k bs).replies = s.replies := rfl
@[simp] theorem State.putArea_fins (s : State) (k : Nat) (bs : List Byte) : (s.putArea k bs).fins = s.fins := rfl
@[simp] theorem State.putArea_nextId (s : State) (k : Nat) (bs : List Byte) : (s.putArea k bs).nextId = s.nextId := rfl
@[simp] theorem State.putArea_fe (s : State) (k : Nat) (bs : List Byte) : (s.putArea k bs).fe = s.fe := rfl
@[simp] theorem State.putArea_sys (s : State) (k : Nat) (bs : List Byte) : (s.putArea k bs).sys = s.sys := rfl
@[simp] theorem State.putArea_harts (s : State) (k : Nat) (bs : List Byte) : (s.putArea k bs).harts = s.harts := rfl
@[simp] theorem State.putArea_curHart (s : State) (k : Nat) (bs : List Byte) : (s.putArea k bs).curHart = s.curHart := rfl
@[simp] theorem State.putArea_routers (s : State) (k : Nat) (bs : List Byte) : (s.putArea k bs).routers = s.routers := rfl
@[simp] theorem State.putArea_msis (s : State) (k : Nat) (bs : List Byte) : (s.putArea k bs).msis = s.msis := rfl
@[simp] theorem State.putArea_apRead (s : State) (k : Nat) (bs : List Byte) : (s.putArea k bs).apRead = s.apRead := rfl
@[simp] theorem State.putArea_turns (s : State) (k : Nat) (bs : List Byte) : (s.putArea k bs).turns = s.turns := rfl
@[simp] theorem State.putArea_wakes (s : State) (k : Nat) (bs : List Byte) : (s.putArea k bs).wakes = s.wakes := rfl
@[simp] theorem State.putArea_bad (s : State) (k : Nat) (bs : List Byte) : (s.putArea k bs).bad = s.bad := rfl

/-! ### `State.setGang` -/

@[simp] theorem State.setGang_clock (s : State) (c x : Nat) (g : Gang) : (s.setGang c x g).clock = s.clock := rfl
@[simp] theorem State.setGang_time (s : State) (c x : Nat) (g : Gang) : (s.setGang c x g).time = s.time := rfl
@[simp] theorem State.setGang_todo (s : State) (c x : Nat) (g : Gang) : (s.setGang c x g).todo = s.todo := rfl
@[simp] theorem State.setGang_tick (s : State) (c x : Nat) (g : Gang) : (s.setGang c x g).tick = s.tick := rfl
@[simp] theorem State.setGang_inputs (s : State) (c x : Nat) (g : Gang) : (s.setGang c x g).inputs = s.inputs := rfl
@[simp] theorem State.setGang_flight (s : State) (c x : Nat) (g : Gang) : (s.setGang c x g).flight = s.flight := rfl
@[simp] theorem State.setGang_cur (s : State) (c x : Nat) (g : Gang) : (s.setGang c x g).cur = s.cur := rfl
@[simp] theorem State.setGang_ir (s : State) (c x : Nat) (g : Gang) : (s.setGang c x g).ir = s.ir := rfl
@[simp] theorem State.setGang_mem (s : State) (c x : Nat) (g : Gang) : (s.setGang c x g).mem = s.mem := rfl
@[simp] theorem State.setGang_bad (s : State) (c x : Nat) (g : Gang) : (s.setGang c x g).bad = s.bad := rfl
@[simp] theorem State.setGang_dies (s : State) (c x : Nat) (g : Gang) : (s.setGang c x g).dies = s.dies := rfl
@[simp] theorem State.setGang_barriers (s : State) (c x : Nat) (g : Gang) : (s.setGang c x g).barriers = s.barriers := rfl
@[simp] theorem State.setGang_barCmds (s : State) (c x : Nat) (g : Gang) : (s.setGang c x g).barCmds = s.barCmds := rfl
@[simp] theorem State.setGang_bridges (s : State) (c x : Nat) (g : Gang) : (s.setGang c x g).bridges = s.bridges := rfl
@[simp] theorem State.setGang_msgs (s : State) (c x : Nat) (g : Gang) : (s.setGang c x g).msgs = s.msgs := rfl
@[simp] theorem State.setGang_pkts (s : State) (c x : Nat) (g : Gang) : (s.setGang c x g).pkts = s.pkts := rfl
@[simp] theorem State.setGang_replies (s : State) (c x : Nat) (g : Gang) : (s.setGang c x g).replies = s.replies := rfl
@[simp] theorem State.setGang_fins (s : State) (c x : Nat) (g : Gang) : (s.setGang c x g).fins = s.fins := rfl
@[simp] theorem State.setGang_nextId (s : State) (c x : Nat) (g : Gang) : (s.setGang c x g).nextId = s.nextId := rfl
@[simp] theorem State.setGang_fe (s : State) (c x : Nat) (g : Gang) : (s.setGang c x g).fe = s.fe := rfl
@[simp] theorem State.setGang_sys (s : State) (c x : Nat) (g : Gang) : (s.setGang c x g).sys = s.sys := rfl
@[simp] theorem State.setGang_harts (s : State) (c x : Nat) (g : Gang) : (s.setGang c x g).harts = s.harts := rfl
@[simp] theorem State.setGang_curHart (s : State) (c x : Nat) (g : Gang) : (s.setGang c x g).curHart = s.curHart := rfl
@[simp] theorem State.setGang_routers (s : State) (c x : Nat) (g : Gang) : (s.setGang c x g).routers = s.routers := rfl
@[simp] theorem State.setGang_msis (s : State) (c x : Nat) (g : Gang) : (s.setGang c x g).msis = s.msis := rfl
@[simp] theorem State.setGang_apRead (s : State) (c x : Nat) (g : Gang) : (s.setGang c x g).apRead = s.apRead := rfl
@[simp] theorem State.setGang_turns (s : State) (c x : Nat) (g : Gang) : (s.setGang c x g).turns = s.turns := rfl
@[simp] theorem State.setGang_msc (s : State) (c x : Nat) (g : Gang) : (s.setGang c x g).msc = s.msc := rfl
@[simp] theorem State.setGang_wakes (s : State) (c x : Nat) (g : Gang) : (s.setGang c x g).wakes = s.wakes := rfl

/-! ### `State.setCrew` -/

@[simp] theorem State.setCrew_clock (s : State) (c q : Nat) (w : Crew) : (s.setCrew c q w).clock = s.clock := rfl
@[simp] theorem State.setCrew_time (s : State) (c q : Nat) (w : Crew) : (s.setCrew c q w).time = s.time := rfl
@[simp] theorem State.setCrew_todo (s : State) (c q : Nat) (w : Crew) : (s.setCrew c q w).todo = s.todo := rfl
@[simp] theorem State.setCrew_tick (s : State) (c q : Nat) (w : Crew) : (s.setCrew c q w).tick = s.tick := rfl
@[simp] theorem State.setCrew_inputs (s : State) (c q : Nat) (w : Crew) : (s.setCrew c q w).inputs = s.inputs := rfl
@[simp] theorem State.setCrew_flight (s : State) (c q : Nat) (w : Crew) : (s.setCrew c q w).flight = s.flight := rfl
@[simp] theorem State.setCrew_cur (s : State) (c q : Nat) (w : Crew) : (s.setCrew c q w).cur = s.cur := rfl
@[simp] theorem State.setCrew_ir (s : State) (c q : Nat) (w : Crew) : (s.setCrew c q w).ir = s.ir := rfl
@[simp] theorem State.setCrew_mem (s : State) (c q : Nat) (w : Crew) : (s.setCrew c q w).mem = s.mem := rfl
@[simp] theorem State.setCrew_bad (s : State) (c q : Nat) (w : Crew) : (s.setCrew c q w).bad = s.bad := rfl
@[simp] theorem State.setCrew_dies (s : State) (c q : Nat) (w : Crew) : (s.setCrew c q w).dies = s.dies := rfl
@[simp] theorem State.setCrew_barriers (s : State) (c q : Nat) (w : Crew) : (s.setCrew c q w).barriers = s.barriers := rfl
@[simp] theorem State.setCrew_barCmds (s : State) (c q : Nat) (w : Crew) : (s.setCrew c q w).barCmds = s.barCmds := rfl
@[simp] theorem State.setCrew_bridges (s : State) (c q : Nat) (w : Crew) : (s.setCrew c q w).bridges = s.bridges := rfl
@[simp] theorem State.setCrew_msgs (s : State) (c q : Nat) (w : Crew) : (s.setCrew c q w).msgs = s.msgs := rfl
@[simp] theorem State.setCrew_pkts (s : State) (c q : Nat) (w : Crew) : (s.setCrew c q w).pkts = s.pkts := rfl
@[simp] theorem State.setCrew_replies (s : State) (c q : Nat) (w : Crew) : (s.setCrew c q w).replies = s.replies := rfl
@[simp] theorem State.setCrew_fins (s : State) (c q : Nat) (w : Crew) : (s.setCrew c q w).fins = s.fins := rfl
@[simp] theorem State.setCrew_nextId (s : State) (c q : Nat) (w : Crew) : (s.setCrew c q w).nextId = s.nextId := rfl
@[simp] theorem State.setCrew_fe (s : State) (c q : Nat) (w : Crew) : (s.setCrew c q w).fe = s.fe := rfl
@[simp] theorem State.setCrew_sys (s : State) (c q : Nat) (w : Crew) : (s.setCrew c q w).sys = s.sys := rfl
@[simp] theorem State.setCrew_harts (s : State) (c q : Nat) (w : Crew) : (s.setCrew c q w).harts = s.harts := rfl
@[simp] theorem State.setCrew_curHart (s : State) (c q : Nat) (w : Crew) : (s.setCrew c q w).curHart = s.curHart := rfl
@[simp] theorem State.setCrew_routers (s : State) (c q : Nat) (w : Crew) : (s.setCrew c q w).routers = s.routers := rfl
@[simp] theorem State.setCrew_msis (s : State) (c q : Nat) (w : Crew) : (s.setCrew c q w).msis = s.msis := rfl
@[simp] theorem State.setCrew_apRead (s : State) (c q : Nat) (w : Crew) : (s.setCrew c q w).apRead = s.apRead := rfl
@[simp] theorem State.setCrew_turns (s : State) (c q : Nat) (w : Crew) : (s.setCrew c q w).turns = s.turns := rfl
@[simp] theorem State.setCrew_msc (s : State) (c q : Nat) (w : Crew) : (s.setCrew c q w).msc = s.msc := rfl
@[simp] theorem State.setCrew_wakes (s : State) (c q : Nat) (w : Crew) : (s.setCrew c q w).wakes = s.wakes := rfl

/-! ### `State.freeSlot` -/

@[simp] theorem State.freeSlot_clock (s : State) (c x : Nat) : (s.freeSlot c x).clock = s.clock := rfl
@[simp] theorem State.freeSlot_time (s : State) (c x : Nat) : (s.freeSlot c x).time = s.time := rfl
@[simp] theorem State.freeSlot_todo (s : State) (c x : Nat) : (s.freeSlot c x).todo = s.todo := rfl
@[simp] theorem State.freeSlot_tick (s : State) (c x : Nat) : (s.freeSlot c x).tick = s.tick := rfl
@[simp] theorem State.freeSlot_inputs (s : State) (c x : Nat) : (s.freeSlot c x).inputs = s.inputs := rfl
@[simp] theorem State.freeSlot_flight (s : State) (c x : Nat) : (s.freeSlot c x).flight = s.flight := rfl
@[simp] theorem State.freeSlot_cur (s : State) (c x : Nat) : (s.freeSlot c x).cur = s.cur := rfl
@[simp] theorem State.freeSlot_ir (s : State) (c x : Nat) : (s.freeSlot c x).ir = s.ir := rfl
@[simp] theorem State.freeSlot_mem (s : State) (c x : Nat) : (s.freeSlot c x).mem = s.mem := rfl
@[simp] theorem State.freeSlot_bad (s : State) (c x : Nat) : (s.freeSlot c x).bad = s.bad := rfl
@[simp] theorem State.freeSlot_dies (s : State) (c x : Nat) : (s.freeSlot c x).dies = s.dies := rfl
@[simp] theorem State.freeSlot_barriers (s : State) (c x : Nat) : (s.freeSlot c x).barriers = s.barriers := rfl
@[simp] theorem State.freeSlot_barCmds (s : State) (c x : Nat) : (s.freeSlot c x).barCmds = s.barCmds := rfl
@[simp] theorem State.freeSlot_bridges (s : State) (c x : Nat) : (s.freeSlot c x).bridges = s.bridges := rfl
@[simp] theorem State.freeSlot_msgs (s : State) (c x : Nat) : (s.freeSlot c x).msgs = s.msgs := rfl
@[simp] theorem State.freeSlot_pkts (s : State) (c x : Nat) : (s.freeSlot c x).pkts = s.pkts := rfl
@[simp] theorem State.freeSlot_replies (s : State) (c x : Nat) : (s.freeSlot c x).replies = s.replies := rfl
@[simp] theorem State.freeSlot_fins (s : State) (c x : Nat) : (s.freeSlot c x).fins = s.fins := rfl
@[simp] theorem State.freeSlot_nextId (s : State) (c x : Nat) : (s.freeSlot c x).nextId = s.nextId := rfl
@[simp] theorem State.freeSlot_fe (s : State) (c x : Nat) : (s.freeSlot c x).fe = s.fe := rfl
@[simp] theorem State.freeSlot_sys (s : State) (c x : Nat) : (s.freeSlot c x).sys = s.sys := rfl
@[simp] theorem State.freeSlot_harts (s : State) (c x : Nat) : (s.freeSlot c x).harts = s.harts := rfl
@[simp] theorem State.freeSlot_curHart (s : State) (c x : Nat) : (s.freeSlot c x).curHart = s.curHart := rfl
@[simp] theorem State.freeSlot_routers (s : State) (c x : Nat) : (s.freeSlot c x).routers = s.routers := rfl
@[simp] theorem State.freeSlot_msis (s : State) (c x : Nat) : (s.freeSlot c x).msis = s.msis := rfl
@[simp] theorem State.freeSlot_apRead (s : State) (c x : Nat) : (s.freeSlot c x).apRead = s.apRead := rfl
@[simp] theorem State.freeSlot_turns (s : State) (c x : Nat) : (s.freeSlot c x).turns = s.turns := rfl
@[simp] theorem State.freeSlot_msc (s : State) (c x : Nat) : (s.freeSlot c x).msc = s.msc := rfl
@[simp] theorem State.freeSlot_wakes (s : State) (c x : Nat) : (s.freeSlot c x).wakes = s.wakes := rfl

/-! ### `State.setRing` -/

@[simp] theorem State.setRing_clock (s : State) (i : RingId) (r : Ring) : (s.setRing i r).clock = s.clock := by cases i <;> rfl
@[simp] theorem State.setRing_time (s : State) (i : RingId) (r : Ring) : (s.setRing i r).time = s.time := by cases i <;> rfl
@[simp] theorem State.setRing_todo (s : State) (i : RingId) (r : Ring) : (s.setRing i r).todo = s.todo := by cases i <;> rfl
@[simp] theorem State.setRing_tick (s : State) (i : RingId) (r : Ring) : (s.setRing i r).tick = s.tick := by cases i <;> rfl
@[simp] theorem State.setRing_inputs (s : State) (i : RingId) (r : Ring) : (s.setRing i r).inputs = s.inputs := by cases i <;> rfl
@[simp] theorem State.setRing_flight (s : State) (i : RingId) (r : Ring) : (s.setRing i r).flight = s.flight := by cases i <;> rfl
@[simp] theorem State.setRing_turns (s : State) (i : RingId) (r : Ring) : (s.setRing i r).turns = s.turns := by cases i <;> rfl
@[simp] theorem State.setRing_cur (s : State) (i : RingId) (r : Ring) : (s.setRing i r).cur = s.cur := by cases i <;> rfl
@[simp] theorem State.setRing_ir (s : State) (i : RingId) (r : Ring) : (s.setRing i r).ir = s.ir := by cases i <;> rfl
@[simp] theorem State.setRing_mem (s : State) (i : RingId) (r : Ring) : (s.setRing i r).mem = s.mem := by cases i <;> rfl
@[simp] theorem State.setRing_bad (s : State) (i : RingId) (r : Ring) : (s.setRing i r).bad = s.bad := by cases i <;> rfl
@[simp] theorem State.setRing_msc (s : State) (i : RingId) (r : Ring) : (s.setRing i r).msc = s.msc := by cases i <;> rfl
@[simp] theorem State.setRing_barriers (s : State) (i : RingId) (r : Ring) : (s.setRing i r).barriers = s.barriers := by cases i <;> rfl
@[simp] theorem State.setRing_barCmds (s : State) (i : RingId) (r : Ring) : (s.setRing i r).barCmds = s.barCmds := by cases i <;> rfl
@[simp] theorem State.setRing_bridges (s : State) (i : RingId) (r : Ring) : (s.setRing i r).bridges = s.bridges := by cases i <;> rfl
@[simp] theorem State.setRing_msgs (s : State) (i : RingId) (r : Ring) : (s.setRing i r).msgs = s.msgs := by cases i <;> rfl
@[simp] theorem State.setRing_pkts (s : State) (i : RingId) (r : Ring) : (s.setRing i r).pkts = s.pkts := by cases i <;> rfl
@[simp] theorem State.setRing_replies (s : State) (i : RingId) (r : Ring) : (s.setRing i r).replies = s.replies := by cases i <;> rfl
@[simp] theorem State.setRing_fins (s : State) (i : RingId) (r : Ring) : (s.setRing i r).fins = s.fins := by cases i <;> rfl
@[simp] theorem State.setRing_nextId (s : State) (i : RingId) (r : Ring) : (s.setRing i r).nextId = s.nextId := by cases i <;> rfl
@[simp] theorem State.setRing_fe (s : State) (i : RingId) (r : Ring) : (s.setRing i r).fe = s.fe := by cases i <;> rfl
@[simp] theorem State.setRing_sys (s : State) (i : RingId) (r : Ring) : (s.setRing i r).sys = s.sys := by cases i <;> rfl
@[simp] theorem State.setRing_harts (s : State) (i : RingId) (r : Ring) : (s.setRing i r).harts = s.harts := by cases i <;> rfl
@[simp] theorem State.setRing_curHart (s : State) (i : RingId) (r : Ring) : (s.setRing i r).curHart = s.curHart := by cases i <;> rfl
@[simp] theorem State.setRing_routers (s : State) (i : RingId) (r : Ring) : (s.setRing i r).routers = s.routers := by cases i <;> rfl
@[simp] theorem State.setRing_wakes (s : State) (i : RingId) (r : Ring) : (s.setRing i r).wakes = s.wakes := by cases i <;> rfl
@[simp] theorem State.setRing_msis (s : State) (i : RingId) (r : Ring) : (s.setRing i r).msis = s.msis := by cases i <;> rfl
@[simp] theorem State.setRing_apRead (s : State) (i : RingId) (r : Ring) : (s.setRing i r).apRead = s.apRead := by cases i <;> rfl

/-! ### `State.modGang` -/

@[simp] theorem State.modGang_clock (s : State) (c x : Nat) (f : Gang → Gang) : (s.modGang c x f).clock = s.clock := by unfold State.modGang; split <;> rfl
@[simp] theorem State.modGang_time (s : State) (c x : Nat) (f : Gang → Gang) : (s.modGang c x f).time = s.time := by unfold State.modGang; split <;> rfl
@[simp] theorem State.modGang_todo (s : State) (c x : Nat) (f : Gang → Gang) : (s.modGang c x f).todo = s.todo := by unfold State.modGang; split <;> rfl
@[simp] theorem State.modGang_tick (s : State) (c x : Nat) (f : Gang → Gang) : (s.modGang c x f).tick = s.tick := by unfold State.modGang; split <;> rfl
@[simp] theorem State.modGang_inputs (s : State) (c x : Nat) (f : Gang → Gang) : (s.modGang c x f).inputs = s.inputs := by unfold State.modGang; split <;> rfl
@[simp] theorem State.modGang_flight (s : State) (c x : Nat) (f : Gang → Gang) : (s.modGang c x f).flight = s.flight := by unfold State.modGang; split <;> rfl
@[simp] theorem State.modGang_cur (s : State) (c x : Nat) (f : Gang → Gang) : (s.modGang c x f).cur = s.cur := by unfold State.modGang; split <;> rfl
@[simp] theorem State.modGang_ir (s : State) (c x : Nat) (f : Gang → Gang) : (s.modGang c x f).ir = s.ir := by unfold State.modGang; split <;> rfl
@[simp] theorem State.modGang_mem (s : State) (c x : Nat) (f : Gang → Gang) : (s.modGang c x f).mem = s.mem := by unfold State.modGang; split <;> rfl
@[simp] theorem State.modGang_bad (s : State) (c x : Nat) (f : Gang → Gang) : (s.modGang c x f).bad = s.bad := by unfold State.modGang; split <;> rfl
@[simp] theorem State.modGang_dies (s : State) (c x : Nat) (f : Gang → Gang) : (s.modGang c x f).dies = s.dies := by unfold State.modGang; split <;> rfl
@[simp] theorem State.modGang_barriers (s : State) (c x : Nat) (f : Gang → Gang) : (s.modGang c x f).barriers = s.barriers := by unfold State.modGang; split <;> rfl
@[simp] theorem State.modGang_barCmds (s : State) (c x : Nat) (f : Gang → Gang) : (s.modGang c x f).barCmds = s.barCmds := by unfold State.modGang; split <;> rfl
@[simp] theorem State.modGang_bridges (s : State) (c x : Nat) (f : Gang → Gang) : (s.modGang c x f).bridges = s.bridges := by unfold State.modGang; split <;> rfl
@[simp] theorem State.modGang_msgs (s : State) (c x : Nat) (f : Gang → Gang) : (s.modGang c x f).msgs = s.msgs := by unfold State.modGang; split <;> rfl
@[simp] theorem State.modGang_pkts (s : State) (c x : Nat) (f : Gang → Gang) : (s.modGang c x f).pkts = s.pkts := by unfold State.modGang; split <;> rfl
@[simp] theorem State.modGang_replies (s : State) (c x : Nat) (f : Gang → Gang) : (s.modGang c x f).replies = s.replies := by unfold State.modGang; split <;> rfl
@[simp] theorem State.modGang_fins (s : State) (c x : Nat) (f : Gang → Gang) : (s.modGang c x f).fins = s.fins := by unfold State.modGang; split <;> rfl
@[simp] theorem State.modGang_nextId (s : State) (c x : Nat) (f : Gang → Gang) : (s.modGang c x f).nextId = s.nextId := by unfold State.modGang; split <;> rfl
@[simp] theorem State.modGang_fe (s : State) (c x : Nat) (f : Gang → Gang) : (s.modGang c x f).fe = s.fe := by unfold State.modGang; split <;> rfl
@[simp] theorem State.modGang_sys (s : State) (c x : Nat) (f : Gang → Gang) : (s.modGang c x f).sys = s.sys := by unfold State.modGang; split <;> rfl
@[simp] theorem State.modGang_harts (s : State) (c x : Nat) (f : Gang → Gang) : (s.modGang c x f).harts = s.harts := by unfold State.modGang; split <;> rfl
@[simp] theorem State.modGang_curHart (s : State) (c x : Nat) (f : Gang → Gang) : (s.modGang c x f).curHart = s.curHart := by unfold State.modGang; split <;> rfl
@[simp] theorem State.modGang_routers (s : State) (c x : Nat) (f : Gang → Gang) : (s.modGang c x f).routers = s.routers := by unfold State.modGang; split <;> rfl
@[simp] theorem State.modGang_msis (s : State) (c x : Nat) (f : Gang → Gang) : (s.modGang c x f).msis = s.msis := by unfold State.modGang; split <;> rfl
@[simp] theorem State.modGang_apRead (s : State) (c x : Nat) (f : Gang → Gang) : (s.modGang c x f).apRead = s.apRead := by unfold State.modGang; split <;> rfl
@[simp] theorem State.modGang_turns (s : State) (c x : Nat) (f : Gang → Gang) : (s.modGang c x f).turns = s.turns := by unfold State.modGang; split <;> rfl
@[simp] theorem State.modGang_msc (s : State) (c x : Nat) (f : Gang → Gang) : (s.modGang c x f).msc = s.msc := by unfold State.modGang; split <;> rfl
@[simp] theorem State.modGang_wakes (s : State) (c x : Nat) (f : Gang → Gang) : (s.modGang c x f).wakes = s.wakes := by unfold State.modGang; split <;> rfl

/-! ### `State.modCrew` -/

@[simp] theorem State.modCrew_clock (s : State) (c q : Nat) (f : Crew → Crew) : (s.modCrew c q f).clock = s.clock := by unfold State.modCrew; split <;> rfl
@[simp] theorem State.modCrew_time (s : State) (c q : Nat) (f : Crew → Crew) : (s.modCrew c q f).time = s.time := by unfold State.modCrew; split <;> rfl
@[simp] theorem State.modCrew_todo (s : State) (c q : Nat) (f : Crew → Crew) : (s.modCrew c q f).todo = s.todo := by unfold State.modCrew; split <;> rfl
@[simp] theorem State.modCrew_tick (s : State) (c q : Nat) (f : Crew → Crew) : (s.modCrew c q f).tick = s.tick := by unfold State.modCrew; split <;> rfl
@[simp] theorem State.modCrew_inputs (s : State) (c q : Nat) (f : Crew → Crew) : (s.modCrew c q f).inputs = s.inputs := by unfold State.modCrew; split <;> rfl
@[simp] theorem State.modCrew_flight (s : State) (c q : Nat) (f : Crew → Crew) : (s.modCrew c q f).flight = s.flight := by unfold State.modCrew; split <;> rfl
@[simp] theorem State.modCrew_cur (s : State) (c q : Nat) (f : Crew → Crew) : (s.modCrew c q f).cur = s.cur := by unfold State.modCrew; split <;> rfl
@[simp] theorem State.modCrew_ir (s : State) (c q : Nat) (f : Crew → Crew) : (s.modCrew c q f).ir = s.ir := by unfold State.modCrew; split <;> rfl
@[simp] theorem State.modCrew_mem (s : State) (c q : Nat) (f : Crew → Crew) : (s.modCrew c q f).mem = s.mem := by unfold State.modCrew; split <;> rfl
@[simp] theorem State.modCrew_bad (s : State) (c q : Nat) (f : Crew → Crew) : (s.modCrew c q f).bad = s.bad := by unfold State.modCrew; split <;> rfl
@[simp] theorem State.modCrew_dies (s : State) (c q : Nat) (f : Crew → Crew) : (s.modCrew c q f).dies = s.dies := by unfold State.modCrew; split <;> rfl
@[simp] theorem State.modCrew_barriers (s : State) (c q : Nat) (f : Crew → Crew) : (s.modCrew c q f).barriers = s.barriers := by unfold State.modCrew; split <;> rfl
@[simp] theorem State.modCrew_barCmds (s : State) (c q : Nat) (f : Crew → Crew) : (s.modCrew c q f).barCmds = s.barCmds := by unfold State.modCrew; split <;> rfl
@[simp] theorem State.modCrew_bridges (s : State) (c q : Nat) (f : Crew → Crew) : (s.modCrew c q f).bridges = s.bridges := by unfold State.modCrew; split <;> rfl
@[simp] theorem State.modCrew_msgs (s : State) (c q : Nat) (f : Crew → Crew) : (s.modCrew c q f).msgs = s.msgs := by unfold State.modCrew; split <;> rfl
@[simp] theorem State.modCrew_pkts (s : State) (c q : Nat) (f : Crew → Crew) : (s.modCrew c q f).pkts = s.pkts := by unfold State.modCrew; split <;> rfl
@[simp] theorem State.modCrew_replies (s : State) (c q : Nat) (f : Crew → Crew) : (s.modCrew c q f).replies = s.replies := by unfold State.modCrew; split <;> rfl
@[simp] theorem State.modCrew_fins (s : State) (c q : Nat) (f : Crew → Crew) : (s.modCrew c q f).fins = s.fins := by unfold State.modCrew; split <;> rfl
@[simp] theorem State.modCrew_nextId (s : State) (c q : Nat) (f : Crew → Crew) : (s.modCrew c q f).nextId = s.nextId := by unfold State.modCrew; split <;> rfl
@[simp] theorem State.modCrew_fe (s : State) (c q : Nat) (f : Crew → Crew) : (s.modCrew c q f).fe = s.fe := by unfold State.modCrew; split <;> rfl
@[simp] theorem State.modCrew_sys (s : State) (c q : Nat) (f : Crew → Crew) : (s.modCrew c q f).sys = s.sys := by unfold State.modCrew; split <;> rfl
@[simp] theorem State.modCrew_harts (s : State) (c q : Nat) (f : Crew → Crew) : (s.modCrew c q f).harts = s.harts := by unfold State.modCrew; split <;> rfl
@[simp] theorem State.modCrew_curHart (s : State) (c q : Nat) (f : Crew → Crew) : (s.modCrew c q f).curHart = s.curHart := by unfold State.modCrew; split <;> rfl
@[simp] theorem State.modCrew_routers (s : State) (c q : Nat) (f : Crew → Crew) : (s.modCrew c q f).routers = s.routers := by unfold State.modCrew; split <;> rfl
@[simp] theorem State.modCrew_msis (s : State) (c q : Nat) (f : Crew → Crew) : (s.modCrew c q f).msis = s.msis := by unfold State.modCrew; split <;> rfl
@[simp] theorem State.modCrew_apRead (s : State) (c q : Nat) (f : Crew → Crew) : (s.modCrew c q f).apRead = s.apRead := by unfold State.modCrew; split <;> rfl
@[simp] theorem State.modCrew_turns (s : State) (c q : Nat) (f : Crew → Crew) : (s.modCrew c q f).turns = s.turns := by unfold State.modCrew; split <;> rfl
@[simp] theorem State.modCrew_msc (s : State) (c q : Nat) (f : Crew → Crew) : (s.modCrew c q f).msc = s.msc := by unfold State.modCrew; split <;> rfl
@[simp] theorem State.modCrew_wakes (s : State) (c q : Nat) (f : Crew → Crew) : (s.modCrew c q f).wakes = s.wakes := by unfold State.modCrew; split <;> rfl

/-! ### `State.setVreg` -/

@[simp] theorem State.setVreg_clock (s : State) (c x n : Nat) (r : VReg) : (s.setVreg c x n r).clock = s.clock := by unfold State.setVreg; split <;> simp
@[simp] theorem State.setVreg_time (s : State) (c x n : Nat) (r : VReg) : (s.setVreg c x n r).time = s.time := by unfold State.setVreg; split <;> simp
@[simp] theorem State.setVreg_todo (s : State) (c x n : Nat) (r : VReg) : (s.setVreg c x n r).todo = s.todo := by unfold State.setVreg; split <;> simp
@[simp] theorem State.setVreg_tick (s : State) (c x n : Nat) (r : VReg) : (s.setVreg c x n r).tick = s.tick := by unfold State.setVreg; split <;> simp
@[simp] theorem State.setVreg_inputs (s : State) (c x n : Nat) (r : VReg) : (s.setVreg c x n r).inputs = s.inputs := by unfold State.setVreg; split <;> simp
@[simp] theorem State.setVreg_flight (s : State) (c x n : Nat) (r : VReg) : (s.setVreg c x n r).flight = s.flight := by unfold State.setVreg; split <;> simp
@[simp] theorem State.setVreg_cur (s : State) (c x n : Nat) (r : VReg) : (s.setVreg c x n r).cur = s.cur := by unfold State.setVreg; split <;> simp
@[simp] theorem State.setVreg_ir (s : State) (c x n : Nat) (r : VReg) : (s.setVreg c x n r).ir = s.ir := by unfold State.setVreg; split <;> simp
@[simp] theorem State.setVreg_mem (s : State) (c x n : Nat) (r : VReg) : (s.setVreg c x n r).mem = s.mem := by unfold State.setVreg; split <;> simp
@[simp] theorem State.setVreg_bad (s : State) (c x n : Nat) (r : VReg) : (s.setVreg c x n r).bad = s.bad := by unfold State.setVreg; split <;> simp
@[simp] theorem State.setVreg_dies (s : State) (c x n : Nat) (r : VReg) : (s.setVreg c x n r).dies = s.dies := by unfold State.setVreg; split <;> simp
@[simp] theorem State.setVreg_barriers (s : State) (c x n : Nat) (r : VReg) : (s.setVreg c x n r).barriers = s.barriers := by unfold State.setVreg; split <;> simp
@[simp] theorem State.setVreg_barCmds (s : State) (c x n : Nat) (r : VReg) : (s.setVreg c x n r).barCmds = s.barCmds := by unfold State.setVreg; split <;> simp
@[simp] theorem State.setVreg_bridges (s : State) (c x n : Nat) (r : VReg) : (s.setVreg c x n r).bridges = s.bridges := by unfold State.setVreg; split <;> simp
@[simp] theorem State.setVreg_msgs (s : State) (c x n : Nat) (r : VReg) : (s.setVreg c x n r).msgs = s.msgs := by unfold State.setVreg; split <;> simp
@[simp] theorem State.setVreg_pkts (s : State) (c x n : Nat) (r : VReg) : (s.setVreg c x n r).pkts = s.pkts := by unfold State.setVreg; split <;> simp
@[simp] theorem State.setVreg_replies (s : State) (c x n : Nat) (r : VReg) : (s.setVreg c x n r).replies = s.replies := by unfold State.setVreg; split <;> simp
@[simp] theorem State.setVreg_fins (s : State) (c x n : Nat) (r : VReg) : (s.setVreg c x n r).fins = s.fins := by unfold State.setVreg; split <;> simp
@[simp] theorem State.setVreg_nextId (s : State) (c x n : Nat) (r : VReg) : (s.setVreg c x n r).nextId = s.nextId := by unfold State.setVreg; split <;> simp
@[simp] theorem State.setVreg_fe (s : State) (c x n : Nat) (r : VReg) : (s.setVreg c x n r).fe = s.fe := by unfold State.setVreg; split <;> simp
@[simp] theorem State.setVreg_sys (s : State) (c x n : Nat) (r : VReg) : (s.setVreg c x n r).sys = s.sys := by unfold State.setVreg; split <;> simp
@[simp] theorem State.setVreg_harts (s : State) (c x n : Nat) (r : VReg) : (s.setVreg c x n r).harts = s.harts := by unfold State.setVreg; split <;> simp
@[simp] theorem State.setVreg_curHart (s : State) (c x n : Nat) (r : VReg) : (s.setVreg c x n r).curHart = s.curHart := by unfold State.setVreg; split <;> simp
@[simp] theorem State.setVreg_routers (s : State) (c x n : Nat) (r : VReg) : (s.setVreg c x n r).routers = s.routers := by unfold State.setVreg; split <;> simp
@[simp] theorem State.setVreg_msis (s : State) (c x n : Nat) (r : VReg) : (s.setVreg c x n r).msis = s.msis := by unfold State.setVreg; split <;> simp
@[simp] theorem State.setVreg_apRead (s : State) (c x n : Nat) (r : VReg) : (s.setVreg c x n r).apRead = s.apRead := by unfold State.setVreg; split <;> simp
@[simp] theorem State.setVreg_turns (s : State) (c x n : Nat) (r : VReg) : (s.setVreg c x n r).turns = s.turns := by unfold State.setVreg; split <;> simp
@[simp] theorem State.setVreg_msc (s : State) (c x n : Nat) (r : VReg) : (s.setVreg c x n r).msc = s.msc := by unfold State.setVreg; split <;> simp
@[simp] theorem State.setVreg_wakes (s : State) (c x n : Nat) (r : VReg) : (s.setVreg c x n r).wakes = s.wakes := by unfold State.setVreg; split <;> simp

/-! ### `State.writeV` -/

@[simp] theorem State.writeV_clock (s : State) (c x n : Nat) (m : W) (y : Lanes) (t : Byte) : (s.writeV c x n m y t).clock = s.clock := by simp [State.writeV]
@[simp] theorem State.writeV_time (s : State) (c x n : Nat) (m : W) (y : Lanes) (t : Byte) : (s.writeV c x n m y t).time = s.time := by simp [State.writeV]
@[simp] theorem State.writeV_todo (s : State) (c x n : Nat) (m : W) (y : Lanes) (t : Byte) : (s.writeV c x n m y t).todo = s.todo := by simp [State.writeV]
@[simp] theorem State.writeV_tick (s : State) (c x n : Nat) (m : W) (y : Lanes) (t : Byte) : (s.writeV c x n m y t).tick = s.tick := by simp [State.writeV]
@[simp] theorem State.writeV_inputs (s : State) (c x n : Nat) (m : W) (y : Lanes) (t : Byte) : (s.writeV c x n m y t).inputs = s.inputs := by simp [State.writeV]
@[simp] theorem State.writeV_flight (s : State) (c x n : Nat) (m : W) (y : Lanes) (t : Byte) : (s.writeV c x n m y t).flight = s.flight := by simp [State.writeV]
@[simp] theorem State.writeV_cur (s : State) (c x n : Nat) (m : W) (y : Lanes) (t : Byte) : (s.writeV c x n m y t).cur = s.cur := by simp [State.writeV]
@[simp] theorem State.writeV_ir (s : State) (c x n : Nat) (m : W) (y : Lanes) (t : Byte) : (s.writeV c x n m y t).ir = s.ir := by simp [State.writeV]
@[simp] theorem State.writeV_mem (s : State) (c x n : Nat) (m : W) (y : Lanes) (t : Byte) : (s.writeV c x n m y t).mem = s.mem := by simp [State.writeV]
@[simp] theorem State.writeV_bad (s : State) (c x n : Nat) (m : W) (y : Lanes) (t : Byte) : (s.writeV c x n m y t).bad = s.bad := by simp [State.writeV]
@[simp] theorem State.writeV_dies (s : State) (c x n : Nat) (m : W) (y : Lanes) (t : Byte) : (s.writeV c x n m y t).dies = s.dies := by simp [State.writeV]
@[simp] theorem State.writeV_barriers (s : State) (c x n : Nat) (m : W) (y : Lanes) (t : Byte) : (s.writeV c x n m y t).barriers = s.barriers := by simp [State.writeV]
@[simp] theorem State.writeV_barCmds (s : State) (c x n : Nat) (m : W) (y : Lanes) (t : Byte) : (s.writeV c x n m y t).barCmds = s.barCmds := by simp [State.writeV]
@[simp] theorem State.writeV_bridges (s : State) (c x n : Nat) (m : W) (y : Lanes) (t : Byte) : (s.writeV c x n m y t).bridges = s.bridges := by simp [State.writeV]
@[simp] theorem State.writeV_msgs (s : State) (c x n : Nat) (m : W) (y : Lanes) (t : Byte) : (s.writeV c x n m y t).msgs = s.msgs := by simp [State.writeV]
@[simp] theorem State.writeV_pkts (s : State) (c x n : Nat) (m : W) (y : Lanes) (t : Byte) : (s.writeV c x n m y t).pkts = s.pkts := by simp [State.writeV]
@[simp] theorem State.writeV_replies (s : State) (c x n : Nat) (m : W) (y : Lanes) (t : Byte) : (s.writeV c x n m y t).replies = s.replies := by simp [State.writeV]
@[simp] theorem State.writeV_fins (s : State) (c x n : Nat) (m : W) (y : Lanes) (t : Byte) : (s.writeV c x n m y t).fins = s.fins := by simp [State.writeV]
@[simp] theorem State.writeV_nextId (s : State) (c x n : Nat) (m : W) (y : Lanes) (t : Byte) : (s.writeV c x n m y t).nextId = s.nextId := by simp [State.writeV]
@[simp] theorem State.writeV_fe (s : State) (c x n : Nat) (m : W) (y : Lanes) (t : Byte) : (s.writeV c x n m y t).fe = s.fe := by simp [State.writeV]
@[simp] theorem State.writeV_sys (s : State) (c x n : Nat) (m : W) (y : Lanes) (t : Byte) : (s.writeV c x n m y t).sys = s.sys := by simp [State.writeV]
@[simp] theorem State.writeV_harts (s : State) (c x n : Nat) (m : W) (y : Lanes) (t : Byte) : (s.writeV c x n m y t).harts = s.harts := by simp [State.writeV]
@[simp] theorem State.writeV_curHart (s : State) (c x n : Nat) (m : W) (y : Lanes) (t : Byte) : (s.writeV c x n m y t).curHart = s.curHart := by simp [State.writeV]
@[simp] theorem State.writeV_routers (s : State) (c x n : Nat) (m : W) (y : Lanes) (t : Byte) : (s.writeV c x n m y t).routers = s.routers := by simp [State.writeV]
@[simp] theorem State.writeV_msis (s : State) (c x n : Nat) (m : W) (y : Lanes) (t : Byte) : (s.writeV c x n m y t).msis = s.msis := by simp [State.writeV]
@[simp] theorem State.writeV_apRead (s : State) (c x n : Nat) (m : W) (y : Lanes) (t : Byte) : (s.writeV c x n m y t).apRead = s.apRead := by simp [State.writeV]
@[simp] theorem State.writeV_turns (s : State) (c x n : Nat) (m : W) (y : Lanes) (t : Byte) : (s.writeV c x n m y t).turns = s.turns := by simp [State.writeV]
@[simp] theorem State.writeV_msc (s : State) (c x n : Nat) (m : W) (y : Lanes) (t : Byte) : (s.writeV c x n m y t).msc = s.msc := by simp [State.writeV]
@[simp] theorem State.writeV_wakes (s : State) (c x n : Nat) (m : W) (y : Lanes) (t : Byte) : (s.writeV c x n m y t).wakes = s.wakes := by simp [State.writeV]

/-! ### `State.writeS` -/

@[simp] theorem State.writeS_clock (s : State) (c x i : Nat) (w : W) : (s.writeS c x i w).clock = s.clock := by simp [State.writeS]
@[simp] theorem State.writeS_time (s : State) (c x i : Nat) (w : W) : (s.writeS c x i w).time = s.time := by simp [State.writeS]
@[simp] theorem State.writeS_todo (s : State) (c x i : Nat) (w : W) : (s.writeS c x i w).todo = s.todo := by simp [State.writeS]
@[simp] theorem State.writeS_tick (s : State) (c x i : Nat) (w : W) : (s.writeS c x i w).tick = s.tick := by simp [State.writeS]
@[simp] theorem State.writeS_inputs (s : State) (c x i : Nat) (w : W) : (s.writeS c x i w).inputs = s.inputs := by simp [State.writeS]
@[simp] theorem State.writeS_flight (s : State) (c x i : Nat) (w : W) : (s.writeS c x i w).flight = s.flight := by simp [State.writeS]
@[simp] theorem State.writeS_cur (s : State) (c x i : Nat) (w : W) : (s.writeS c x i w).cur = s.cur := by simp [State.writeS]
@[simp] theorem State.writeS_ir (s : State) (c x i : Nat) (w : W) : (s.writeS c x i w).ir = s.ir := by simp [State.writeS]
@[simp] theorem State.writeS_mem (s : State) (c x i : Nat) (w : W) : (s.writeS c x i w).mem = s.mem := by simp [State.writeS]
@[simp] theorem State.writeS_bad (s : State) (c x i : Nat) (w : W) : (s.writeS c x i w).bad = s.bad := by simp [State.writeS]
@[simp] theorem State.writeS_dies (s : State) (c x i : Nat) (w : W) : (s.writeS c x i w).dies = s.dies := by simp [State.writeS]
@[simp] theorem State.writeS_barriers (s : State) (c x i : Nat) (w : W) : (s.writeS c x i w).barriers = s.barriers := by simp [State.writeS]
@[simp] theorem State.writeS_barCmds (s : State) (c x i : Nat) (w : W) : (s.writeS c x i w).barCmds = s.barCmds := by simp [State.writeS]
@[simp] theorem State.writeS_bridges (s : State) (c x i : Nat) (w : W) : (s.writeS c x i w).bridges = s.bridges := by simp [State.writeS]
@[simp] theorem State.writeS_msgs (s : State) (c x i : Nat) (w : W) : (s.writeS c x i w).msgs = s.msgs := by simp [State.writeS]
@[simp] theorem State.writeS_pkts (s : State) (c x i : Nat) (w : W) : (s.writeS c x i w).pkts = s.pkts := by simp [State.writeS]
@[simp] theorem State.writeS_replies (s : State) (c x i : Nat) (w : W) : (s.writeS c x i w).replies = s.replies := by simp [State.writeS]
@[simp] theorem State.writeS_fins (s : State) (c x i : Nat) (w : W) : (s.writeS c x i w).fins = s.fins := by simp [State.writeS]
@[simp] theorem State.writeS_nextId (s : State) (c x i : Nat) (w : W) : (s.writeS c x i w).nextId = s.nextId := by simp [State.writeS]
@[simp] theorem State.writeS_fe (s : State) (c x i : Nat) (w : W) : (s.writeS c x i w).fe = s.fe := by simp [State.writeS]
@[simp] theorem State.writeS_sys (s : State) (c x i : Nat) (w : W) : (s.writeS c x i w).sys = s.sys := by simp [State.writeS]
@[simp] theorem State.writeS_harts (s : State) (c x i : Nat) (w : W) : (s.writeS c x i w).harts = s.harts := by simp [State.writeS]
@[simp] theorem State.writeS_curHart (s : State) (c x i : Nat) (w : W) : (s.writeS c x i w).curHart = s.curHart := by simp [State.writeS]
@[simp] theorem State.writeS_routers (s : State) (c x i : Nat) (w : W) : (s.writeS c x i w).routers = s.routers := by simp [State.writeS]
@[simp] theorem State.writeS_msis (s : State) (c x i : Nat) (w : W) : (s.writeS c x i w).msis = s.msis := by simp [State.writeS]
@[simp] theorem State.writeS_apRead (s : State) (c x i : Nat) (w : W) : (s.writeS c x i w).apRead = s.apRead := by simp [State.writeS]
@[simp] theorem State.writeS_turns (s : State) (c x i : Nat) (w : W) : (s.writeS c x i w).turns = s.turns := by simp [State.writeS]
@[simp] theorem State.writeS_msc (s : State) (c x i : Nat) (w : W) : (s.writeS c x i w).msc = s.msc := by simp [State.writeS]
@[simp] theorem State.writeS_wakes (s : State) (c x i : Nat) (w : W) : (s.writeS c x i w).wakes = s.wakes := by simp [State.writeS]

/-! ### `State.writeA` -/

@[simp] theorem State.writeA_clock (s : State) (c x i : Nat) (b w : W) : (s.writeA c x i b w).clock = s.clock := by simp [State.writeA]
@[simp] theorem State.writeA_time (s : State) (c x i : Nat) (b w : W) : (s.writeA c x i b w).time = s.time := by simp [State.writeA]
@[simp] theorem State.writeA_todo (s : State) (c x i : Nat) (b w : W) : (s.writeA c x i b w).todo = s.todo := by simp [State.writeA]
@[simp] theorem State.writeA_tick (s : State) (c x i : Nat) (b w : W) : (s.writeA c x i b w).tick = s.tick := by simp [State.writeA]
@[simp] theorem State.writeA_inputs (s : State) (c x i : Nat) (b w : W) : (s.writeA c x i b w).inputs = s.inputs := by simp [State.writeA]
@[simp] theorem State.writeA_flight (s : State) (c x i : Nat) (b w : W) : (s.writeA c x i b w).flight = s.flight := by simp [State.writeA]
@[simp] theorem State.writeA_cur (s : State) (c x i : Nat) (b w : W) : (s.writeA c x i b w).cur = s.cur := by simp [State.writeA]
@[simp] theorem State.writeA_ir (s : State) (c x i : Nat) (b w : W) : (s.writeA c x i b w).ir = s.ir := by simp [State.writeA]
@[simp] theorem State.writeA_mem (s : State) (c x i : Nat) (b w : W) : (s.writeA c x i b w).mem = s.mem := by simp [State.writeA]
@[simp] theorem State.writeA_bad (s : State) (c x i : Nat) (b w : W) : (s.writeA c x i b w).bad = s.bad := by simp [State.writeA]
@[simp] theorem State.writeA_dies (s : State) (c x i : Nat) (b w : W) : (s.writeA c x i b w).dies = s.dies := by simp [State.writeA]
@[simp] theorem State.writeA_barriers (s : State) (c x i : Nat) (b w : W) : (s.writeA c x i b w).barriers = s.barriers := by simp [State.writeA]
@[simp] theorem State.writeA_barCmds (s : State) (c x i : Nat) (b w : W) : (s.writeA c x i b w).barCmds = s.barCmds := by simp [State.writeA]
@[simp] theorem State.writeA_bridges (s : State) (c x i : Nat) (b w : W) : (s.writeA c x i b w).bridges = s.bridges := by simp [State.writeA]
@[simp] theorem State.writeA_msgs (s : State) (c x i : Nat) (b w : W) : (s.writeA c x i b w).msgs = s.msgs := by simp [State.writeA]
@[simp] theorem State.writeA_pkts (s : State) (c x i : Nat) (b w : W) : (s.writeA c x i b w).pkts = s.pkts := by simp [State.writeA]
@[simp] theorem State.writeA_replies (s : State) (c x i : Nat) (b w : W) : (s.writeA c x i b w).replies = s.replies := by simp [State.writeA]
@[simp] theorem State.writeA_fins (s : State) (c x i : Nat) (b w : W) : (s.writeA c x i b w).fins = s.fins := by simp [State.writeA]
@[simp] theorem State.writeA_nextId (s : State) (c x i : Nat) (b w : W) : (s.writeA c x i b w).nextId = s.nextId := by simp [State.writeA]
@[simp] theorem State.writeA_fe (s : State) (c x i : Nat) (b w : W) : (s.writeA c x i b w).fe = s.fe := by simp [State.writeA]
@[simp] theorem State.writeA_sys (s : State) (c x i : Nat) (b w : W) : (s.writeA c x i b w).sys = s.sys := by simp [State.writeA]
@[simp] theorem State.writeA_harts (s : State) (c x i : Nat) (b w : W) : (s.writeA c x i b w).harts = s.harts := by simp [State.writeA]
@[simp] theorem State.writeA_curHart (s : State) (c x i : Nat) (b w : W) : (s.writeA c x i b w).curHart = s.curHart := by simp [State.writeA]
@[simp] theorem State.writeA_routers (s : State) (c x i : Nat) (b w : W) : (s.writeA c x i b w).routers = s.routers := by simp [State.writeA]
@[simp] theorem State.writeA_msis (s : State) (c x i : Nat) (b w : W) : (s.writeA c x i b w).msis = s.msis := by simp [State.writeA]
@[simp] theorem State.writeA_apRead (s : State) (c x i : Nat) (b w : W) : (s.writeA c x i b w).apRead = s.apRead := by simp [State.writeA]
@[simp] theorem State.writeA_turns (s : State) (c x i : Nat) (b w : W) : (s.writeA c x i b w).turns = s.turns := by simp [State.writeA]
@[simp] theorem State.writeA_msc (s : State) (c x i : Nat) (b w : W) : (s.writeA c x i b w).msc = s.msc := by simp [State.writeA]
@[simp] theorem State.writeA_wakes (s : State) (c x i : Nat) (b w : W) : (s.writeA c x i b w).wakes = s.wakes := by simp [State.writeA]

/-! ### `State.writeK` -/

@[simp] theorem State.writeK_clock (s : State) (c x i : Nat) (m : W) : (s.writeK c x i m).clock = s.clock := by simp [State.writeK]
@[simp] theorem State.writeK_time (s : State) (c x i : Nat) (m : W) : (s.writeK c x i m).time = s.time := by simp [State.writeK]
@[simp] theorem State.writeK_todo (s : State) (c x i : Nat) (m : W) : (s.writeK c x i m).todo = s.todo := by simp [State.writeK]
@[simp] theorem State.writeK_tick (s : State) (c x i : Nat) (m : W) : (s.writeK c x i m).tick = s.tick := by simp [State.writeK]
@[simp] theorem State.writeK_inputs (s : State) (c x i : Nat) (m : W) : (s.writeK c x i m).inputs = s.inputs := by simp [State.writeK]
@[simp] theorem State.writeK_flight (s : State) (c x i : Nat) (m : W) : (s.writeK c x i m).flight = s.flight := by simp [State.writeK]
@[simp] theorem State.writeK_cur (s : State) (c x i : Nat) (m : W) : (s.writeK c x i m).cur = s.cur := by simp [State.writeK]
@[simp] theorem State.writeK_ir (s : State) (c x i : Nat) (m : W) : (s.writeK c x i m).ir = s.ir := by simp [State.writeK]
@[simp] theorem State.writeK_mem (s : State) (c x i : Nat) (m : W) : (s.writeK c x i m).mem = s.mem := by simp [State.writeK]
@[simp] theorem State.writeK_bad (s : State) (c x i : Nat) (m : W) : (s.writeK c x i m).bad = s.bad := by simp [State.writeK]
@[simp] theorem State.writeK_dies (s : State) (c x i : Nat) (m : W) : (s.writeK c x i m).dies = s.dies := by simp [State.writeK]
@[simp] theorem State.writeK_barriers (s : State) (c x i : Nat) (m : W) : (s.writeK c x i m).barriers = s.barriers := by simp [State.writeK]
@[simp] theorem State.writeK_barCmds (s : State) (c x i : Nat) (m : W) : (s.writeK c x i m).barCmds = s.barCmds := by simp [State.writeK]
@[simp] theorem State.writeK_bridges (s : State) (c x i : Nat) (m : W) : (s.writeK c x i m).bridges = s.bridges := by simp [State.writeK]
@[simp] theorem State.writeK_msgs (s : State) (c x i : Nat) (m : W) : (s.writeK c x i m).msgs = s.msgs := by simp [State.writeK]
@[simp] theorem State.writeK_pkts (s : State) (c x i : Nat) (m : W) : (s.writeK c x i m).pkts = s.pkts := by simp [State.writeK]
@[simp] theorem State.writeK_replies (s : State) (c x i : Nat) (m : W) : (s.writeK c x i m).replies = s.replies := by simp [State.writeK]
@[simp] theorem State.writeK_fins (s : State) (c x i : Nat) (m : W) : (s.writeK c x i m).fins = s.fins := by simp [State.writeK]
@[simp] theorem State.writeK_nextId (s : State) (c x i : Nat) (m : W) : (s.writeK c x i m).nextId = s.nextId := by simp [State.writeK]
@[simp] theorem State.writeK_fe (s : State) (c x i : Nat) (m : W) : (s.writeK c x i m).fe = s.fe := by simp [State.writeK]
@[simp] theorem State.writeK_sys (s : State) (c x i : Nat) (m : W) : (s.writeK c x i m).sys = s.sys := by simp [State.writeK]
@[simp] theorem State.writeK_harts (s : State) (c x i : Nat) (m : W) : (s.writeK c x i m).harts = s.harts := by simp [State.writeK]
@[simp] theorem State.writeK_curHart (s : State) (c x i : Nat) (m : W) : (s.writeK c x i m).curHart = s.curHart := by simp [State.writeK]
@[simp] theorem State.writeK_routers (s : State) (c x i : Nat) (m : W) : (s.writeK c x i m).routers = s.routers := by simp [State.writeK]
@[simp] theorem State.writeK_msis (s : State) (c x i : Nat) (m : W) : (s.writeK c x i m).msis = s.msis := by simp [State.writeK]
@[simp] theorem State.writeK_apRead (s : State) (c x i : Nat) (m : W) : (s.writeK c x i m).apRead = s.apRead := by simp [State.writeK]
@[simp] theorem State.writeK_turns (s : State) (c x i : Nat) (m : W) : (s.writeK c x i m).turns = s.turns := by simp [State.writeK]
@[simp] theorem State.writeK_msc (s : State) (c x i : Nat) (m : W) : (s.writeK c x i m).msc = s.msc := by simp [State.writeK]
@[simp] theorem State.writeK_wakes (s : State) (c x i : Nat) (m : W) : (s.writeK c x i m).wakes = s.wakes := by simp [State.writeK]

/-! ### `State.emptyS` -/

@[simp] theorem State.emptyS_clock (s : State) (c x i : Nat) : (s.emptyS c x i).clock = s.clock := by simp [State.emptyS]
@[simp] theorem State.emptyS_time (s : State) (c x i : Nat) : (s.emptyS c x i).time = s.time := by simp [State.emptyS]
@[simp] theorem State.emptyS_todo (s : State) (c x i : Nat) : (s.emptyS c x i).todo = s.todo := by simp [State.emptyS]
@[simp] theorem State.emptyS_tick (s : State) (c x i : Nat) : (s.emptyS c x i).tick = s.tick := by simp [State.emptyS]
@[simp] theorem State.emptyS_inputs (s : State) (c x i : Nat) : (s.emptyS c x i).inputs = s.inputs := by simp [State.emptyS]
@[simp] theorem State.emptyS_flight (s : State) (c x i : Nat) : (s.emptyS c x i).flight = s.flight := by simp [State.emptyS]
@[simp] theorem State.emptyS_cur (s : State) (c x i : Nat) : (s.emptyS c x i).cur = s.cur := by simp [State.emptyS]
@[simp] theorem State.emptyS_ir (s : State) (c x i : Nat) : (s.emptyS c x i).ir = s.ir := by simp [State.emptyS]
@[simp] theorem State.emptyS_mem (s : State) (c x i : Nat) : (s.emptyS c x i).mem = s.mem := by simp [State.emptyS]
@[simp] theorem State.emptyS_bad (s : State) (c x i : Nat) : (s.emptyS c x i).bad = s.bad := by simp [State.emptyS]
@[simp] theorem State.emptyS_dies (s : State) (c x i : Nat) : (s.emptyS c x i).dies = s.dies := by simp [State.emptyS]
@[simp] theorem State.emptyS_barriers (s : State) (c x i : Nat) : (s.emptyS c x i).barriers = s.barriers := by simp [State.emptyS]
@[simp] theorem State.emptyS_barCmds (s : State) (c x i : Nat) : (s.emptyS c x i).barCmds = s.barCmds := by simp [State.emptyS]
@[simp] theorem State.emptyS_bridges (s : State) (c x i : Nat) : (s.emptyS c x i).bridges = s.bridges := by simp [State.emptyS]
@[simp] theorem State.emptyS_msgs (s : State) (c x i : Nat) : (s.emptyS c x i).msgs = s.msgs := by simp [State.emptyS]
@[simp] theorem State.emptyS_pkts (s : State) (c x i : Nat) : (s.emptyS c x i).pkts = s.pkts := by simp [State.emptyS]
@[simp] theorem State.emptyS_replies (s : State) (c x i : Nat) : (s.emptyS c x i).replies = s.replies := by simp [State.emptyS]
@[simp] theorem State.emptyS_fins (s : State) (c x i : Nat) : (s.emptyS c x i).fins = s.fins := by simp [State.emptyS]
@[simp] theorem State.emptyS_nextId (s : State) (c x i : Nat) : (s.emptyS c x i).nextId = s.nextId := by simp [State.emptyS]
@[simp] theorem State.emptyS_fe (s : State) (c x i : Nat) : (s.emptyS c x i).fe = s.fe := by simp [State.emptyS]
@[simp] theorem State.emptyS_sys (s : State) (c x i : Nat) : (s.emptyS c x i).sys = s.sys := by simp [State.emptyS]
@[simp] theorem State.emptyS_harts (s : State) (c x i : Nat) : (s.emptyS c x i).harts = s.harts := by simp [State.emptyS]
@[simp] theorem State.emptyS_curHart (s : State) (c x i : Nat) : (s.emptyS c x i).curHart = s.curHart := by simp [State.emptyS]
@[simp] theorem State.emptyS_routers (s : State) (c x i : Nat) : (s.emptyS c x i).routers = s.routers := by simp [State.emptyS]
@[simp] theorem State.emptyS_msis (s : State) (c x i : Nat) : (s.emptyS c x i).msis = s.msis := by simp [State.emptyS]
@[simp] theorem State.emptyS_apRead (s : State) (c x i : Nat) : (s.emptyS c x i).apRead = s.apRead := by simp [State.emptyS]
@[simp] theorem State.emptyS_turns (s : State) (c x i : Nat) : (s.emptyS c x i).turns = s.turns := by simp [State.emptyS]
@[simp] theorem State.emptyS_msc (s : State) (c x i : Nat) : (s.emptyS c x i).msc = s.msc := by simp [State.emptyS]
@[simp] theorem State.emptyS_wakes (s : State) (c x i : Nat) : (s.emptyS c x i).wakes = s.wakes := by simp [State.emptyS]

/-! ### `State.park` -/

@[simp] theorem State.park_clock (s : State) (c x : Nat) (k : ParkKind) (a : Byte) : (s.park c x k a).clock = s.clock := by simp [State.park]
@[simp] theorem State.park_time (s : State) (c x : Nat) (k : ParkKind) (a : Byte) : (s.park c x k a).time = s.time := by simp [State.park]
@[simp] theorem State.park_todo (s : State) (c x : Nat) (k : ParkKind) (a : Byte) : (s.park c x k a).todo = s.todo := by simp [State.park]
@[simp] theorem State.park_tick (s : State) (c x : Nat) (k : ParkKind) (a : Byte) : (s.park c x k a).tick = s.tick := by simp [State.park]
@[simp] theorem State.park_inputs (s : State) (c x : Nat) (k : ParkKind) (a : Byte) : (s.park c x k a).inputs = s.inputs := by simp [State.park]
@[simp] theorem State.park_flight (s : State) (c x : Nat) (k : ParkKind) (a : Byte) : (s.park c x k a).flight = s.flight := by simp [State.park]
@[simp] theorem State.park_cur (s : State) (c x : Nat) (k : ParkKind) (a : Byte) : (s.park c x k a).cur = s.cur := by simp [State.park]
@[simp] theorem State.park_ir (s : State) (c x : Nat) (k : ParkKind) (a : Byte) : (s.park c x k a).ir = s.ir := by simp [State.park]
@[simp] theorem State.park_mem (s : State) (c x : Nat) (k : ParkKind) (a : Byte) : (s.park c x k a).mem = s.mem := by simp [State.park]
@[simp] theorem State.park_bad (s : State) (c x : Nat) (k : ParkKind) (a : Byte) : (s.park c x k a).bad = s.bad := by simp [State.park]
@[simp] theorem State.park_dies (s : State) (c x : Nat) (k : ParkKind) (a : Byte) : (s.park c x k a).dies = s.dies := by simp [State.park]
@[simp] theorem State.park_barriers (s : State) (c x : Nat) (k : ParkKind) (a : Byte) : (s.park c x k a).barriers = s.barriers := by simp [State.park]
@[simp] theorem State.park_barCmds (s : State) (c x : Nat) (k : ParkKind) (a : Byte) : (s.park c x k a).barCmds = s.barCmds := by simp [State.park]
@[simp] theorem State.park_bridges (s : State) (c x : Nat) (k : ParkKind) (a : Byte) : (s.park c x k a).bridges = s.bridges := by simp [State.park]
@[simp] theorem State.park_msgs (s : State) (c x : Nat) (k : ParkKind) (a : Byte) : (s.park c x k a).msgs = s.msgs := by simp [State.park]
@[simp] theorem State.park_pkts (s : State) (c x : Nat) (k : ParkKind) (a : Byte) : (s.park c x k a).pkts = s.pkts := by simp [State.park]
@[simp] theorem State.park_replies (s : State) (c x : Nat) (k : ParkKind) (a : Byte) : (s.park c x k a).replies = s.replies := by simp [State.park]
@[simp] theorem State.park_fins (s : State) (c x : Nat) (k : ParkKind) (a : Byte) : (s.park c x k a).fins = s.fins := by simp [State.park]
@[simp] theorem State.park_nextId (s : State) (c x : Nat) (k : ParkKind) (a : Byte) : (s.park c x k a).nextId = s.nextId := by simp [State.park]
@[simp] theorem State.park_fe (s : State) (c x : Nat) (k : ParkKind) (a : Byte) : (s.park c x k a).fe = s.fe := by simp [State.park]
@[simp] theorem State.park_sys (s : State) (c x : Nat) (k : ParkKind) (a : Byte) : (s.park c x k a).sys = s.sys := by simp [State.park]
@[simp] theorem State.park_harts (s : State) (c x : Nat) (k : ParkKind) (a : Byte) : (s.park c x k a).harts = s.harts := by simp [State.park]
@[simp] theorem State.park_curHart (s : State) (c x : Nat) (k : ParkKind) (a : Byte) : (s.park c x k a).curHart = s.curHart := by simp [State.park]
@[simp] theorem State.park_routers (s : State) (c x : Nat) (k : ParkKind) (a : Byte) : (s.park c x k a).routers = s.routers := by simp [State.park]
@[simp] theorem State.park_msis (s : State) (c x : Nat) (k : ParkKind) (a : Byte) : (s.park c x k a).msis = s.msis := by simp [State.park]
@[simp] theorem State.park_apRead (s : State) (c x : Nat) (k : ParkKind) (a : Byte) : (s.park c x k a).apRead = s.apRead := by simp [State.park]
@[simp] theorem State.park_turns (s : State) (c x : Nat) (k : ParkKind) (a : Byte) : (s.park c x k a).turns = s.turns := by simp [State.park]
@[simp] theorem State.park_msc (s : State) (c x : Nat) (k : ParkKind) (a : Byte) : (s.park c x k a).msc = s.msc := by simp [State.park]
@[simp] theorem State.park_wakes (s : State) (c x : Nat) (k : ParkKind) (a : Byte) : (s.park c x k a).wakes = s.wakes := by simp [State.park]

/-! ### `State.endRun` -/

@[simp] theorem State.endRun_clock (s : State) (c x : Nat) (t : Trailer) : (s.endRun c x t).clock = s.clock := by simp [State.endRun]
@[simp] theorem State.endRun_time (s : State) (c x : Nat) (t : Trailer) : (s.endRun c x t).time = s.time := by simp [State.endRun]
@[simp] theorem State.endRun_todo (s : State) (c x : Nat) (t : Trailer) : (s.endRun c x t).todo = s.todo := by simp [State.endRun]
@[simp] theorem State.endRun_tick (s : State) (c x : Nat) (t : Trailer) : (s.endRun c x t).tick = s.tick := by simp [State.endRun]
@[simp] theorem State.endRun_inputs (s : State) (c x : Nat) (t : Trailer) : (s.endRun c x t).inputs = s.inputs := by simp [State.endRun]
@[simp] theorem State.endRun_flight (s : State) (c x : Nat) (t : Trailer) : (s.endRun c x t).flight = s.flight := by simp [State.endRun]
@[simp] theorem State.endRun_cur (s : State) (c x : Nat) (t : Trailer) : (s.endRun c x t).cur = s.cur := by simp [State.endRun]
@[simp] theorem State.endRun_ir (s : State) (c x : Nat) (t : Trailer) : (s.endRun c x t).ir = s.ir := by simp [State.endRun]
@[simp] theorem State.endRun_mem (s : State) (c x : Nat) (t : Trailer) : (s.endRun c x t).mem = s.mem := by simp [State.endRun]
@[simp] theorem State.endRun_bad (s : State) (c x : Nat) (t : Trailer) : (s.endRun c x t).bad = s.bad := by simp [State.endRun]
@[simp] theorem State.endRun_dies (s : State) (c x : Nat) (t : Trailer) : (s.endRun c x t).dies = s.dies := by simp [State.endRun]
@[simp] theorem State.endRun_barriers (s : State) (c x : Nat) (t : Trailer) : (s.endRun c x t).barriers = s.barriers := by simp [State.endRun]
@[simp] theorem State.endRun_barCmds (s : State) (c x : Nat) (t : Trailer) : (s.endRun c x t).barCmds = s.barCmds := by simp [State.endRun]
@[simp] theorem State.endRun_bridges (s : State) (c x : Nat) (t : Trailer) : (s.endRun c x t).bridges = s.bridges := by simp [State.endRun]
@[simp] theorem State.endRun_msgs (s : State) (c x : Nat) (t : Trailer) : (s.endRun c x t).msgs = s.msgs := by simp [State.endRun]
@[simp] theorem State.endRun_pkts (s : State) (c x : Nat) (t : Trailer) : (s.endRun c x t).pkts = s.pkts := by simp [State.endRun]
@[simp] theorem State.endRun_replies (s : State) (c x : Nat) (t : Trailer) : (s.endRun c x t).replies = s.replies := by simp [State.endRun]
@[simp] theorem State.endRun_fins (s : State) (c x : Nat) (t : Trailer) : (s.endRun c x t).fins = s.fins := by simp [State.endRun]
@[simp] theorem State.endRun_nextId (s : State) (c x : Nat) (t : Trailer) : (s.endRun c x t).nextId = s.nextId := by simp [State.endRun]
@[simp] theorem State.endRun_fe (s : State) (c x : Nat) (t : Trailer) : (s.endRun c x t).fe = s.fe := by simp [State.endRun]
@[simp] theorem State.endRun_sys (s : State) (c x : Nat) (t : Trailer) : (s.endRun c x t).sys = s.sys := by simp [State.endRun]
@[simp] theorem State.endRun_harts (s : State) (c x : Nat) (t : Trailer) : (s.endRun c x t).harts = s.harts := by simp [State.endRun]
@[simp] theorem State.endRun_curHart (s : State) (c x : Nat) (t : Trailer) : (s.endRun c x t).curHart = s.curHart := by simp [State.endRun]
@[simp] theorem State.endRun_routers (s : State) (c x : Nat) (t : Trailer) : (s.endRun c x t).routers = s.routers := by simp [State.endRun]
@[simp] theorem State.endRun_msis (s : State) (c x : Nat) (t : Trailer) : (s.endRun c x t).msis = s.msis := by simp [State.endRun]
@[simp] theorem State.endRun_apRead (s : State) (c x : Nat) (t : Trailer) : (s.endRun c x t).apRead = s.apRead := by simp [State.endRun]
@[simp] theorem State.endRun_turns (s : State) (c x : Nat) (t : Trailer) : (s.endRun c x t).turns = s.turns := by simp [State.endRun]
@[simp] theorem State.endRun_msc (s : State) (c x : Nat) (t : Trailer) : (s.endRun c x t).msc = s.msc := by simp [State.endRun]
@[simp] theorem State.endRun_wakes (s : State) (c x : Nat) (t : Trailer) : (s.endRun c x t).wakes = s.wakes := by simp [State.endRun]

/-! ### `Gang.setPcs` -/

@[simp] theorem Gang.setPcs_retStacks (g : Gang) (m : BitVec 8) (p : PC) : (g.setPcs m p).retStacks = g.retStacks := rfl
@[simp] theorem Gang.setPcs_live (g : Gang) (m : BitVec 8) (p : PC) : (g.setPcs m p).live = g.live := rfl
@[simp] theorem Gang.setPcs_kuse (g : Gang) (m : BitVec 8) (p : PC) : (g.setPcs m p).kuse = g.kuse := rfl
@[simp] theorem Gang.setPcs_groups (g : Gang) (m : BitVec 8) (p : PC) : (g.setPcs m p).groups = g.groups := rfl
@[simp] theorem Gang.setPcs_active (g : Gang) (m : BitVec 8) (p : PC) : (g.setPcs m p).active = g.active := rfl
@[simp] theorem Gang.setPcs_run (g : Gang) (m : BitVec 8) (p : PC) : (g.setPcs m p).run = g.run := rfl
@[simp] theorem Gang.setPcs_runCnt (g : Gang) (m : BitVec 8) (p : PC) : (g.setPcs m p).runCnt = g.runCnt := rfl
@[simp] theorem Gang.setPcs_window (g : Gang) (m : BitVec 8) (p : PC) : (g.setPcs m p).window = g.window := rfl
@[simp] theorem Gang.setPcs_s (g : Gang) (m : BitVec 8) (p : PC) : (g.setPcs m p).s = g.s := rfl
@[simp] theorem Gang.setPcs_a (g : Gang) (m : BitVec 8) (p : PC) : (g.setPcs m p).a = g.a := rfl
@[simp] theorem Gang.setPcs_v (g : Gang) (m : BitVec 8) (p : PC) : (g.setPcs m p).v = g.v := rfl
@[simp] theorem Gang.setPcs_k (g : Gang) (m : BitVec 8) (p : PC) : (g.setPcs m p).k = g.k := rfl
@[simp] theorem Gang.setPcs_recs (g : Gang) (m : BitVec 8) (p : PC) : (g.setPcs m p).recs = g.recs := rfl
@[simp] theorem Gang.setPcs_valloc (g : Gang) (m : BitVec 8) (p : PC) : (g.setPcs m p).valloc = g.valloc := rfl
@[simp] theorem Gang.setPcs_binds (g : Gang) (m : BitVec 8) (p : PC) : (g.setPcs m p).binds = g.binds := rfl
@[simp] theorem Gang.setPcs_gstat (g : Gang) (m : BitVec 8) (p : PC) : (g.setPcs m p).gstat = g.gstat := rfl
@[simp] theorem Gang.setPcs_rmode (g : Gang) (m : BitVec 8) (p : PC) : (g.setPcs m p).rmode = g.rmode := rfl
@[simp] theorem Gang.setPcs_ptile (g : Gang) (m : BitVec 8) (p : PC) : (g.setPcs m p).ptile = g.ptile := rfl
@[simp] theorem Gang.setPcs_mxc (g : Gang) (m : BitVec 8) (p : PC) : (g.setPcs m p).mxc = g.mxc := rfl
@[simp] theorem Gang.setPcs_role (g : Gang) (m : BitVec 8) (p : PC) : (g.setPcs m p).role = g.role := rfl
@[simp] theorem Gang.setPcs_wmodpc (g : Gang) (m : BitVec 8) (p : PC) : (g.setPcs m p).wmodpc = g.wmodpc := rfl
@[simp] theorem Gang.setPcs_timeh (g : Gang) (m : BitVec 8) (p : PC) : (g.setPcs m p).timeh = g.timeh := rfl
@[simp] theorem Gang.setPcs_counts (g : Gang) (m : BitVec 8) (p : PC) : (g.setPcs m p).counts = g.counts := rfl
@[simp] theorem Gang.setPcs_halt (g : Gang) (m : BitVec 8) (p : PC) : (g.setPcs m p).halt = g.halt := rfl
@[simp] theorem Gang.setPcs_pf (g : Gang) (m : BitVec 8) (p : PC) : (g.setPcs m p).pf = g.pf := rfl
@[simp] theorem Gang.setPcs_look (g : Gang) (m : BitVec 8) (p : PC) : (g.setPcs m p).look = g.look := rfl
@[simp] theorem Gang.setPcs_age (g : Gang) (m : BitVec 8) (p : PC) : (g.setPcs m p).age = g.age := rfl
@[simp] theorem Gang.setPcs_aged (g : Gang) (m : BitVec 8) (p : PC) : (g.setPcs m p).aged = g.aged := rfl
@[simp] theorem Gang.setPcs_issued (g : Gang) (m : BitVec 8) (p : PC) : (g.setPcs m p).issued = g.issued := rfl
@[simp] theorem Gang.setPcs_ended (g : Gang) (m : BitVec 8) (p : PC) : (g.setPcs m p).ended = g.ended := rfl
@[simp] theorem Gang.setPcs_wave (g : Gang) (m : BitVec 8) (p : PC) : (g.setPcs m p).wave = g.wave := rfl
@[simp] theorem Gang.setPcs_pre (g : Gang) (m : BitVec 8) (p : PC) : (g.setPcs m p).pre = g.pre := rfl
@[simp] theorem Gang.setPcs_raised (g : Gang) (m : BitVec 8) (p : PC) : (g.setPcs m p).raised = g.raised := rfl

/-! ### `Gang.modGroup` -/

@[simp] theorem Gang.modGroup_pcs (g : Gang) (f : Group → Group) : (g.modGroup f).pcs = g.pcs := rfl
@[simp] theorem Gang.modGroup_retStacks (g : Gang) (f : Group → Group) : (g.modGroup f).retStacks = g.retStacks := rfl
@[simp] theorem Gang.modGroup_live (g : Gang) (f : Group → Group) : (g.modGroup f).live = g.live := rfl
@[simp] theorem Gang.modGroup_kuse (g : Gang) (f : Group → Group) : (g.modGroup f).kuse = g.kuse := rfl
@[simp] theorem Gang.modGroup_active (g : Gang) (f : Group → Group) : (g.modGroup f).active = g.active := rfl
@[simp] theorem Gang.modGroup_run (g : Gang) (f : Group → Group) : (g.modGroup f).run = g.run := rfl
@[simp] theorem Gang.modGroup_runCnt (g : Gang) (f : Group → Group) : (g.modGroup f).runCnt = g.runCnt := rfl
@[simp] theorem Gang.modGroup_window (g : Gang) (f : Group → Group) : (g.modGroup f).window = g.window := rfl
@[simp] theorem Gang.modGroup_s (g : Gang) (f : Group → Group) : (g.modGroup f).s = g.s := rfl
@[simp] theorem Gang.modGroup_a (g : Gang) (f : Group → Group) : (g.modGroup f).a = g.a := rfl
@[simp] theorem Gang.modGroup_v (g : Gang) (f : Group → Group) : (g.modGroup f).v = g.v := rfl
@[simp] theorem Gang.modGroup_k (g : Gang) (f : Group → Group) : (g.modGroup f).k = g.k := rfl
@[simp] theorem Gang.modGroup_recs (g : Gang) (f : Group → Group) : (g.modGroup f).recs = g.recs := rfl
@[simp] theorem Gang.modGroup_valloc (g : Gang) (f : Group → Group) : (g.modGroup f).valloc = g.valloc := rfl
@[simp] theorem Gang.modGroup_binds (g : Gang) (f : Group → Group) : (g.modGroup f).binds = g.binds := rfl
@[simp] theorem Gang.modGroup_gstat (g : Gang) (f : Group → Group) : (g.modGroup f).gstat = g.gstat := rfl
@[simp] theorem Gang.modGroup_rmode (g : Gang) (f : Group → Group) : (g.modGroup f).rmode = g.rmode := rfl
@[simp] theorem Gang.modGroup_ptile (g : Gang) (f : Group → Group) : (g.modGroup f).ptile = g.ptile := rfl
@[simp] theorem Gang.modGroup_mxc (g : Gang) (f : Group → Group) : (g.modGroup f).mxc = g.mxc := rfl
@[simp] theorem Gang.modGroup_role (g : Gang) (f : Group → Group) : (g.modGroup f).role = g.role := rfl
@[simp] theorem Gang.modGroup_wmodpc (g : Gang) (f : Group → Group) : (g.modGroup f).wmodpc = g.wmodpc := rfl
@[simp] theorem Gang.modGroup_timeh (g : Gang) (f : Group → Group) : (g.modGroup f).timeh = g.timeh := rfl
@[simp] theorem Gang.modGroup_counts (g : Gang) (f : Group → Group) : (g.modGroup f).counts = g.counts := rfl
@[simp] theorem Gang.modGroup_halt (g : Gang) (f : Group → Group) : (g.modGroup f).halt = g.halt := rfl
@[simp] theorem Gang.modGroup_pf (g : Gang) (f : Group → Group) : (g.modGroup f).pf = g.pf := rfl
@[simp] theorem Gang.modGroup_look (g : Gang) (f : Group → Group) : (g.modGroup f).look = g.look := rfl
@[simp] theorem Gang.modGroup_age (g : Gang) (f : Group → Group) : (g.modGroup f).age = g.age := rfl
@[simp] theorem Gang.modGroup_aged (g : Gang) (f : Group → Group) : (g.modGroup f).aged = g.aged := rfl
@[simp] theorem Gang.modGroup_issued (g : Gang) (f : Group → Group) : (g.modGroup f).issued = g.issued := rfl
@[simp] theorem Gang.modGroup_ended (g : Gang) (f : Group → Group) : (g.modGroup f).ended = g.ended := rfl
@[simp] theorem Gang.modGroup_wave (g : Gang) (f : Group → Group) : (g.modGroup f).wave = g.wave := rfl
@[simp] theorem Gang.modGroup_pre (g : Gang) (f : Group → Group) : (g.modGroup f).pre = g.pre := rfl
@[simp] theorem Gang.modGroup_raised (g : Gang) (f : Group → Group) : (g.modGroup f).raised = g.raised := rfl

/-! ### `Gang.raise` -/

@[simp] theorem Gang.raise_pcs (g : Gang) (f : BitVec 14) : (g.raise f).pcs = g.pcs := rfl
@[simp] theorem Gang.raise_retStacks (g : Gang) (f : BitVec 14) : (g.raise f).retStacks = g.retStacks := rfl
@[simp] theorem Gang.raise_live (g : Gang) (f : BitVec 14) : (g.raise f).live = g.live := rfl
@[simp] theorem Gang.raise_kuse (g : Gang) (f : BitVec 14) : (g.raise f).kuse = g.kuse := rfl
@[simp] theorem Gang.raise_groups (g : Gang) (f : BitVec 14) : (g.raise f).groups = g.groups := rfl
@[simp] theorem Gang.raise_active (g : Gang) (f : BitVec 14) : (g.raise f).active = g.active := rfl
@[simp] theorem Gang.raise_run (g : Gang) (f : BitVec 14) : (g.raise f).run = g.run := rfl
@[simp] theorem Gang.raise_runCnt (g : Gang) (f : BitVec 14) : (g.raise f).runCnt = g.runCnt := rfl
@[simp] theorem Gang.raise_window (g : Gang) (f : BitVec 14) : (g.raise f).window = g.window := rfl
@[simp] theorem Gang.raise_s (g : Gang) (f : BitVec 14) : (g.raise f).s = g.s := rfl
@[simp] theorem Gang.raise_a (g : Gang) (f : BitVec 14) : (g.raise f).a = g.a := rfl
@[simp] theorem Gang.raise_v (g : Gang) (f : BitVec 14) : (g.raise f).v = g.v := rfl
@[simp] theorem Gang.raise_k (g : Gang) (f : BitVec 14) : (g.raise f).k = g.k := rfl
@[simp] theorem Gang.raise_recs (g : Gang) (f : BitVec 14) : (g.raise f).recs = g.recs := rfl
@[simp] theorem Gang.raise_valloc (g : Gang) (f : BitVec 14) : (g.raise f).valloc = g.valloc := rfl
@[simp] theorem Gang.raise_binds (g : Gang) (f : BitVec 14) : (g.raise f).binds = g.binds := rfl
@[simp] theorem Gang.raise_rmode (g : Gang) (f : BitVec 14) : (g.raise f).rmode = g.rmode := rfl
@[simp] theorem Gang.raise_ptile (g : Gang) (f : BitVec 14) : (g.raise f).ptile = g.ptile := rfl
@[simp] theorem Gang.raise_mxc (g : Gang) (f : BitVec 14) : (g.raise f).mxc = g.mxc := rfl
@[simp] theorem Gang.raise_role (g : Gang) (f : BitVec 14) : (g.raise f).role = g.role := rfl
@[simp] theorem Gang.raise_wmodpc (g : Gang) (f : BitVec 14) : (g.raise f).wmodpc = g.wmodpc := rfl
@[simp] theorem Gang.raise_timeh (g : Gang) (f : BitVec 14) : (g.raise f).timeh = g.timeh := rfl
@[simp] theorem Gang.raise_counts (g : Gang) (f : BitVec 14) : (g.raise f).counts = g.counts := rfl
@[simp] theorem Gang.raise_halt (g : Gang) (f : BitVec 14) : (g.raise f).halt = g.halt := rfl
@[simp] theorem Gang.raise_pf (g : Gang) (f : BitVec 14) : (g.raise f).pf = g.pf := rfl
@[simp] theorem Gang.raise_look (g : Gang) (f : BitVec 14) : (g.raise f).look = g.look := rfl
@[simp] theorem Gang.raise_age (g : Gang) (f : BitVec 14) : (g.raise f).age = g.age := rfl
@[simp] theorem Gang.raise_aged (g : Gang) (f : BitVec 14) : (g.raise f).aged = g.aged := rfl
@[simp] theorem Gang.raise_issued (g : Gang) (f : BitVec 14) : (g.raise f).issued = g.issued := rfl
@[simp] theorem Gang.raise_ended (g : Gang) (f : BitVec 14) : (g.raise f).ended = g.ended := rfl
@[simp] theorem Gang.raise_wave (g : Gang) (f : BitVec 14) : (g.raise f).wave = g.wave := rfl
@[simp] theorem Gang.raise_pre (g : Gang) (f : BitVec 14) : (g.raise f).pre = g.pre := rfl
@[simp] theorem Gang.raise_raised (g : Gang) (f : BitVec 14) : (g.raise f).raised = g.raised := rfl

/-! ### `Gang.setWmod` -/

@[simp] theorem Gang.setWmod_pcs (g : Gang) : (g.setWmod).pcs = g.pcs := rfl
@[simp] theorem Gang.setWmod_retStacks (g : Gang) : (g.setWmod).retStacks = g.retStacks := rfl
@[simp] theorem Gang.setWmod_live (g : Gang) : (g.setWmod).live = g.live := rfl
@[simp] theorem Gang.setWmod_kuse (g : Gang) : (g.setWmod).kuse = g.kuse := rfl
@[simp] theorem Gang.setWmod_groups (g : Gang) : (g.setWmod).groups = g.groups := rfl
@[simp] theorem Gang.setWmod_active (g : Gang) : (g.setWmod).active = g.active := rfl
@[simp] theorem Gang.setWmod_run (g : Gang) : (g.setWmod).run = g.run := rfl
@[simp] theorem Gang.setWmod_runCnt (g : Gang) : (g.setWmod).runCnt = g.runCnt := rfl
@[simp] theorem Gang.setWmod_window (g : Gang) : (g.setWmod).window = g.window := rfl
@[simp] theorem Gang.setWmod_s (g : Gang) : (g.setWmod).s = g.s := rfl
@[simp] theorem Gang.setWmod_a (g : Gang) : (g.setWmod).a = g.a := rfl
@[simp] theorem Gang.setWmod_v (g : Gang) : (g.setWmod).v = g.v := rfl
@[simp] theorem Gang.setWmod_k (g : Gang) : (g.setWmod).k = g.k := rfl
@[simp] theorem Gang.setWmod_recs (g : Gang) : (g.setWmod).recs = g.recs := rfl
@[simp] theorem Gang.setWmod_valloc (g : Gang) : (g.setWmod).valloc = g.valloc := rfl
@[simp] theorem Gang.setWmod_binds (g : Gang) : (g.setWmod).binds = g.binds := rfl
@[simp] theorem Gang.setWmod_rmode (g : Gang) : (g.setWmod).rmode = g.rmode := rfl
@[simp] theorem Gang.setWmod_ptile (g : Gang) : (g.setWmod).ptile = g.ptile := rfl
@[simp] theorem Gang.setWmod_mxc (g : Gang) : (g.setWmod).mxc = g.mxc := rfl
@[simp] theorem Gang.setWmod_role (g : Gang) : (g.setWmod).role = g.role := rfl
@[simp] theorem Gang.setWmod_timeh (g : Gang) : (g.setWmod).timeh = g.timeh := rfl
@[simp] theorem Gang.setWmod_counts (g : Gang) : (g.setWmod).counts = g.counts := rfl
@[simp] theorem Gang.setWmod_halt (g : Gang) : (g.setWmod).halt = g.halt := rfl
@[simp] theorem Gang.setWmod_pf (g : Gang) : (g.setWmod).pf = g.pf := rfl
@[simp] theorem Gang.setWmod_look (g : Gang) : (g.setWmod).look = g.look := rfl
@[simp] theorem Gang.setWmod_age (g : Gang) : (g.setWmod).age = g.age := rfl
@[simp] theorem Gang.setWmod_aged (g : Gang) : (g.setWmod).aged = g.aged := rfl
@[simp] theorem Gang.setWmod_issued (g : Gang) : (g.setWmod).issued = g.issued := rfl
@[simp] theorem Gang.setWmod_ended (g : Gang) : (g.setWmod).ended = g.ended := rfl
@[simp] theorem Gang.setWmod_wave (g : Gang) : (g.setWmod).wave = g.wave := rfl
@[simp] theorem Gang.setWmod_pre (g : Gang) : (g.setWmod).pre = g.pre := rfl
@[simp] theorem Gang.setWmod_raised (g : Gang) : (g.setWmod).raised = g.raised := rfl

/-! ### `Gang.setAreg` -/

@[simp] theorem Gang.setAreg_pcs (g : Gang) (i : Nat) (r : AReg) : (g.setAreg i r).pcs = g.pcs := rfl
@[simp] theorem Gang.setAreg_retStacks (g : Gang) (i : Nat) (r : AReg) : (g.setAreg i r).retStacks = g.retStacks := rfl
@[simp] theorem Gang.setAreg_live (g : Gang) (i : Nat) (r : AReg) : (g.setAreg i r).live = g.live := rfl
@[simp] theorem Gang.setAreg_kuse (g : Gang) (i : Nat) (r : AReg) : (g.setAreg i r).kuse = g.kuse := rfl
@[simp] theorem Gang.setAreg_groups (g : Gang) (i : Nat) (r : AReg) : (g.setAreg i r).groups = g.groups := rfl
@[simp] theorem Gang.setAreg_active (g : Gang) (i : Nat) (r : AReg) : (g.setAreg i r).active = g.active := rfl
@[simp] theorem Gang.setAreg_run (g : Gang) (i : Nat) (r : AReg) : (g.setAreg i r).run = g.run := rfl
@[simp] theorem Gang.setAreg_runCnt (g : Gang) (i : Nat) (r : AReg) : (g.setAreg i r).runCnt = g.runCnt := rfl
@[simp] theorem Gang.setAreg_window (g : Gang) (i : Nat) (r : AReg) : (g.setAreg i r).window = g.window := rfl
@[simp] theorem Gang.setAreg_s (g : Gang) (i : Nat) (r : AReg) : (g.setAreg i r).s = g.s := rfl
@[simp] theorem Gang.setAreg_v (g : Gang) (i : Nat) (r : AReg) : (g.setAreg i r).v = g.v := rfl
@[simp] theorem Gang.setAreg_k (g : Gang) (i : Nat) (r : AReg) : (g.setAreg i r).k = g.k := rfl
@[simp] theorem Gang.setAreg_recs (g : Gang) (i : Nat) (r : AReg) : (g.setAreg i r).recs = g.recs := rfl
@[simp] theorem Gang.setAreg_valloc (g : Gang) (i : Nat) (r : AReg) : (g.setAreg i r).valloc = g.valloc := rfl
@[simp] theorem Gang.setAreg_binds (g : Gang) (i : Nat) (r : AReg) : (g.setAreg i r).binds = g.binds := rfl
@[simp] theorem Gang.setAreg_gstat (g : Gang) (i : Nat) (r : AReg) : (g.setAreg i r).gstat = g.gstat := rfl
@[simp] theorem Gang.setAreg_rmode (g : Gang) (i : Nat) (r : AReg) : (g.setAreg i r).rmode = g.rmode := rfl
@[simp] theorem Gang.setAreg_ptile (g : Gang) (i : Nat) (r : AReg) : (g.setAreg i r).ptile = g.ptile := rfl
@[simp] theorem Gang.setAreg_mxc (g : Gang) (i : Nat) (r : AReg) : (g.setAreg i r).mxc = g.mxc := rfl
@[simp] theorem Gang.setAreg_role (g : Gang) (i : Nat) (r : AReg) : (g.setAreg i r).role = g.role := rfl
@[simp] theorem Gang.setAreg_wmodpc (g : Gang) (i : Nat) (r : AReg) : (g.setAreg i r).wmodpc = g.wmodpc := rfl
@[simp] theorem Gang.setAreg_timeh (g : Gang) (i : Nat) (r : AReg) : (g.setAreg i r).timeh = g.timeh := rfl
@[simp] theorem Gang.setAreg_counts (g : Gang) (i : Nat) (r : AReg) : (g.setAreg i r).counts = g.counts := rfl
@[simp] theorem Gang.setAreg_halt (g : Gang) (i : Nat) (r : AReg) : (g.setAreg i r).halt = g.halt := rfl
@[simp] theorem Gang.setAreg_pf (g : Gang) (i : Nat) (r : AReg) : (g.setAreg i r).pf = g.pf := rfl
@[simp] theorem Gang.setAreg_look (g : Gang) (i : Nat) (r : AReg) : (g.setAreg i r).look = g.look := rfl
@[simp] theorem Gang.setAreg_age (g : Gang) (i : Nat) (r : AReg) : (g.setAreg i r).age = g.age := rfl
@[simp] theorem Gang.setAreg_aged (g : Gang) (i : Nat) (r : AReg) : (g.setAreg i r).aged = g.aged := rfl
@[simp] theorem Gang.setAreg_issued (g : Gang) (i : Nat) (r : AReg) : (g.setAreg i r).issued = g.issued := rfl
@[simp] theorem Gang.setAreg_ended (g : Gang) (i : Nat) (r : AReg) : (g.setAreg i r).ended = g.ended := rfl
@[simp] theorem Gang.setAreg_wave (g : Gang) (i : Nat) (r : AReg) : (g.setAreg i r).wave = g.wave := rfl
@[simp] theorem Gang.setAreg_pre (g : Gang) (i : Nat) (r : AReg) : (g.setAreg i r).pre = g.pre := rfl
@[simp] theorem Gang.setAreg_raised (g : Gang) (i : Nat) (r : AReg) : (g.setAreg i r).raised = g.raised := rfl

/-! ### `Gang.setSreg` -/

@[simp] theorem Gang.setSreg_pcs (g : Gang) (i : Nat) (r : SReg) : (g.setSreg i r).pcs = g.pcs := by unfold Gang.setSreg; split <;> rfl
@[simp] theorem Gang.setSreg_retStacks (g : Gang) (i : Nat) (r : SReg) : (g.setSreg i r).retStacks = g.retStacks := by unfold Gang.setSreg; split <;> rfl
@[simp] theorem Gang.setSreg_live (g : Gang) (i : Nat) (r : SReg) : (g.setSreg i r).live = g.live := by unfold Gang.setSreg; split <;> rfl
@[simp] theorem Gang.setSreg_kuse (g : Gang) (i : Nat) (r : SReg) : (g.setSreg i r).kuse = g.kuse := by unfold Gang.setSreg; split <;> rfl
@[simp] theorem Gang.setSreg_groups (g : Gang) (i : Nat) (r : SReg) : (g.setSreg i r).groups = g.groups := by unfold Gang.setSreg; split <;> rfl
@[simp] theorem Gang.setSreg_active (g : Gang) (i : Nat) (r : SReg) : (g.setSreg i r).active = g.active := by unfold Gang.setSreg; split <;> rfl
@[simp] theorem Gang.setSreg_run (g : Gang) (i : Nat) (r : SReg) : (g.setSreg i r).run = g.run := by unfold Gang.setSreg; split <;> rfl
@[simp] theorem Gang.setSreg_runCnt (g : Gang) (i : Nat) (r : SReg) : (g.setSreg i r).runCnt = g.runCnt := by unfold Gang.setSreg; split <;> rfl
@[simp] theorem Gang.setSreg_window (g : Gang) (i : Nat) (r : SReg) : (g.setSreg i r).window = g.window := by unfold Gang.setSreg; split <;> rfl
@[simp] theorem Gang.setSreg_a (g : Gang) (i : Nat) (r : SReg) : (g.setSreg i r).a = g.a := by unfold Gang.setSreg; split <;> rfl
@[simp] theorem Gang.setSreg_v (g : Gang) (i : Nat) (r : SReg) : (g.setSreg i r).v = g.v := by unfold Gang.setSreg; split <;> rfl
@[simp] theorem Gang.setSreg_k (g : Gang) (i : Nat) (r : SReg) : (g.setSreg i r).k = g.k := by unfold Gang.setSreg; split <;> rfl
@[simp] theorem Gang.setSreg_recs (g : Gang) (i : Nat) (r : SReg) : (g.setSreg i r).recs = g.recs := by unfold Gang.setSreg; split <;> rfl
@[simp] theorem Gang.setSreg_valloc (g : Gang) (i : Nat) (r : SReg) : (g.setSreg i r).valloc = g.valloc := by unfold Gang.setSreg; split <;> rfl
@[simp] theorem Gang.setSreg_binds (g : Gang) (i : Nat) (r : SReg) : (g.setSreg i r).binds = g.binds := by unfold Gang.setSreg; split <;> rfl
@[simp] theorem Gang.setSreg_gstat (g : Gang) (i : Nat) (r : SReg) : (g.setSreg i r).gstat = g.gstat := by unfold Gang.setSreg; split <;> rfl
@[simp] theorem Gang.setSreg_rmode (g : Gang) (i : Nat) (r : SReg) : (g.setSreg i r).rmode = g.rmode := by unfold Gang.setSreg; split <;> rfl
@[simp] theorem Gang.setSreg_ptile (g : Gang) (i : Nat) (r : SReg) : (g.setSreg i r).ptile = g.ptile := by unfold Gang.setSreg; split <;> rfl
@[simp] theorem Gang.setSreg_mxc (g : Gang) (i : Nat) (r : SReg) : (g.setSreg i r).mxc = g.mxc := by unfold Gang.setSreg; split <;> rfl
@[simp] theorem Gang.setSreg_role (g : Gang) (i : Nat) (r : SReg) : (g.setSreg i r).role = g.role := by unfold Gang.setSreg; split <;> rfl
@[simp] theorem Gang.setSreg_wmodpc (g : Gang) (i : Nat) (r : SReg) : (g.setSreg i r).wmodpc = g.wmodpc := by unfold Gang.setSreg; split <;> rfl
@[simp] theorem Gang.setSreg_timeh (g : Gang) (i : Nat) (r : SReg) : (g.setSreg i r).timeh = g.timeh := by unfold Gang.setSreg; split <;> rfl
@[simp] theorem Gang.setSreg_counts (g : Gang) (i : Nat) (r : SReg) : (g.setSreg i r).counts = g.counts := by unfold Gang.setSreg; split <;> rfl
@[simp] theorem Gang.setSreg_halt (g : Gang) (i : Nat) (r : SReg) : (g.setSreg i r).halt = g.halt := by unfold Gang.setSreg; split <;> rfl
@[simp] theorem Gang.setSreg_pf (g : Gang) (i : Nat) (r : SReg) : (g.setSreg i r).pf = g.pf := by unfold Gang.setSreg; split <;> rfl
@[simp] theorem Gang.setSreg_look (g : Gang) (i : Nat) (r : SReg) : (g.setSreg i r).look = g.look := by unfold Gang.setSreg; split <;> rfl
@[simp] theorem Gang.setSreg_age (g : Gang) (i : Nat) (r : SReg) : (g.setSreg i r).age = g.age := by unfold Gang.setSreg; split <;> rfl
@[simp] theorem Gang.setSreg_aged (g : Gang) (i : Nat) (r : SReg) : (g.setSreg i r).aged = g.aged := by unfold Gang.setSreg; split <;> rfl
@[simp] theorem Gang.setSreg_issued (g : Gang) (i : Nat) (r : SReg) : (g.setSreg i r).issued = g.issued := by unfold Gang.setSreg; split <;> rfl
@[simp] theorem Gang.setSreg_ended (g : Gang) (i : Nat) (r : SReg) : (g.setSreg i r).ended = g.ended := by unfold Gang.setSreg; split <;> rfl
@[simp] theorem Gang.setSreg_wave (g : Gang) (i : Nat) (r : SReg) : (g.setSreg i r).wave = g.wave := by unfold Gang.setSreg; split <;> rfl
@[simp] theorem Gang.setSreg_pre (g : Gang) (i : Nat) (r : SReg) : (g.setSreg i r).pre = g.pre := by unfold Gang.setSreg; split <;> rfl
@[simp] theorem Gang.setSreg_raised (g : Gang) (i : Nat) (r : SReg) : (g.setSreg i r).raised = g.raised := by unfold Gang.setSreg; split <;> rfl

/-! ### `Gang.setKreg` -/

@[simp] theorem Gang.setKreg_pcs (g : Gang) (i : Nat) (m : W) : (g.setKreg i m).pcs = g.pcs := by unfold Gang.setKreg; split <;> rfl
@[simp] theorem Gang.setKreg_retStacks (g : Gang) (i : Nat) (m : W) : (g.setKreg i m).retStacks = g.retStacks := by unfold Gang.setKreg; split <;> rfl
@[simp] theorem Gang.setKreg_live (g : Gang) (i : Nat) (m : W) : (g.setKreg i m).live = g.live := by unfold Gang.setKreg; split <;> rfl
@[simp] theorem Gang.setKreg_kuse (g : Gang) (i : Nat) (m : W) : (g.setKreg i m).kuse = g.kuse := by unfold Gang.setKreg; split <;> rfl
@[simp] theorem Gang.setKreg_groups (g : Gang) (i : Nat) (m : W) : (g.setKreg i m).groups = g.groups := by unfold Gang.setKreg; split <;> rfl
@[simp] theorem Gang.setKreg_active (g : Gang) (i : Nat) (m : W) : (g.setKreg i m).active = g.active := by unfold Gang.setKreg; split <;> rfl
@[simp] theorem Gang.setKreg_run (g : Gang) (i : Nat) (m : W) : (g.setKreg i m).run = g.run := by unfold Gang.setKreg; split <;> rfl
@[simp] theorem Gang.setKreg_runCnt (g : Gang) (i : Nat) (m : W) : (g.setKreg i m).runCnt = g.runCnt := by unfold Gang.setKreg; split <;> rfl
@[simp] theorem Gang.setKreg_window (g : Gang) (i : Nat) (m : W) : (g.setKreg i m).window = g.window := by unfold Gang.setKreg; split <;> rfl
@[simp] theorem Gang.setKreg_s (g : Gang) (i : Nat) (m : W) : (g.setKreg i m).s = g.s := by unfold Gang.setKreg; split <;> rfl
@[simp] theorem Gang.setKreg_a (g : Gang) (i : Nat) (m : W) : (g.setKreg i m).a = g.a := by unfold Gang.setKreg; split <;> rfl
@[simp] theorem Gang.setKreg_v (g : Gang) (i : Nat) (m : W) : (g.setKreg i m).v = g.v := by unfold Gang.setKreg; split <;> rfl
@[simp] theorem Gang.setKreg_recs (g : Gang) (i : Nat) (m : W) : (g.setKreg i m).recs = g.recs := by unfold Gang.setKreg; split <;> rfl
@[simp] theorem Gang.setKreg_valloc (g : Gang) (i : Nat) (m : W) : (g.setKreg i m).valloc = g.valloc := by unfold Gang.setKreg; split <;> rfl
@[simp] theorem Gang.setKreg_binds (g : Gang) (i : Nat) (m : W) : (g.setKreg i m).binds = g.binds := by unfold Gang.setKreg; split <;> rfl
@[simp] theorem Gang.setKreg_gstat (g : Gang) (i : Nat) (m : W) : (g.setKreg i m).gstat = g.gstat := by unfold Gang.setKreg; split <;> rfl
@[simp] theorem Gang.setKreg_rmode (g : Gang) (i : Nat) (m : W) : (g.setKreg i m).rmode = g.rmode := by unfold Gang.setKreg; split <;> rfl
@[simp] theorem Gang.setKreg_ptile (g : Gang) (i : Nat) (m : W) : (g.setKreg i m).ptile = g.ptile := by unfold Gang.setKreg; split <;> rfl
@[simp] theorem Gang.setKreg_mxc (g : Gang) (i : Nat) (m : W) : (g.setKreg i m).mxc = g.mxc := by unfold Gang.setKreg; split <;> rfl
@[simp] theorem Gang.setKreg_role (g : Gang) (i : Nat) (m : W) : (g.setKreg i m).role = g.role := by unfold Gang.setKreg; split <;> rfl
@[simp] theorem Gang.setKreg_wmodpc (g : Gang) (i : Nat) (m : W) : (g.setKreg i m).wmodpc = g.wmodpc := by unfold Gang.setKreg; split <;> rfl
@[simp] theorem Gang.setKreg_timeh (g : Gang) (i : Nat) (m : W) : (g.setKreg i m).timeh = g.timeh := by unfold Gang.setKreg; split <;> rfl
@[simp] theorem Gang.setKreg_counts (g : Gang) (i : Nat) (m : W) : (g.setKreg i m).counts = g.counts := by unfold Gang.setKreg; split <;> rfl
@[simp] theorem Gang.setKreg_halt (g : Gang) (i : Nat) (m : W) : (g.setKreg i m).halt = g.halt := by unfold Gang.setKreg; split <;> rfl
@[simp] theorem Gang.setKreg_pf (g : Gang) (i : Nat) (m : W) : (g.setKreg i m).pf = g.pf := by unfold Gang.setKreg; split <;> rfl
@[simp] theorem Gang.setKreg_look (g : Gang) (i : Nat) (m : W) : (g.setKreg i m).look = g.look := by unfold Gang.setKreg; split <;> rfl
@[simp] theorem Gang.setKreg_age (g : Gang) (i : Nat) (m : W) : (g.setKreg i m).age = g.age := by unfold Gang.setKreg; split <;> rfl
@[simp] theorem Gang.setKreg_aged (g : Gang) (i : Nat) (m : W) : (g.setKreg i m).aged = g.aged := by unfold Gang.setKreg; split <;> rfl
@[simp] theorem Gang.setKreg_issued (g : Gang) (i : Nat) (m : W) : (g.setKreg i m).issued = g.issued := by unfold Gang.setKreg; split <;> rfl
@[simp] theorem Gang.setKreg_ended (g : Gang) (i : Nat) (m : W) : (g.setKreg i m).ended = g.ended := by unfold Gang.setKreg; split <;> rfl
@[simp] theorem Gang.setKreg_wave (g : Gang) (i : Nat) (m : W) : (g.setKreg i m).wave = g.wave := by unfold Gang.setKreg; split <;> rfl
@[simp] theorem Gang.setKreg_pre (g : Gang) (i : Nat) (m : W) : (g.setKreg i m).pre = g.pre := by unfold Gang.setKreg; split <;> rfl
@[simp] theorem Gang.setKreg_raised (g : Gang) (i : Nat) (m : W) : (g.setKreg i m).raised = g.raised := by unfold Gang.setKreg; split <;> rfl

end Sys2Proof.Machine
end

