-- ==== Sys2Proof/Laws/Store.lean ====
section
/-! SUPPORT. Sys2Proof/Laws/Store.lean: reading after writing, for keyed tables, vectors and lanes. -/

namespace Sys2Proof.Machine

/-! ### Keyed tables -/

@[simp] theorem sget_sput_self {α : Type} (m : Store α) (k : Nat) (x : α) : sget (sput m k x) k = some x := by
  induction m with
  | nil => simp [sput, sget]
  | cons p r ih =>
    obtain ⟨j, y⟩ := p
    unfold sput
    split
    · simp [sget]
    · split
      · simp [sget]
      · rename_i h; simp [sget, h, ih]

theorem sget_sput_of_ne {α : Type} (m : Store α) (k k' : Nat) (x : α) (h : k ≠ k') :
    sget (sput m k x) k' = sget m k' := by
  induction m with
  | nil => simp [sput, sget, h]
  | cons p r ih =>
    obtain ⟨j, y⟩ := p
    unfold sput
    split
    · simp [sget, h]
    · split
      · rename_i e; subst e; simp [sget, h]
      · simp only [sget, ih]

@[simp] theorem sgetD_sput_self {α : Type} (m : Store α) (k : Nat) (x d : α) : sgetD (sput m k x) k d = x := by
  simp [sgetD]

theorem sgetD_sput_of_ne {α : Type} (m : Store α) (k k' : Nat) (x d : α) (h : k ≠ k') :
    sgetD (sput m k x) k' d = sgetD m k' d := by
  simp [sgetD, sget_sput_of_ne m k k' x h]

theorem sget_sdel_self {α : Type} (m : Store α) (k : Nat) : sget (sdel m k) k = none := by
  induction m with
  | nil => rfl
  | cons p r ih =>
    obtain ⟨j, y⟩ := p
    unfold sdel at *
    by_cases h : j = k
    · simp [h, ih]
    · simp [h, sget, ih]

theorem sget_sdel_of_ne {α : Type} (m : Store α) (k k' : Nat) (h : k ≠ k') : sget (sdel m k) k' = sget m k' := by
  induction m with
  | nil => rfl
  | cons p r ih =>
    obtain ⟨j, y⟩ := p
    unfold sdel at *
    by_cases e : j = k
    · subst e; simp [sget, h, ih]
    · simp [e, sget, ih]

@[simp] theorem sput_sput {α : Type} (m : Store α) (k : Nat) (x y : α) : sput (sput m k x) k y = sput m k y := by
  induction m with
  | nil => simp [sput]
  | cons p r ih =>
    obtain ⟨j, z⟩ := p
    by_cases h1 : k < j
    · simp [sput, h1]
    · by_cases h2 : j = k
      · simp [sput, h2]
      · simp [sput, h1, h2, ih]

/-! ### Vectors and lanes -/

@[simp] theorem vget_vput_self {α : Type} {n : Nat} (v : Vector α n) (i : Nat) (x d : α) (h : i < n) :
    vget (vput v i x) i d = x := by simp [vget, vput, h]

theorem vget_vput_of_ne {α : Type} {n : Nat} (v : Vector α n) (i j : Nat) (x d : α) (h : i ≠ j) :
    vget (vput v i x) j d = vget v j d := by
  by_cases hj : j < n
  · simp [vget, vput, hj, h]
  · simp [vget, vput, hj]

@[simp] theorem Lanes.lane_of (f : Nat → W) (l : Nat) (h : l < 32) : (Lanes.of f).lane l = f l := by
  simp [Lanes.of, Lanes.lane, h]

@[simp] theorem Lanes.lane_splat (w : W) (l : Nat) (h : l < 32) : (Lanes.splat w).lane l = w := by
  simp [Lanes.splat, h]

/-! ### Masks -/

theorem maskSum_bits (f : Nat → Bool) (n : Nat) :
    (List.range n).foldl (fun acc k => acc + (f k).toNat * 2 ^ k) 0 < 2 ^ n ∧
    ∀ i, ((List.range n).foldl (fun acc k => acc + (f k).toNat * 2 ^ k) 0).testBit i = (decide (i < n) && f i) := by
  induction n with
  | zero => simp
  | succ n ih =>
    obtain ⟨hlt, hb⟩ := ih
    rw [List.range_succ, List.foldl_append]
    simp only [List.foldl_cons, List.foldl_nil]
    generalize (List.range n).foldl (fun acc k => acc + (f k).toNat * 2 ^ k) 0 = a at hlt hb
    have e : a + (f n).toNat * 2 ^ n = 2 ^ n * (f n).toNat + a := by rw [Nat.mul_comm]; omega
    constructor
    · rw [Nat.pow_succ]; cases f n <;> simp <;> omega
    · intro i
      rw [e, Nat.testBit_two_pow_mul_add _ hlt, hb]
      by_cases h : i < n
      · simp [h, Nat.lt_succ_of_lt h]
      · by_cases h2 : i = n
        · subst h2; cases f i <;> simp
        · have h3 : ¬ i < n + 1 := by omega
          have h4 : i - n ≠ 0 := by omega
          simp only [h, h3, if_false, decide_false, Bool.false_and]
          cases f n
          · simp
          · rw [show (true : Bool).toNat = 2 ^ 0 from rfl, Nat.testBit_two_pow]
            simp [Ne.symm h4]

/-- Bit `n` of a mask is what it was made from. -/
theorem bit_maskOf (w : Nat) (f : Nat → Bool) (n : Nat) : bit (maskOf w f) n = (decide (n < w) && f n) := by
  unfold bit maskOf
  rw [BitVec.getLsbD_ofNat, (maskSum_bits f w).2]
  cases decide (n < w) <;> simp

end Sys2Proof.Machine
end

