-- ==== Sys2Proof/Laws/Gang.lean ====
section
/-! SUPPORT. Sys2Proof/Laws/Gang.lean: what the updates of cores, gangs, crews and registers leave to read. -/

namespace Sys2Proof.Machine

/-! ### Cores -/

@[simp] theorem State.core_setCore_self (s : State) (c : Nat) (k : Core) : (s.setCore c k).core c = k := by
  simp [State.core, State.setCore]

theorem State.core_setCore_of_ne (s : State) {c c' : Nat} (k : Core) (h : c ≠ c') :
    (s.setCore c k).core c' = s.core c' := by
  simp [State.core, State.setCore, sgetD_sput_of_ne _ _ _ _ _ h]

@[simp] theorem State.core_modCore_self (s : State) (c : Nat) (f : Core → Core) :
    (s.modCore c f).core c = f (s.core c) := by simp [State.modCore]

theorem State.core_modCore_of_ne (s : State) {c c' : Nat} (f : Core → Core) (h : c ≠ c') :
    (s.modCore c f).core c' = s.core c' := by simp [State.modCore, State.core_setCore_of_ne _ _ h]

@[simp] theorem State.setCore_setCore (s : State) (c : Nat) (k k' : Core) :
    (s.setCore c k).setCore c k' = s.setCore c k' := by simp [State.setCore]

@[simp] theorem State.modCore_modCore (s : State) (c : Nat) (f g : Core → Core) :
    (s.modCore c f).modCore c g = s.modCore c fun k => g (f k) := by simp [State.modCore]

/-! ### Gangs -/

@[simp] theorem State.core_setGang_self (s : State) (c x : Nat) (g : Gang) :
    (s.setGang c x g).core c = { s.core c with gangs := sput (s.core c).gangs x g } := by simp [State.setGang]

theorem State.core_setGang_of_ne (s : State) {c c' : Nat} (x : Nat) (g : Gang) (h : c ≠ c') :
    (s.setGang c x g).core c' = s.core c' := by simp [State.setGang, State.core_modCore_of_ne _ _ h]

@[simp] theorem State.gang?_setGang_self (s : State) (c x : Nat) (g : Gang) : (s.setGang c x g).gang? c x = some g := by
  simp [State.gang?]

@[simp] theorem State.gang_setGang_self (s : State) (c x : Nat) (g : Gang) : (s.setGang c x g).gang c x = g := by
  simp [State.gang]

theorem State.gang?_setGang_of_ne (s : State) {c x c' x' : Nat} (g : Gang) (h : c ≠ c' ∨ x ≠ x') :
    (s.setGang c x g).gang? c' x' = s.gang? c' x' := by
  by_cases hc : c = c'
  · subst hc
    have hx : x ≠ x' := by simpa using h
    simp [State.gang?, sget_sput_of_ne _ _ _ _ hx]
  · simp [State.gang?, State.core_setGang_of_ne _ _ _ hc]

theorem State.gang_eq_gang? (s : State) (c x : Nat) : s.gang c x = (s.gang? c x).getD {} := rfl

theorem State.gang_eq_of_gang? {s : State} {c x : Nat} {g : Gang} (h : s.gang? c x = some g) : s.gang c x = g := by
  simp [State.gang_eq_gang?, h]

@[simp] theorem State.setGang_setGang (s : State) (c x : Nat) (g g' : Gang) :
    (s.setGang c x g).setGang c x g' = s.setGang c x g' := by simp [State.setGang]

/-- Changing a gang that is there sets it. -/
theorem State.modGang_of_some {s : State} {c x : Nat} {g : Gang} (h : s.gang? c x = some g) (f : Gang → Gang) :
    s.modGang c x f = s.setGang c x (f g) := by simp [State.modGang, h]

theorem State.gang?_modGang_self (s : State) (c x : Nat) (f : Gang → Gang) :
    (s.modGang c x f).gang? c x = (s.gang? c x).map f := by
  unfold State.modGang
  split <;> simp_all

theorem State.gang?_modGang_of_ne (s : State) {c x c' x' : Nat} (f : Gang → Gang) (h : c ≠ c' ∨ x ≠ x') :
    (s.modGang c x f).gang? c' x' = s.gang? c' x' := by
  unfold State.modGang
  split
  · exact State.gang?_setGang_of_ne s _ h
  · rfl

/-- Two changes of one gang are one. -/
theorem State.modGang_modGang (s : State) (c x : Nat) (f g : Gang → Gang) :
    (s.modGang c x f).modGang c x g = s.modGang c x fun q => g (f q) := by
  cases h : s.gang? c x with
  | none => simp [State.modGang, h]
  | some q => simp [State.modGang, h]

theorem State.gang_modGang_self {s : State} {c x : Nat} (h : (s.gang? c x).isSome) (f : Gang → Gang) :
    (s.modGang c x f).gang c x = f (s.gang c x) := by
  obtain ⟨g, hg⟩ := Option.isSome_iff_exists.mp h
  simp [State.gang_eq_gang?, State.gang?_modGang_self, hg]

@[simp] theorem State.modGang_id (s : State) (c x : Nat) (h : (s.gang? c x).isNone) (f : Gang → Gang) :
    s.modGang c x f = s := by simp_all [State.modGang]

theorem State.core_modGang_of_ne (s : State) {c c' : Nat} (x : Nat) (f : Gang → Gang) (h : c ≠ c') :
    (s.modGang c x f).core c' = s.core c' := by
  unfold State.modGang
  split
  · exact State.core_setGang_of_ne s x _ h
  · rfl

/-- A change of a gang leaves its core's other fields. -/
theorem State.core_modGang_self (s : State) (c x : Nat) (f : Gang → Gang) :
    (s.modGang c x f).core c = { s.core c with gangs := ((s.modGang c x f).core c).gangs } := by
  unfold State.modGang
  split <;> simp

@[simp] theorem State.crew?_modGang (s : State) (c x : Nat) (f : Gang → Gang) (c' q : Nat) :
    (s.modGang c x f).crew? c' q = s.crew? c' q := by
  by_cases h : c = c'
  · subst h; unfold State.crew?; rw [State.core_modGang_self]
  · simp [State.crew?, State.core_modGang_of_ne s x f h]

@[simp] theorem State.crew_modGang (s : State) (c x : Nat) (f : Gang → Gang) (c' q : Nat) :
    (s.modGang c x f).crew c' q = s.crew c' q := by
  have h := State.crew?_modGang s c x f c' q
  unfold State.crew? at h
  unfold State.crew sgetD
  rw [h]

@[simp] theorem State.share_modGang (s : State) (c x : Nat) (f : Gang → Gang) (c' x' id : Nat) :
    (s.modGang c x f).share c' x' id = s.share c' x' id := by simp [State.share]

/-! ### Crews -/

@[simp] theorem State.gang?_modCrew (s : State) (c q : Nat) (f : Crew → Crew) (c' x : Nat) :
    (s.modCrew c q f).gang? c' x = s.gang? c' x := by
  unfold State.modCrew
  split
  · by_cases h : c = c'
    · subst h; simp [State.gang?, State.setCrew]
    · simp [State.gang?, State.setCrew, State.core_modCore_of_ne _ _ h]
  · rfl

@[simp] theorem State.gang_modCrew (s : State) (c q : Nat) (f : Crew → Crew) (c' x : Nat) :
    (s.modCrew c q f).gang c' x = s.gang c' x := by simp [State.gang_eq_gang?]

/-- A change of a gang and a change of a crew may change places. -/
theorem State.modCrew_modGang (s : State) (c q x : Nat) (w : Crew → Crew) (f : Gang → Gang) :
    (s.modGang c x f).modCrew c q w = (s.modCrew c q w).modGang c x f := by
  cases hg : s.gang? c x with
  | none => simp [State.modGang, hg]
  | some g =>
    cases hc : s.crew? c q with
    | none =>
      simp [State.modCrew, State.crew?_modGang, hc]
    | some cw =>
      have h1 : (s.modGang c x f).crew? c q = some cw := by simp [hc]
      have h2 : (s.modCrew c q w).gang? c x = some g := by simp [hg]
      simp only [State.modCrew, h1]
      simp only [State.modGang, hg]
      simp only [State.modCrew, hc] at h2
      simp only [hc, h2]
      simp [State.setCrew, State.setGang]

/-! ### Varying registers -/

/-- A change of a gang that keeps its registers and bindings keeps what each varying register reads. -/
theorem State.vreg_modGang {s : State} {c x : Nat} {f : Gang → Gang} (hs : (s.gang? c x).isSome)
    (hb : ∀ g, (f g).binds = g.binds) (hv : ∀ g, (f g).v = g.v) (n : Nat) :
    (s.modGang c x f).vreg c x n = s.vreg c x n := by
  unfold State.vreg
  simp only [State.gang_modGang_self hs, State.share_modGang, Gang.bind?, hb, hv]

/-- The same for what a read of this cycle sees. -/
theorem State.vread_modGang {s : State} {c x : Nat} {f : Gang → Gang} (hs : (s.gang? c x).isSome)
    (hb : ∀ g, (f g).binds = g.binds) (hv : ∀ g, (f g).v = g.v) (n : Nat) :
    (s.modGang c x f).vread c x n = s.vread c x n := by
  unfold State.vread
  rw [State.vreg_modGang hs hb hv]
  simp only [State.gang_modGang_self hs, State.share_modGang, Gang.bind?, hb]

/-- Writing a register and a change of the gang that keeps its registers may change places. -/
theorem State.setVreg_modGang {s : State} {c x : Nat} {f : Gang → Gang} (hs : (s.gang? c x).isSome) (n : Nat) (r : VReg)
    (hb : ∀ g, (f g).binds = g.binds) (hv : ∀ g, f { g with v := vput g.v n r } = { f g with v := vput (f g).v n r }) :
    (s.modGang c x f).setVreg c x n r = (s.setVreg c x n r).modGang c x f := by
  unfold State.setVreg
  simp only [State.gang_modGang_self hs, Gang.bind?, hb]
  split
  · exact State.modCrew_modGang ..
  · rw [State.modGang_modGang, State.modGang_modGang]
    congr 1
    funext g
    exact (hv g).symm

theorem State.gang?_setVreg_isSome (s : State) (c x n : Nat) (r : VReg) :
    ((s.setVreg c x n r).gang? c x).isSome = (s.gang? c x).isSome := by
  unfold State.setVreg
  split
  · simp
  · simp [State.gang?_modGang_self]

/-- Writing a register changes no field of the gang but its registers. -/
theorem State.gang?_setVreg_self (s : State) (c x n : Nat) (r : VReg) :
    ∃ v : Gang → Vector VReg 64, (s.setVreg c x n r).gang? c x = (s.gang? c x).map fun g => { g with v := v g } := by
  unfold State.setVreg
  split
  · exact ⟨fun g => g.v, by simp⟩
  · exact ⟨fun g => vput g.v n r, by simp [State.gang?_modGang_self]⟩

/-- Two changes that agree on the gang that is there. -/
theorem State.modGang_congr {s : State} {c x : Nat} {f f' : Gang → Gang}
    (h : ∀ g, s.gang? c x = some g → f g = f' g) : s.modGang c x f = s.modGang c x f' := by
  cases hg : s.gang? c x with
  | none => simp [State.modGang, hg]
  | some g => simp [State.modGang, hg, h g hg]

end Sys2Proof.Machine
end

