-- ==== Sys2Proof/Laws/Issue.lean ====
section
/-! SUPPORT. Sys2Proof/Laws/Issue.lean: what issuing an instruction can do (R42), said once for every form. -/

namespace Sys2Proof.Machine

open Sys2Proof.Safety

/-! ### The issuing context -/

theorem State.issuer_gang {s : State} {c x : Nat} (h : s.issuer = some (c, x)) : (s.gang? c x).isSome := by
  unfold State.issuer at h
  split at h
  · split at h
    · simp_all
    · simp at h
  · simp at h

theorem State.issuer_cur {s : State} {c x : Nat} (h : s.issuer = some (c, x)) : s.cur = some (c, x) := by
  unfold State.issuer at h
  split at h
  · split at h
    · rename_i e _; simp_all
    · simp at h
  · simp at h

/-! ### What the checks read stays as it is when a fallback is noted -/

theorem any_sput {α : Type} (m : Store α) (k : Nat) (x : α) (p : Nat × α → Bool) (h : ∀ y, p (k, y) = false) :
    (sput m k x).any p = m.any p := by
  induction m with
  | nil => simp [sput, h]
  | cons q r ih =>
    obtain ⟨j, y⟩ := q
    unfold sput
    split
    · simp [h]
    · split
      · rename_i e; subst e; simp [h]
      · simp [ih]

/-- A change of the gang that keeps what reads and waits look at. -/
structure Quiet (f : Gang → Gang) : Prop where
  binds : ∀ g, (f g).binds = g.binds
  v : ∀ g, (f g).v = g.v
  s : ∀ g, (f g).s = g.s
  a : ∀ g, (f g).a = g.a
  window : ∀ g, (f g).window = g.window
  groups : ∀ g, (f g).groups = g.groups
  active : ∀ g, (f g).active = g.active
  live : ∀ g, (f g).live = g.live
  valloc : ∀ g, (f g).valloc = g.valloc

theorem quiet_setWmod : Quiet Gang.setWmod := ⟨fun _ => rfl, fun _ => rfl, fun _ => rfl, fun _ => rfl, fun _ => rfl,
  fun _ => rfl, fun _ => rfl, fun _ => rfl, fun _ => rfl⟩

variable {s : State} {c x : Nat} {f : Gang → Gang}

theorem vreg_quiet (hs : (s.gang? c x).isSome) (q : Quiet f) (n : Nat) :
    (s.modGang c x f).vreg c x n = s.vreg c x n := State.vreg_modGang hs q.binds q.v n

theorem vread_quiet (hs : (s.gang? c x).isSome) (q : Quiet f) (n : Nat) :
    (s.modGang c x f).vread c x n = s.vread c x n := State.vread_modGang hs q.binds q.v n

theorem isShared_quiet (hs : (s.gang? c x).isSome) (q : Quiet f) (n : Nat) :
    (s.modGang c x f).isShared c x n = s.isShared c x n := by
  simp [State.isShared, State.gang_modGang_self hs, Gang.bind?, q.binds]

theorem behind_quiet (hs : (s.gang? c x).isSome) (q : Quiet f) (k : ParkKind) (n : Nat) :
    (s.modGang c x f).behind c x k n = s.behind c x k n := by
  obtain ⟨g, hg⟩ := Option.isSome_iff_exists.mp hs
  unfold State.behind
  simp only [State.gang_modGang_self hs, Gang.shared?, Gang.bind?, q.binds, Gang.waitsSince, Gang.park, Gang.group,
    q.groups, q.active, State.modGang_clock]
  split
  · rfl
  · rw [State.modGang_of_some hg, State.core_setGang_self]
    exact any_sput _ _ _ _ (by simp)

theorem readSrc_quiet (hs : (s.gang? c x).isSome) (q : Quiet f) (r : Src) :
    readSrc (s.modGang c x f) c x r = readSrc s c x r := by
  unfold readSrc
  simp only [State.gang_modGang_self hs, vread_quiet hs q, isShared_quiet hs q, behind_quiet hs q,
    Gang.sreg, Gang.areg, q.s, q.a, q.window]

theorem readSrcs_quiet (hs : (s.gang? c x).isSome) (q : Quiet f) (l : List Src) :
    readSrcs (s.modGang c x f) c x l = readSrcs s c x l := by
  induction l with
  | nil => rfl
  | cons r l ih => simp only [readSrcs, readSrc_quiet hs q, ih]

theorem lateWriter_quiet (hs : (s.gang? c x).isSome) (q : Quiet f) (d : Nat) :
    (s.modGang c x f).lateWriter c x d = s.lateWriter c x d := by
  unfold State.lateWriter State.justDone State.placeOf
  rw [State.core_modGang_self]
  simp only [State.gang_modGang_self hs, Gang.parkArg, Gang.park, Gang.group, Gang.bind?, q.binds, q.groups, q.active]

theorem mustWait_quiet (hs : (s.gang? c x).isSome) (q : Quiet f) (d : Nat) :
    mustWait (s.modGang c x f) c x d = mustWait s c x d := by
  unfold mustWait
  simp only [State.gang_modGang_self hs, lateWriter_quiet hs q, vreg_quiet hs q, isShared_quiet hs q, behind_quiet hs q,
    Gang.sreg, Gang.areg, q.s, q.a]

theorem waitDests_quiet (hs : (s.gang? c x).isSome) (q : Quiet f) (l : List Nat) :
    waitDests (s.modGang c x f) c x l = waitDests s c x l := by
  induction l with
  | nil => rfl
  | cons r l ih => simp only [waitDests, mustWait_quiet hs q, ih]

/-- The checks of R42 answer alike whether or not a fallback has been noted. -/
theorem check_noteFallback (hs : (s.gang? c x).isSome) (fm : Form) (fb : Bool) :
    fm.check (noteFallback s c x fb) c x = fm.check s c x := by
  unfold noteFallback
  split
  · unfold Form.check
    simp only [State.gang_modGang_self hs, quiet_setWmod.valloc, Gang.whole, quiet_setWmod.active, quiet_setWmod.live,
      readSrcs_quiet hs quiet_setWmod, waitDests_quiet hs quiet_setWmod]
  · rfl

/-! ### Passing the checks -/

theorem namesOk_ok {valloc : Nat} {l : List (Nat × Nat)} (h : ∀ p ∈ l, p.1 + p.2 ≤ valloc) :
    namesOk valloc l = .ok () := by
  induction l with
  | nil => rfl
  | cons p r ih =>
    obtain ⟨n, k⟩ := p
    have h1 : n + k ≤ valloc := h (n, k) (by simp)
    simp [namesOk, h1, ih fun p hp => h p (by simp [hp])]

theorem waitDests_ok {l : List Nat} (h : ∀ d ∈ l, mustWait s c x d = false) : waitDests s c x l = .ok () := by
  induction l with
  | nil => rfl
  | cons d r ih => simp [waitDests, h d (by simp), ih fun d hd => h d (by simp [hd])]

/-- An instruction that is ready passes the checks with the values of its sources. -/
theorem check_of_ready {fm : Form} {vs : List Val} (h : Ready s c x fm vs) : fm.check s c x = .ok vs := by
  have hw : (!fm.wide || (s.gang c x).whole) = true := by
    cases e : fm.wide with
    | false => rfl
    | true => simp [h.whole e]
  simp [Form.check, namesOk_ok h.names, need, hw, h.reads, waitDests_ok h.writes, bind, Except.bind, pure, Except.pure]

/-- An instruction that is ready comes to its own effect. -/
theorem issue_of_ready {fm : Form} {vs : List Val} (h : Ready s c x fm vs)
    (body : State → Nat → Nat → List Val → Except Stop Done) :
    issue s fm body = .next (settle (noteFallback s c x fm.fb) c x (body (noteFallback s c x fm.fb) c x vs)) := by
  have hs := State.issuer_gang h.issues
  have hc : fm.check (noteFallback s c x fm.fb) c x = .ok vs := by
    rw [check_noteFallback hs, check_of_ready h]
  simp only [issue, h.issues, h.legal, if_true, hc]
  rfl

/-- An instruction that the checks stop takes the fault or parks, and does nothing else. -/
theorem issue_of_stop {fm : Form} {e : Stop} (hi : s.issuer = some (c, x)) (hl : fm.legal = true)
    (h : fm.check s c x = .error e) (body : State → Nat → Nat → List Val → Except Stop Done) :
    issue s fm body = .next (settle (noteFallback s c x fm.fb) c x (.error e)) := by
  have hs := State.issuer_gang hi
  have hc : fm.check (noteFallback s c x fm.fb) c x = .error e := by rw [check_noteFallback hs, h]
  simp only [issue, hi, hl, if_true, hc]
  rfl

/-- An illegal form takes E_ILL with its word (R39). -/
theorem issue_of_illegal {fm : Form} (hi : s.issuer = some (c, x)) (hl : fm.legal = false)
    (body : State → Nat → Nat → List Val → Except Stop Done) :
    issue s fm body = .next (s.takeFault c x eIll 0 s.ir 0 0) := by
  simp [issue, hi, hl]

/-- Issuing stops the model only where nothing issues. -/
theorem issue_goes (s : State) (fm : Form) (body : State → Nat → Nat → List Val → Except Stop Done) :
    (∃ t, issue s fm body = .next t) ∨ (s.issuer = none ∧ issue s fm body = .fault .noIssuer) := by
  unfold issue
  split
  · rename_i h; exact .inr ⟨h, rfl⟩
  · split
    · exact .inl ⟨_, rfl⟩
    · exact .inl ⟨_, rfl⟩

/-! ### Retiring -/

/-- The fallback of an instruction and its retirement are one change of the gang. -/
theorem noteFallback_modGang (hs : (s.gang? c x).isSome) (fb : Bool) (f : Gang → Gang) :
    (noteFallback s c x fb).modGang c x f =
      s.modGang c x fun g => f (if fb && g.group.held.isNone then g.setWmod else g) := by
  obtain ⟨g, hg⟩ := Option.isSome_iff_exists.mp hs
  have e := State.gang_eq_of_gang? hg
  unfold noteFallback
  rw [e]
  split
  · rename_i h
    rw [State.modGang_modGang, State.modGang_of_some hg, State.modGang_of_some hg, if_pos h]
  · rename_i h
    rw [State.modGang_of_some hg, State.modGang_of_some hg, if_neg h]

/-- Retiring with no run's end and nothing after. -/
theorem retire_eq {c x : Nat} {d : Done} (hp : d.post = id) (he : d.ends = none) :
    State.retire c x d =
      d.s.modGang c x (retired false 0 d.size { val := d.val, dest := d.dest, w := d.w, old := d.old }) := by
  unfold State.retire
  simp only [hp, he, id]
  congr 1
  funext g
  by_cases hz : d.size = 0
  · simp [hz, retired, Gang.modGroup, Gang.pushWin, Gang.winEntry]
  · simp [hz, retired, Gang.modGroup, Gang.setPcs, Gang.pc, Gang.pushWin, Gang.winEntry]

/-- Retiring an instruction that ends its run: what follows comes after `endDone`. -/
theorem retire_ends {s : State} {c x : Nat} {fb : Bool} {d : Done} {t : Trailer} {u : Gang → Gang} (he : d.ends = some t)
    (hs : d.s = (noteFallback s c x fb).modGang c x u) (hv : d.val = none) (hd : d.dest = 0x7f) (hw : d.w = false)
    (ho : d.old = none) :
    State.retire c x d = d.post (endDone s c x fb d.size t u) := by
  unfold State.retire endDone State.endRun
  simp only [he, hs, State.modGang_modGang]
  congr 2
  congr 1
  funext g
  by_cases hz : d.size = 0
  · simp [hz, hv, hd, hw, ho, retired, noResult, Gang.modGroup, Gang.pushWin]
  · simp [hz, hv, hd, hw, ho, retired, noResult, Gang.modGroup, Gang.setPcs, Gang.pc, Gang.pushWin, Gang.winEntry]

/-- Noting a fallback and raising flags before retiring is retiring with both. -/
theorem retired_noted (fb : Bool) (fl : BitVec 14) (size : Nat) (e : WinEntry) (g : Gang) :
    retired false 0 size e ((if fb && g.group.held.isNone then g.setWmod else g).raise fl) = retired fb fl size e g := by
  unfold retired
  cases h : (fb && g.group.held.isNone)
  · simp [Gang.raise, Gang.pc, Gang.pushWin, Gang.winEntry]
  · simp only [Bool.false_and, Bool.true_and, if_true, Gang.raise, Gang.setWmod, Gang.pc]
    congr 1
    · simp only [Bool.false_eq_true, if_false]
      ac_rfl
    · cases bit g.gstat 0 <;> rfl

end Sys2Proof.Machine
end

