-- ==== Sys2Proof/Laws/Results.lean ====
section
/-! SUPPORT. Sys2Proof/Laws/Results.lean: the state that each shape of result leaves when its instruction retires. -/

namespace Sys2Proof.Machine

open Sys2Proof.Safety

variable {s : State} {c x : Nat}

theorem settle_ok {d : Done} (h : d.parks = none) : settle s c x (.ok d) = State.retire c x d := by
  simp [settle, h]

/-! ### What a noted fallback leaves to read -/

theorem quiet_raise (fl : BitVec 14) : Quiet fun g => g.raise fl := ⟨fun _ => rfl, fun _ => rfl, fun _ => rfl,
  fun _ => rfl, fun _ => rfl, fun _ => rfl, fun _ => rfl, fun _ => rfl, fun _ => rfl⟩

theorem gang?_noteFallback_isSome (hs : (s.gang? c x).isSome) (fb : Bool) :
    ((noteFallback s c x fb).gang? c x).isSome := by
  unfold noteFallback
  split
  · simpa [State.gang?_modGang_self] using hs
  · exact hs

theorem gang_noteFallback (hs : (s.gang? c x).isSome) (fb : Bool) :
    (noteFallback s c x fb).gang c x =
      if fb && (s.gang c x).group.held.isNone then (s.gang c x).setWmod else s.gang c x := by
  unfold noteFallback
  split
  · exact State.gang_modGang_self hs _
  · rfl

@[simp] theorem lanes_noteFallback (hs : (s.gang? c x).isSome) (fb : Bool) :
    ((noteFallback s c x fb).gang c x).lanes = (s.gang c x).lanes := by
  rw [gang_noteFallback hs]
  split <;> rfl

theorem vreg_noteFallback (hs : (s.gang? c x).isSome) (fb : Bool) (n : Nat) :
    (noteFallback s c x fb).vreg c x n = s.vreg c x n := by
  unfold noteFallback
  split
  · exact vreg_quiet hs quiet_setWmod n
  · rfl

theorem isShared_noteFallback (hs : (s.gang? c x).isSome) (fb : Bool) (n : Nat) :
    (noteFallback s c x fb).isShared c x n = s.isShared c x n := by
  unfold noteFallback
  split
  · exact isShared_quiet hs quiet_setWmod n
  · rfl

theorem sreg_noteFallback (hs : (s.gang? c x).isSome) (fb : Bool) (i : Nat) :
    ((noteFallback s c x fb).gang c x).sreg i = (s.gang c x).sreg i := by
  rw [gang_noteFallback hs]
  split <;> rfl

theorem areg_noteFallback (hs : (s.gang? c x).isSome) (fb : Bool) (i : Nat) :
    ((noteFallback s c x fb).gang c x).areg i = (s.gang c x).areg i := by
  rw [gang_noteFallback hs]
  split <;> rfl

/-! ### Lane results -/

theorem activeList_lanes (m : W) : activeList m = (List.range 32).filter fun l => bit m l := rfl

theorem lanesOfList_map (f : Nat → W) : lanesOfList ((List.range 32).map f) = Lanes.of f := rfl

theorem runLanes_fst (m : W) (f : Nat → W × BitVec 14) :
    (runLanes m f).1 = Lanes.of fun l => if bit m l then (f l).1 else 0 := by
  unfold runLanes
  simp only [List.map_map]
  rw [lanesOfList_map]
  congr 1
  funext l
  simp only [Function.comp]
  split <;> rfl

theorem runLanes_snd (m : W) (f : Nat → W × BitVec 14) : (runLanes m f).2 = laneFlags m fun l => (f l).2 := by
  unfold runLanes laneFlags
  simp only [activeList, List.foldl_filter, List.foldl_map]
  congr 1
  funext a l
  split <;> simp

theorem Lanes.of_congr {f g : Nat → W} (h : ∀ l < 32, f l = g l) : Lanes.of f = Lanes.of g := by
  unfold Lanes.of
  congr 2
  apply List.map_congr_left
  intro l hl
  exact h l (by simpa using hl)

theorem mergeLanes_eq (m : W) (r : Nat → W) (old : Lanes) (new : Lanes)
    (h : ∀ l < 32, bit m l = true → new.lane l = r l) :
    mergeLanes m new old = laneMerge m r old.lane := by
  unfold mergeLanes laneMerge
  apply Lanes.of_congr
  intro l hl
  split
  · rename_i e; exact h l hl e
  · rfl

theorem mergeLanes_runLanes (m : W) (f : Nat → W × BitVec 14) (old : Lanes) :
    mergeLanes m (runLanes m f).1 old = laneMerge m (fun l => (f l).1) old.lane := by
  apply mergeLanes_eq
  intro l hl e
  simp [runLanes_fst, hl, e]

theorem laneMerge_congr {m : W} {r old old' : Nat → W} (h : ∀ l < 32, old l = old' l) :
    laneMerge m r old = laneMerge m r old' := by
  unfold laneMerge
  apply Lanes.of_congr
  intro l hl
  split
  · rfl
  · exact h l hl

theorem setVreg_noteFallback (hs : (s.gang? c x).isSome) (fb : Bool) (n : Nat) (r : VReg) (f : Gang → Gang) :
    ((noteFallback s c x fb).setVreg c x n r).modGang c x f =
      (s.setVreg c x n r).modGang c x fun g => f (if fb && g.group.held.isNone then g.setWmod else g) := by
  obtain ⟨g, hg⟩ := Option.isSome_iff_exists.mp hs
  obtain ⟨v, hv⟩ := State.gang?_setVreg_self s c x n r
  have e := State.gang_eq_of_gang? hg
  have hp : ∀ q, (s.setVreg c x n r).gang? c x = some q → q.group.held = (s.gang c x).group.held := by
    intro q hq
    rw [hv, hg, Option.map_some, Option.some.injEq] at hq
    subst hq
    rw [e]
    rfl
  unfold noteFallback
  split
  · rename_i h
    rw [State.setVreg_modGang hs _ _ quiet_setWmod.binds (fun _ => rfl), State.modGang_modGang]
    exact State.modGang_congr fun q hq => by rw [hp q hq, if_pos h]
  · rename_i h
    exact State.modGang_congr fun q hq => by rw [hp q hq, if_neg h]

/-- The write of a varying result, by what it writes in the active lanes. -/
theorem retire_giveV (hs : (s.gang? c x).isSome) (f : T3) (fb : Bool) (size : Nat) (tag : Byte)
    (new : Lanes) (r : Nat → W) (fl : BitVec 14)
    (hr : ∀ l < 32, bit (s.gang c x).lanes l = true → new.lane l = r l) :
    State.retire c x { giveV (noteFallback s c x fb) c x f (s.gang c x).lanes (new, fl) tag with size := size } =
      (if f.w = 1 then s else s.setVreg c x f.d.toNat
        { s.vreg c x f.d.toNat with
          val := laneMerge (s.gang c x).lanes r (s.vreg c x f.d.toNat).val.lane, tag := tag, fe := .full }).modGang c x
        (retired fb fl size
          { val := some (.v (laneMerge (s.gang c x).lanes r
                fun l => if f.w = 1 then 0 else (s.vreg c x f.d.toNat).val.lane l) tag),
            dest := f.d.setWidth 8, w := f.w == 1,
            old := if f.w = 1 || s.isShared c x f.d.toNat then none
              else some (.v (s.vreg c x f.d.toNat).val (s.vreg c x f.d.toNat).tag) }) := by
  have hn := gang?_noteFallback_isSome hs fb
  have hq := quiet_raise fl
  unfold giveV doneV
  by_cases hw : f.w = 1
  · simp only [hw, if_true]
    rw [retire_eq rfl rfl]
    simp only
    rw [State.modGang_modGang, noteFallback_modGang hs]
    simp only [retired_noted]
    rw [mergeLanes_eq _ r _ _ hr, laneMerge_congr (old' := fun _ => 0) (fun l hl => Lanes.lane_splat 0 l hl)]
    rfl
  · simp only [hw, if_false]
    rw [retire_eq rfl rfl]
    simp only [State.writeV]
    rw [vreg_quiet hn hq, isShared_quiet hn hq, vreg_noteFallback hs, isShared_noteFallback hs, State.setVreg_modGang hn _ _ hq.binds (fun _ => rfl),
      State.modGang_modGang, mergeLanes_eq _ r _ _ hr]
    have e : (f.w == 1) = false := by simpa using hw
    simp only [e]
    rw [setVreg_noteFallback hs]
    simp only [retired_noted, decide_false, Bool.false_or]

theorem bits_ne_one {b : BitVec 1} (h : ¬b = 1) : b = 0 := by
  have : b.toNat < 2 := b.isLt
  apply BitVec.eq_of_toNat_eq
  have h1 : b.toNat ≠ 1 := fun e => h (BitVec.eq_of_toNat_eq e)
  simp
  omega

theorem giveV_parks (f : T3) (m : W) (r : Lanes × BitVec 14) (tag : Byte) : (giveV s c x f m r tag).parks = none := by
  unfold giveV doneV
  split <;> rfl

theorem giveV_size (f : T3) (m : W) (r : Lanes × BitVec 14) (tag : Byte) : (giveV s c x f m r tag).size = 4 := by
  unfold giveV doneV
  split <;> rfl

theorem Done.with_size {d : Done} {n : Nat} (h : d.size = n) : { d with size := n } = d := by
  subst h
  rfl

/-- A varying result of any instruction leaves `laneWrite`. -/
theorem settle_giveV (hs : (s.gang? c x).isSome) (f : T3) (fb : Bool) (tag : Byte) (new : Lanes) (r : Nat → W)
    (fl : BitVec 14) (hr : ∀ l < 32, bit (s.gang c x).lanes l = true → new.lane l = r l) :
    settle (noteFallback s c x fb) c x (.ok (giveV (noteFallback s c x fb) c x f (s.gang c x).lanes (new, fl) tag)) =
      laneWrite s c x f fb 4 tag r fl := by
  rw [settle_ok (giveV_parks ..), ← Done.with_size (giveV_size ..),
    retire_giveV hs f fb 4 tag new r fl hr]
  unfold laneWrite
  by_cases h : f.w = 1
  · simp [h]
  · simp [bits_ne_one h]

/-- A lane operation of any source count leaves `laneDone`. -/
theorem settle_runLanes (hs : (s.gang? c x).isSome) (f : T3) (fb : Bool) (tag : Byte) (r : Nat → W × BitVec 14) :
    settle (noteFallback s c x fb) c x
        (.ok (giveV (noteFallback s c x fb) c x f (s.gang c x).lanes (runLanes (s.gang c x).lanes r) tag)) =
      laneDone s c x f fb 4 tag r :=
  (settle_giveV hs f fb tag (runLanes (s.gang c x).lanes r).1 (fun l => (r l).1) (runLanes (s.gang c x).lanes r).2
    (fun l hl e => by simp [runLanes_fst, hl, e])).trans (by rw [runLanes_snd]; rfl)

/-- The same, 2 bytes long. -/
theorem settle_short_runLanes (hs : (s.gang? c x).isSome) (f : T3) (fb : Bool) (tag : Byte) (r : Nat → W × BitVec 14) :
    settle (noteFallback s c x fb) c x
        (short (.ok (giveV (noteFallback s c x fb) c x f (s.gang c x).lanes (runLanes (s.gang c x).lanes r) tag))) =
      laneDone s c x f fb 2 tag r := by
  have hk := giveV_parks (s := noteFallback s c x fb) (c := c) (x := x) f (s.gang c x).lanes
    (runLanes (s.gang c x).lanes r) tag
  have h2 := retire_giveV hs f fb 2 tag (runLanes (s.gang c x).lanes r).1 (fun l => (r l).1)
    (runLanes (s.gang c x).lanes r).2 (fun l hl e => by simp [runLanes_fst, hl, e])
  refine (settle_ok (d := { giveV (noteFallback s c x fb) c x f (s.gang c x).lanes
    (runLanes (s.gang c x).lanes r) tag with size := 2 }) hk).trans (h2.trans ?_)
  rw [runLanes_snd]
  unfold laneDone laneWrite
  by_cases h : f.w = 1
  · simp [h]
  · simp [bits_ne_one h]

theorem mem_activeList {m : W} {l : Nat} : l ∈ activeList m ↔ l < 32 ∧ bit m l = true := by
  simp [activeList]

theorem laneFlags_congr {m : W} {r r' : Nat → BitVec 14} (h : ∀ l < 32, bit m l = true → r l = r' l) :
    laneFlags m r = laneFlags m r' := by
  unfold laneFlags
  have hm : ∀ l ∈ activeList m, r l = r' l := fun l hl => h l (mem_activeList.mp hl).1 (mem_activeList.mp hl).2
  revert hm
  generalize activeList m = ls
  generalize (0 : BitVec 14) = a
  intro hm
  induction ls generalizing a with
  | nil => rfl
  | cons l ls ih =>
    simp only [List.foldl_cons]
    rw [hm l (by simp)]
    exact ih _ fun k hk => hm k (by simp [hk])

theorem laneWrite_congr {f : T3} {fb : Bool} {size : Nat} {tag : Byte} {r r' : Nat → W} {fl : BitVec 14}
    (h : ∀ l < 32, bit (s.gang c x).lanes l = true → r l = r' l) :
    laneWrite s c x f fb size tag r fl = laneWrite s c x f fb size tag r' fl := by
  have h1 : ∀ old, laneMerge (s.gang c x).lanes r old = laneMerge (s.gang c x).lanes r' old := by
    intro old
    unfold laneMerge
    apply Lanes.of_congr
    intro l hl
    split
    · rename_i e; exact h l hl e
    · rfl
  unfold laneWrite
  simp only [h1]

/-- Only the active lanes count. -/
theorem laneDone_congr {f : T3} {fb : Bool} {size : Nat} {tag : Byte} {r r' : Nat → W × BitVec 14}
    (h : ∀ l < 32, bit (s.gang c x).lanes l = true → r l = r' l) :
    laneDone s c x f fb size tag r = laneDone s c x f fb size tag r' := by
  unfold laneDone
  rw [laneFlags_congr fun l hl e => congrArg Prod.snd (h l hl e),
    laneWrite_congr fun l hl e => congrArg Prod.fst (h l hl e)]

/-! ### Uniform, affine and mask results, and none -/

theorem raise_zero (g : Gang) : g.raise 0 = g := by unfold Gang.raise; simp

theorem retired_noted_zero (fb : Bool) (size : Nat) (e : WinEntry) (g : Gang) :
    retired false 0 size e (if fb && g.group.held.isNone then g.setWmod else g) = retired fb 0 size e g := by
  have h := retired_noted fb 0 size e g
  rwa [raise_zero] at h

/-- A change of the gang that neither reads nor writes what retiring and a fallback change. -/
theorem retired_after {fb : Bool} {fl : BitVec 14} {size : Nat} {e : WinEntry} {u : Gang → Gang} {g : Gang}
    (hp : (u g).group.held = g.group.held) (hc : u g.setWmod = (u g).setWmod) (hr : ∀ q : Gang, u (q.raise fl) = (u q).raise fl) :
    retired false 0 size e (u ((if fb && g.group.held.isNone then g.setWmod else g).raise fl)) = retired fb fl size e (u g) := by
  rw [hr, ← retired_noted fb fl size e (u g), hp]
  split
  · rw [hc]
  · rfl

theorem settle_doneS (hs : (s.gang? c x).isSome) (fb : Bool) (d : Nat) (w : W) :
    settle (noteFallback s c x fb) c x (.ok (doneS (noteFallback s c x fb) c x d w)) = uniDone s c x d fb w := by
  unfold doneS uniDone State.writeS
  rw [settle_ok rfl, retire_eq rfl rfl]
  simp only
  rw [State.modGang_modGang, noteFallback_modGang hs, sreg_noteFallback hs]
  apply State.modGang_congr
  intro g hg
  rw [State.gang_eq_of_gang? hg]
  have h := retired_after (fb := fb) (fl := 0) (size := 4) (g := g)
    (e := { val := some (.s w), dest := BitVec.ofNat 8 (64 + d), w := false,
            old := if d = 0 then none else some (.s (g.sreg d).val) })
    (u := fun g => g.setSreg d { g.sreg d with val := w, fe := .full })
    (by unfold Gang.setSreg; split <;> rfl) (by unfold Gang.setSreg; split <;> rfl)
    (fun q => by unfold Gang.setSreg; split <;> rfl)
  rw [raise_zero] at h
  exact h

theorem settle_giveA (hs : (s.gang? c x).isSome) (f : T3) (fb : Bool) (b st : W) (e : Nat → Int) (fl : BitVec 14) :
    settle (noteFallback s c x fb) c x (.ok (giveA (noteFallback s c x fb) c x f b st e fl)) =
      affDone s c x f.d.toNat fb (aovFlag b st e ||| fl) b st := by
  unfold giveA doneA affDone State.writeA
  rw [settle_ok rfl, retire_eq rfl rfl]
  simp only
  have hn := gang?_noteFallback_isSome hs fb
  rw [State.gang_modGang_self hn, State.modGang_modGang, State.modGang_modGang, noteFallback_modGang hs]
  have ha : ∀ fl, (((noteFallback s c x fb).gang c x).raise fl).areg f.d.toNat = (s.gang c x).areg f.d.toNat :=
    fun _ => areg_noteFallback hs fb f.d.toNat
  apply State.modGang_congr
  intro g hg
  rw [ha, State.gang_eq_of_gang? hg]
  exact retired_after (g := g) (u := fun g => g.setAreg f.d.toNat { g.areg f.d.toNat with base := b, stride := st, fe := .full })
    rfl rfl (fun _ => rfl)

theorem kreg_noteFallback (hs : (s.gang? c x).isSome) (fb : Bool) (i : Nat) :
    ((noteFallback s c x fb).gang c x).kreg i = (s.gang c x).kreg i := by
  rw [gang_noteFallback hs]
  split <;> rfl

theorem settle_doneK (hs : (s.gang? c x).isSome) (fb : Bool) (d : Nat) (m r : W) (fl : BitVec 14) :
    settle (noteFallback s c x fb) c x
        (.ok (doneK ((noteFallback s c x fb).modGang c x fun g => g.raise fl) c x d m r)) =
      maskDone s c x d fb fl m r := by
  have hn := gang?_noteFallback_isSome hs fb
  unfold doneK maskDone State.writeK
  rw [settle_ok rfl, retire_eq rfl rfl]
  simp only
  rw [State.modGang_modGang, State.modGang_modGang, noteFallback_modGang hs, State.gang_modGang_self hn]
  apply State.modGang_congr
  intro g hg
  have e : (((noteFallback s c x fb).gang c x).raise fl).kreg d = g.kreg d := by
    rw [show (((noteFallback s c x fb).gang c x).raise fl).kreg d = ((noteFallback s c x fb).gang c x).kreg d from rfl,
      kreg_noteFallback hs, State.gang_eq_of_gang? hg]
  rw [e]
  exact retired_after (g := g) (u := fun q => q.setKreg d (r &&& m ||| (if d = 0 then 0 else g.kreg d) &&& ~~~m))
    (by unfold Gang.setKreg; split <;> rfl) (by unfold Gang.setKreg; split <;> rfl)
    (fun q => by unfold Gang.setKreg; split <;> rfl)

theorem settle_doneK_plain (hs : (s.gang? c x).isSome) (fb : Bool) (d : Nat) (m r : W) :
    settle (noteFallback s c x fb) c x (.ok (doneK (noteFallback s c x fb) c x d m r)) = maskDone s c x d fb 0 m r := by
  have hn := gang?_noteFallback_isSome hs fb
  rw [← settle_doneK hs fb d m r 0]
  obtain ⟨g, hg⟩ := Option.isSome_iff_exists.mp hn
  have e : ((noteFallback s c x fb).modGang c x fun g => g.raise 0) =
      (noteFallback s c x fb).modGang c x fun g => g := State.modGang_congr fun q _ => raise_zero q
  unfold doneK State.writeK
  rw [settle_ok rfl, settle_ok rfl, retire_eq rfl rfl, retire_eq rfl rfl]
  simp only
  rw [e, State.modGang_modGang, State.modGang_modGang, State.modGang_modGang, State.gang_modGang_self hn]

theorem settle_done (hs : (s.gang? c x).isSome) (fb : Bool) :
    settle (noteFallback s c x fb) c x (.ok (done (noteFallback s c x fb))) = plainDone s c x fb := by
  unfold done plainDone
  rw [settle_ok rfl, retire_eq rfl rfl]
  simp only
  rw [noteFallback_modGang hs]
  apply State.modGang_congr
  intro g _
  exact retired_noted_zero ..

/-! ### The same where the effect has changed the state -/

theorem noteFallback_false (s : State) (c x : Nat) : noteFallback s c x false = s := by simp [noteFallback]

theorem settle_plain (hs : (s.gang? c x).isSome) : settle s c x (.ok (done s)) = plainDone s c x false := by
  simpa only [noteFallback_false] using settle_done hs false

theorem settle_uni (hs : (s.gang? c x).isSome) (d : Nat) (w : W) :
    settle s c x (.ok (doneS s c x d w)) = uniDone s c x d false w := by
  simpa only [noteFallback_false] using settle_doneS hs false d w

theorem need_true (e : Stop) : need true e = .ok () := rfl

theorem need_false (e : Stop) : need false e = .error e := rfl

end Sys2Proof.Machine
end

