-- ==== Sys2Proof/Laws/Checks.lean ====
section
/-! SUPPORT. Sys2Proof/Laws/Checks.lean: what the checks in front of a body settle to, what the shapes of `Done` that name no
register leave, and what a noted fallback keeps. -/

namespace Sys2Proof.Machine

open Sys2Proof.Safety

variable {s : State} {c x : Nat}

/-! ### Checks -/

theorem settle_code (v : State) (e : Byte) : settle v c x (.error (.code e)) = v.takeFault c x e 0 0 0 0 := rfl

theorem settle_fault (v : State) (e cause : Byte) (info : W) (aux : PC) (fl : Byte) :
    settle v c x (.error (.fault e cause info aux fl)) = v.takeFault c x e cause info aux fl := rfl

theorem settle_park (v : State) (r : ParkKind) (n : Byte) : settle v c x (.error (.park r n)) = v.park c x r n := rfl

/-- A check in front of a body: its fault, or the body. -/
theorem settle_need (v : State) (b : Bool) (e : Byte) (k : Unit → Except Stop Done) :
    settle v c x (need b (.code e) >>= k) = if b = true then settle v c x (k ()) else v.takeFault c x e 0 0 0 0 := by
  cases b <;> rfl

theorem settle_need_prop (v : State) (p : Prop) [Decidable p] (e : Byte) (k : Unit → Except Stop Done) :
    settle v c x (need (decide p) (.code e) >>= k) = if p then settle v c x (k ()) else v.takeFault c x e 0 0 0 0 := by
  rw [settle_need]
  by_cases h : p <;> simp [h]

/-- A wait in front of a body: the group parks, or the body. -/
theorem settle_need_park (v : State) (b : Bool) (r : ParkKind) (n : Byte) (k : Unit → Except Stop Done) :
    settle v c x (need b (.park r n) >>= k) = if b = true then settle v c x (k ()) else v.park c x r n := by
  cases b <;> rfl

theorem settle_pass (v : State) (k : Unit → Except Stop Done) : settle v c x (Except.ok () >>= k) = settle v c x (k ()) := rfl

theorem notPlaza_ok (hx : x ≠ 64) : notPlaza x = .ok () := by simp [notPlaza, isPlaza, hx, need]

/-- The address operand of a KV command (R368). -/
theorem settle_kvAddr (v : State) (a : W) (k : Unit → Except Stop Done) :
    settle v c x (kvAddr a >>= k) = if (a.toNat % 16 != 0) = true then v.takeFault c x eAlign 0 0 0 0
      else if (!sramExists a.toNat) = true then v.takeFault c x ePerm 0 0 0 0 else settle v c x (k ()) := by
  unfold kvAddr
  rw [show (a.toNat % 16 == 0) = !(a.toNat % 16 != 0) by simp [bne]]
  generalize (a.toNat % 16 != 0) = z
  cases z
  · cases sramExists a.toNat <;> rfl
  · rfl

/-! ### Results, in whatever state the body leaves -/

theorem settle_done_any (t : State) {v : State} : settle v c x (.ok (done t)) = plainDone t c x false := by
  rw [settle_ok rfl, retire_eq rfl rfl]; rfl

theorem settle_doneS_any (t : State) (d : Nat) (w : W) {v : State} :
    settle v c x (.ok (doneS t c x d w)) = uniDone t c x d false w := by
  unfold doneS uniDone State.writeS
  rw [settle_ok rfl, retire_eq rfl rfl]
  simp only
  rw [State.modGang_modGang]
  exact State.modGang_congr fun g hg => by rw [State.gang_eq_of_gang? hg]

/-- An instruction whose result comes later: the window names its register and holds no value. -/
theorem settle_later (t : State) (d : Byte) {v : State} :
    settle v c x (.ok { s := t, dest := d }) = t.modGang c x (retired false 0 4 { val := none, dest := d, w := false }) := by
  rw [settle_ok rfl, retire_eq rfl rfl]

theorem settle_parks (t : State) (k : ParkKind) (n : Byte) {v : State} :
    settle v c x (.ok { s := t, parks := some (k, n) }) = t.park c x k n := rfl

/-! ### What a noted fallback keeps -/

theorem crew_noteFallback (fb : Bool) (c' q : Nat) : (noteFallback s c x fb).crew c' q = s.crew c' q := by
  unfold noteFallback; split
  · exact State.crew_modGang ..
  · rfl

theorem pinOf_noteFallback (fb : Bool) : (noteFallback s c x fb).pinOf c x = s.pinOf c x := by
  unfold State.pinOf; rw [crew_noteFallback]

theorem tick_noteFallback (fb : Bool) : (noteFallback s c x fb).tick = s.tick := by
  unfold noteFallback; split
  · unfold State.modGang; split <;> rfl
  · rfl

theorem plazaNodes_noteFallback (fb : Bool) : ((noteFallback s c x fb).core c).plazaNodes = (s.core c).plazaNodes := by
  unfold noteFallback; split
  · unfold State.modGang; split
    · simp [State.setGang, State.modCore, State.setCore, State.core]
    · rfl
  · rfl

theorem nodes_noteFallback (fb : Bool) (q : Nat) : (noteFallback s c x fb).nodes c q = s.nodes c q := by
  unfold State.nodes; rw [plazaNodes_noteFallback, crew_noteFallback]

theorem recs_noteFallback (hs : (s.gang? c x).isSome) (fb : Bool) :
    ((noteFallback s c x fb).gang c x).recs = (s.gang c x).recs := by
  rw [gang_noteFallback hs]; split <;> rfl

theorem pc_noteFallback (hs : (s.gang? c x).isSome) (fb : Bool) : ((noteFallback s c x fb).gang c x).pc = (s.gang c x).pc := by
  rw [gang_noteFallback hs]; split <;> rfl

theorem wave_noteFallback (hs : (s.gang? c x).isSome) (fb : Bool) :
    ((noteFallback s c x fb).gang c x).wave = (s.gang c x).wave := by
  rw [gang_noteFallback hs]; split <;> rfl

theorem role_noteFallback (hs : (s.gang? c x).isSome) (fb : Bool) :
    ((noteFallback s c x fb).gang c x).role = (s.gang c x).role := by
  rw [gang_noteFallback hs]; split <;> rfl

theorem halt_noteFallback (hs : (s.gang? c x).isSome) (fb : Bool) :
    ((noteFallback s c x fb).gang c x).halt = (s.gang c x).halt := by
  rw [gang_noteFallback hs]; split <;> rfl

theorem asidOf_noteFallback (hs : (s.gang? c x).isSome) (fb : Bool) : (noteFallback s c x fb).asidOf c x = s.asidOf c x := by
  unfold State.asidOf
  rw [crew_noteFallback, wave_noteFallback hs]

end Sys2Proof.Machine
end

