-- ==== Sys2Proof/Laws/Lanes.lean ====
section
/-! SUPPORT. Sys2Proof/Laws/Lanes.lean: what the issue of each shape of lane, uniform and mask instruction does where the
instruction is ready and its tags are accepted. -/

namespace Sys2Proof.Machine

open Sys2Proof.Safety

variable {s : State} {c x : Nat} {f : T3}

/-! ### Lanes -/

theorem issueV2_of_ready {fmt : List Nat} {tag : List Val → Byte} {op : W → W → W × BitVec 14} {a b : Val}
    (h : Ready s c x (t3Form .v .any .any f) [a, b]) (ha : tagOk fmt a = true) (hb : tagOk fmt b = true) :
    issueV2 s f fmt tag op = .next (laneDone s c x f (t3Form .v .any .any f).fb 4 (tag [a, b])
      fun l => op (a.lanes.lane l) (b.lanes.lane l)) := by
  have hs := State.issuer_gang h.issues
  unfold issueV2
  rw [issue_of_ready h]
  congr 1
  unfold lane2
  simp only [needTags, List.zip_cons_cons, List.all_cons, ha, hb, List.zip_nil_left, List.all_nil, Bool.and_true, need,
    if_true, bind, Except.bind, lanes_noteFallback hs, pure, Except.pure]
  exact settle_runLanes hs f _ _ _

theorem issueV1_of_ready {fmt : List Nat} {tag : List Val → Byte} {op : W → W × BitVec 14} {a : Val}
    (h : Ready s c x (t3Form .v .any .zero f) [a]) (ha : tagOk fmt a = true) :
    issueV1 s f fmt tag op = .next (laneDone s c x f (t3Form .v .any .zero f).fb 4 (tag [a])
      fun l => op (a.lanes.lane l)) := by
  have hs := State.issuer_gang h.issues
  unfold issueV1
  rw [issue_of_ready h]
  congr 1
  unfold lane1
  simp only [needTags, List.zip_cons_cons, List.all_cons, ha, List.zip_nil_left, List.all_nil, Bool.and_true, need,
    if_true, bind, Except.bind, lanes_noteFallback hs, pure, Except.pure]
  exact settle_runLanes hs f _ _ _

theorem issueV3_of_ready {fmt fmtD : List Nat} {tag : Byte} {op : W → W → W → W × BitVec 14} {a b d : Val}
    (h : Ready s c x (t3Form .v .any .any f true) [a, b, d]) (ha : tagOk fmt a = true) (hb : tagOk fmt b = true)
    (hd : tagOk fmtD d = true) :
    issueV3 s f fmt fmtD tag op = .next (laneDone s c x f (t3Form .v .any .any f true).fb 4 tag
      fun l => op (a.lanes.lane l) (b.lanes.lane l) (d.lanes.lane l)) := by
  have hs := State.issuer_gang h.issues
  unfold issueV3
  rw [issue_of_ready h]
  congr 1
  unfold lane3
  simp only [needTags, List.zip_cons_cons, List.all_cons, ha, hb, hd, List.zip_nil_left, List.all_nil, Bool.and_true,
    need, if_true, bind, Except.bind, lanes_noteFallback hs, pure, Except.pure]
  exact settle_runLanes hs f _ _ _

/-- With W = 1 the accumulator is zero (R125). -/
theorem issueV3_of_ready_two {fmt fmtD : List Nat} {tag : Byte} {op : W → W → W → W × BitVec 14} {a b : Val}
    (h : Ready s c x (t3Form .v .any .any f true) [a, b]) (ha : tagOk fmt a = true) (hb : tagOk fmt b = true) :
    issueV3 s f fmt fmtD tag op = .next (laneDone s c x f (t3Form .v .any .any f true).fb 4 tag
      fun l => op (a.lanes.lane l) (b.lanes.lane l) 0) := by
  have hs := State.issuer_gang h.issues
  unfold issueV3
  rw [issue_of_ready h]
  congr 1
  unfold lane3
  simp only [needTags, List.zip_cons_cons, List.all_cons, ha, hb, List.zip_nil_left, List.all_nil, Bool.and_true,
    need, if_true, bind, Except.bind, lanes_noteFallback hs, pure, Except.pure]
  refine (settle_runLanes hs f _ _ _).trans (laneDone_congr fun l hl _ => ?_)
  simp [srcLanes, hl]

theorem issueCmp_of_ready {fmt : List Nat} {op : W → W → Bool × BitVec 14} {a b : Val}
    (h : Ready s c x (t3Form .k .any .any f) [a, b]) (ha : tagOk fmt a = true) (hb : tagOk fmt b = true) :
    issueCmp s f fmt op = .next (maskDone s c x f.d.toNat (t3Form .k .any .any f).fb
      (laneFlags (s.gang c x).lanes fun l => (op (a.lanes.lane l) (b.lanes.lane l)).2) (s.gang c x).lanes
      (maskOf 32 fun l => (op (a.lanes.lane l) (b.lanes.lane l)).1)) := by
  have hs := State.issuer_gang h.issues
  unfold issueCmp
  rw [issue_of_ready h]
  congr 1
  unfold laneCmp
  simp only [needTags, List.zip_cons_cons, List.all_cons, ha, hb, List.zip_nil_left, List.all_nil, Bool.and_true, need,
    if_true, bind, Except.bind, lanes_noteFallback hs, pure, Except.pure]
  exact settle_doneK hs _ _ _ _ _

/-! ### The 16-bit forms (R25) -/

theorem issueH2_of_ready {g : H} {fmt : List Nat} {tag : List Val → Byte} {op : W → W → W × BitVec 14} {a b : Val}
    (h : Ready s c x (t3Form .v .any .any (narrow g true)) [a, b]) (ha : tagOk fmt a = true) (hb : tagOk fmt b = true) :
    issueH2 s g fmt tag op = .next (laneDone s c x (narrow g true) (t3Form .v .any .any (narrow g true)).fb 2 (tag [a, b])
      fun l => op (a.lanes.lane l) (b.lanes.lane l)) := by
  have hs := State.issuer_gang h.issues
  unfold issueH2
  simp only
  rw [issue_of_ready h]
  congr 1
  unfold lane2
  simp only [needTags, List.zip_cons_cons, List.all_cons, ha, hb, List.zip_nil_left, List.all_nil, Bool.and_true, need,
    if_true, bind, Except.bind, lanes_noteFallback hs, pure, Except.pure]
  exact settle_short_runLanes hs _ _ _ _

theorem issueH1_of_ready {g : H} {fmt : List Nat} {tag : List Val → Byte} {op : W → W × BitVec 14} {ok : Bool} {a : Val}
    (h : Ready s c x (t3Form .v .any .zero (narrow g false)) [a]) (hk : ok = true) (ha : tagOk fmt a = true) :
    issueH1 s g fmt tag op ok = .next (laneDone s c x (narrow g false) (t3Form .v .any .zero (narrow g false)).fb 2 (tag [a])
      fun l => op (a.lanes.lane l)) := by
  have hs := State.issuer_gang h.issues
  subst hk
  have h' : Ready s c x ((t3Form .v .any .zero (narrow g false)).only true) [a] :=
    ⟨h.issues, by simp [Form.only, h.legal], h.names, h.whole, h.reads, h.writes⟩
  unfold issueH1
  simp only
  rw [issue_of_ready h']
  congr 1
  unfold lane1
  simp only [needTags, List.zip_cons_cons, List.all_cons, ha, List.zip_nil_left, List.all_nil, Bool.and_true, need,
    if_true, bind, Except.bind, Form.only, lanes_noteFallback hs, pure, Except.pure]
  exact settle_short_runLanes hs _ _ _ _

/-! ### Uniform and mask instructions (R116, R118) -/

theorem issueSR_of_ready {g : SR} {op : W → W → W} {a b : W} (h : Ready s c x (srForm g) [.s a, .s b]) :
    issueSR s g op = .next (uniDone s c x g.d.toNat (srForm g).fb (op a b)) := by
  have hs := State.issuer_gang h.issues
  unfold issueSR
  rw [issue_of_ready h]
  exact congrArg _ (settle_doneS hs _ _ _)

theorem issueSRI_of_ready {g : SRI} {op : W → W → W} {a : W} (h : Ready s c x (sriForm g) [.s a]) :
    issueSRI s g op = .next (uniDone s c x g.d.toNat false (op a (g.imm.signExtend 32))) := by
  have hs := State.issuer_gang h.issues
  unfold issueSRI
  rw [issue_of_ready h]
  exact congrArg _ (settle_doneS hs _ _ _)

theorem issueK2_of_ready {op : W → W → W} (h : Ready s c x (t3Form .k .kidx .kidx f) []) :
    issueK2 s f op = .next (maskDone s c x f.d.toNat (t3Form .k .kidx .kidx f).fb 0 0xffffffff
      (op ((s.gang c x).kreg f.a.toNat) ((s.gang c x).kreg f.b.toNat))) := by
  have hs := State.issuer_gang h.issues
  unfold issueK2
  rw [issue_of_ready h]
  simp only [kSrc, kreg_noteFallback hs]
  exact congrArg _ (settle_doneK_plain hs _ _ _ _)

end Sys2Proof.Machine
end

