-- ==== Sys2Proof/Laws/Memory.lean ====
section
/-! SUPPORT. Sys2Proof/Laws/Memory.lean: memory keeps its canonical form, a read gives what was written last, a write
leaves every other byte, and equal readings are equal memories. -/

namespace Sys2Proof.Machine

/-! ### The canonical form -/

theorem memWfFrom_mono {lo lo' : Nat} {m : List Host.Cell} (h : lo' ≤ lo) (w : memWfFrom lo m = true) :
    memWfFrom lo' m = true := by
  cases m with
  | nil => rfl
  | cons p r =>
    obtain ⟨a, b⟩ := p
    simp only [memWfFrom, Bool.and_eq_true, decide_eq_true_eq] at w ⊢
    exact ⟨⟨by omega, w.1.2⟩, w.2⟩

theorem memWfFrom_memWrite {lo : Nat} {m : List Host.Cell} (w : memWfFrom lo m = true) (k : Nat) (b : Byte)
    (h : lo ≤ k) : memWfFrom lo (memWrite m k b) = true := by
  induction m generalizing lo with
  | nil => unfold memWrite; split <;> simp_all [memWfFrom]
  | cons p r ih =>
    obtain ⟨a, x⟩ := p
    simp only [memWfFrom, Bool.and_eq_true, decide_eq_true_eq] at w
    unfold memWrite
    split
    · split
      · simp_all [memWfFrom]
      · simp_all [memWfFrom] <;> omega
    · split
      · subst_vars
        split
        · exact memWfFrom_mono (by omega) w.2
        · simp_all [memWfFrom]
      · have := ih w.2 (by omega)
        simp_all [memWfFrom]

/-- Every write of a byte keeps the canonical form. -/
theorem memWrite_wf {m : List Host.Cell} (w : Memory.wf m = true) (k : Nat) (b : Byte) :
    Memory.wf (memWrite m k b) = true := memWfFrom_memWrite w k b (Nat.zero_le k)

/-- Every write of bytes keeps the canonical form. -/
theorem writeBytes_wf {m : List Host.Cell} (w : Memory.wf m = true) (k : Nat) (bs : List Byte) :
    Memory.wf (writeBytes m k bs) = true := by
  induction bs generalizing m k with
  | nil => exact w
  | cons b r ih => exact ih (memWrite_wf w k b) (k + 1)

theorem store_wf {s : State} (w : Memory.wf s.mem = true) (k n x : Nat) : Memory.wf (s.store k n x).mem = true :=
  writeBytes_wf w k _

theorem storeBytes_wf {s : State} (w : Memory.wf s.mem = true) (k : Nat) (bs : List Byte) :
    Memory.wf (s.storeBytes k bs).mem = true := writeBytes_wf w k bs

theorem put_wf {s : State} (w : Memory.wf s.mem = true) (k : Nat) (bs : List Byte) :
    Memory.wf (s.put k bs).mem = true := writeBytes_wf w k bs

theorem putArea_wf {s : State} (w : Memory.wf s.mem = true) (k : Nat) (bs : List Byte) :
    Memory.wf (s.putArea k bs).mem = true := writeBytes_wf w k bs

theorem reset_wf : Memory.wf State.reset.mem = true := rfl

/-! ### Reading after writing -/

theorem memRead_below {lo : Nat} {m : List Host.Cell} (w : memWfFrom lo m = true) {k : Nat} (h : k < lo) :
    memRead m k = emptyByte := by
  cases m with
  | nil => rfl
  | cons p r =>
    obtain ⟨a, b⟩ := p
    simp only [memWfFrom, Bool.and_eq_true, decide_eq_true_eq] at w
    have h1 : ¬ a = k := by omega
    have h2 : k < a := by omega
    simp [memRead, h1, h2]

theorem memRead_memWrite_from {lo : Nat} {m : List Host.Cell} (w : memWfFrom lo m = true) (k k' : Nat) (b : Byte) :
    memRead (memWrite m k b) k' = if k' = k then b else memRead m k' := by
  induction m generalizing lo with
  | nil =>
    unfold memWrite
    split
    · simp_all [memRead]
    · by_cases h : k' = k
      · simp [memRead, h]
      · simp [memRead, h, Ne.symm h]
  | cons p r ih =>
    obtain ⟨a, x⟩ := p
    simp only [memWfFrom, Bool.and_eq_true, decide_eq_true_eq] at w
    have hr := memRead_below w.2 (k := k')
    unfold memWrite
    split
    · split
      · by_cases h : k' = k
        · subst h
          have : ¬ a = k' := by omega
          simp_all [memRead]
        · simp [h]
      · by_cases h : k' = k
        · simp [memRead, h]
        · simp only [memRead, Ne.symm h, if_false, h]
          by_cases h3 : a = k'
          · simp [h3]; omega
          · by_cases h4 : k' < a
            · simp [h3, h4]
            · simp [h3, h4]; omega
    · split
      · rename_i e; subst e
        split
        · by_cases h : k' = a
          · subst h; simp_all
          · by_cases h4 : k' < a
            · simp [h, memRead, h4, Ne.symm h, hr (by omega)]
            · simp [h, memRead, h4, Ne.symm h]
        · by_cases h : k' = a
          · simp [memRead, h]
          · simp [memRead, h, Ne.symm h]
      · have h5 := ih w.2
        simp only [memRead, h5]
        by_cases h : k' = k
        · subst h; simp_all <;> omega
        · simp [h]

/-- A byte reads as what was written last. -/
theorem memRead_memWrite {m : List Host.Cell} (w : Memory.wf m = true) (k k' : Nat) (b : Byte) :
    memRead (memWrite m k b) k' = if k' = k then b else memRead m k' := memRead_memWrite_from w k k' b

/-- Writing bytes leaves every byte outside them. -/
theorem memRead_writeBytes_of_out {m : List Host.Cell} (w : Memory.wf m = true) (k : Nat) (bs : List Byte) (k' : Nat)
    (h : k' < k ∨ k + bs.length ≤ k') : memRead (writeBytes m k bs) k' = memRead m k' := by
  induction bs generalizing m k with
  | nil => rfl
  | cons b r ih =>
    simp only [List.length_cons] at h
    rw [writeBytes, ih (memWrite_wf w k b) (k + 1) (by omega), memRead_memWrite w]
    have : ¬ k' = k := by omega
    simp [this]

/-- The bytes written are the bytes read. -/
theorem memRead_writeBytes_of_in {m : List Host.Cell} (w : Memory.wf m = true) (k : Nat) (bs : List Byte) (i : Nat)
    (h : i < bs.length) : memRead (writeBytes m k bs) (k + i) = bs[i] := by
  induction bs generalizing m k i with
  | nil => simp at h
  | cons b r ih =>
    cases i with
    | zero =>
      rw [writeBytes, memRead_writeBytes_of_out (memWrite_wf w k b) _ _ _ (by omega), memRead_memWrite w]
      simp
    | succ i =>
      simp only [List.length_cons] at h
      rw [writeBytes, show k + (i + 1) = k + 1 + i by omega, ih (memWrite_wf w k b) (k + 1) i (by omega)]
      simp

/-! ### Little-endian values -/

theorem leBytes_length (n x : Nat) : (leBytes n x).length = n := by
  induction n generalizing x with
  | zero => rfl
  | succ n ih => simp [leBytes, ih]

theorem leNat_leBytes (n x : Nat) : leNat (leBytes n x) = x % 256 ^ n := by
  induction n generalizing x with
  | zero => simp [leBytes, leNat, Nat.mod_one]
  | succ n ih =>
    have e : 256 ^ (n + 1) = 256 * 256 ^ n := Nat.pow_succ'
    rw [leBytes, leNat, ih, BitVec.toNat_ofNat, e, Nat.mod_mul (a := 256) (b := 256 ^ n)]

end Sys2Proof.Machine
end

