-- ==== Sys2Proof/Laws/Stops.lean ====
section
/-! SUPPORT. Sys2Proof/Laws/Stops.lean: what taking a fault and parking leave of the issuer and of the halts, and what that
means for matrix instructions, which clear a deferred error once its fault has been taken (R310). -/

namespace Sys2Proof.Machine

open Sys2Proof.Safety

variable {s : State} {c x : Nat}

theorem clearReported_of_none {t : State} (h : ∀ c x, t.cur = some (c, x) → (t.gang c x).halt = none) : clearReported t = t := by
  unfold clearReported
  split
  · rfl
  · rename_i c x hc; rw [h c x hc]

theorem cur_modCore (s : State) (c : Nat) (f : Core → Core) : (s.modCore c f).cur = s.cur := rfl

theorem cur_modGang (s : State) (c x : Nat) (f : Gang → Gang) : (s.modGang c x f).cur = s.cur := by
  unfold State.modGang; split <;> rfl

theorem cur_freeSlot (s : State) (c x : Nat) : (s.freeSlot c x).cur = s.cur := rfl

theorem cur_noteFallback (fb : Bool) : (noteFallback s c x fb).cur = s.cur := by
  unfold noteFallback; split
  · exact cur_modGang ..
  · rfl

theorem cur_setRing (s : State) (i : RingId) (r : Ring) : (s.setRing i r).cur = s.cur := by cases i <;> rfl

theorem cur_sendMsi (s : State) (m : Msi) : (s.sendMsi m).cur = s.cur := by unfold State.sendMsi; dsimp only; split <;> rfl

theorem cur_post (s : State) (i : RingId) (rc : Rec) : (s.post i rc).cur = s.cur := by
  unfold State.post; dsimp only; split
  · exact cur_setRing ..
  · unfold State.postNow; dsimp only; rw [cur_sendMsi, cur_setRing, State.put_cur]

theorem cur_dropAnswers (s : State) (c x : Nat) (pc : PC) : (s.dropAnswers c x pc).cur = s.cur := by
  unfold State.dropAnswers; dsimp only; rw [cur_modCore]

theorem gang?_modCore_of_gangs (s : State) (c c' x : Nat) (f : Core → Core) (h : ∀ k, (f k).gangs = k.gangs) :
    (s.modCore c f).gang? c' x = s.gang? c' x := by
  by_cases e : c = c'
  · subst e; simp [State.gang?, h]
  · simp [State.gang?, State.core_modCore_of_ne _ _ e]

theorem gang?_dropAnswers (s : State) (c x : Nat) (pc : PC) : (s.dropAnswers c x pc).gang? c x = s.gang? c x := by
  unfold State.dropAnswers
  exact gang?_modCore_of_gangs s c c x (fun k => { k with kvQ := k.kvQ.filter fun m => !(m.ctx == x && m.pc == pc && m.ans.isSome) }) fun _ => rfl

theorem gang?_dropWaits (s : State) (c x : Nat) (pc : PC) : (s.modCore c fun k => k.dropWaits x pc).gang? c x = s.gang? c x :=
  gang?_modCore_of_gangs s c c x _ fun _ => rfl

theorem cur_takeFault (s : State) (c x : Nat) (code cause : Byte) (info : W) (aux : PC) (flags : Byte) :
    (s.takeFault c x code cause info aux flags).cur = s.cur := by
  unfold State.takeFault
  dsimp only
  split
  · unfold State.failWave; rw [cur_freeSlot, cur_modGang, cur_dropAnswers, cur_modCore, cur_post, State.takeSeq]; rfl
  · rw [cur_freeSlot, cur_modGang, cur_dropAnswers, cur_modCore, cur_post, State.takeSeq]; rfl

theorem gang_freeSlot (s : State) (c x c' x' : Nat) : (s.freeSlot c x).gang c' x' = s.gang c' x' := by
  unfold State.freeSlot
  by_cases h : c = c'
  · subst h; simp [State.gang]
  · simp [State.gang, State.core_modCore_of_ne _ _ h]

theorem gang?_setRing (s : State) (i : RingId) (r : Ring) (c x : Nat) : (s.setRing i r).gang? c x = s.gang? c x := by
  cases i
  · exact gang?_modCore_of_gangs _ _ _ _ _ fun _ => rfl
  · rfl

theorem gang?_sendMsi (s : State) (m : Msi) (c x : Nat) : (s.sendMsi m).gang? c x = s.gang? c x := by
  unfold State.sendMsi; dsimp only; split <;> rfl

theorem gang?_put (s : State) (k : Nat) (bs : List Byte) (c x : Nat) : (s.put k bs).gang? c x = s.gang? c x := by
  unfold State.gang? State.core; rw [State.put_cores]

theorem gang?_post (s : State) (i : RingId) (rc : Rec) (c x : Nat) : (s.post i rc).gang? c x = s.gang? c x := by
  unfold State.post; dsimp only; split
  · exact gang?_setRing ..
  · unfold State.postNow; dsimp only; rw [gang?_sendMsi, gang?_setRing, gang?_put]

theorem gang?_takeSeq (s : State) (c c' x : Nat)  : (s.takeSeq c).2.gang? c' x = s.gang? c' x :=
  gang?_modCore_of_gangs _ _ _ _ _ fun _ => rfl

theorem halt_takeFault (hs : (s.gang? c x).isSome) (hx : x ≠ 64) (code cause : Byte) (info : W) (aux : PC) (flags : Byte) :
    ∃ rc, ((s.takeFault c x code cause info aux flags).gang c x).halt = some rc ∧ rc.b2 = flags := by
  unfold State.takeFault
  have hp : isPlaza x = false := by simp [isPlaza, hx]
  dsimp only
  rw [hp]
  simp only [Bool.false_eq_true, if_false]
  rw [gang_freeSlot]
  rw [State.gang_modGang_self]
  · refine ⟨_, rfl, ?_⟩
    simp [State.faultRec, hp]
  · rw [gang?_dropAnswers, gang?_dropWaits, gang?_post, gang?_takeSeq]; exact hs

theorem halt_takeFault_plaza (s : State) (code cause : Byte) (info : W) (aux : PC) (flags : Byte) (h : (s.gang c 64).halt = none) :
    ((s.takeFault c 64 code cause info aux flags).gang c 64).halt = none := by
  unfold State.takeFault
  dsimp only
  rw [show isPlaza 64 = true from rfl]
  simp only [if_true]
  unfold State.failWave
  rw [gang_freeSlot]
  rw [State.gang_eq_gang?] at h ⊢
  rw [State.gang?_modGang_self, gang?_dropAnswers, gang?_dropWaits, gang?_post, gang?_takeSeq]
  cases e : s.gang? c 64
  · rfl
  · rw [e] at h; exact h

theorem clearReported_fault (hc : s.cur = some (c, x)) (hs : (s.gang? c x).isSome) (hx : x ≠ 64) (code cause : Byte) (info : W) (aux : PC) :
    clearReported (s.takeFault c x code cause info aux 0) = s.takeFault c x code cause info aux 0 := by
  obtain ⟨rc, h1, h2⟩ := halt_takeFault hs hx code cause info aux 0
  unfold clearReported
  rw [cur_takeFault, hc]
  simp only [h1, h2]
  rfl

theorem clearReported_reported (hc : s.cur = some (c, x)) (hs : (s.gang? c x).isSome) (hx : x ≠ 64) (code cause : Byte) (info : W) (aux : PC) :
    clearReported (s.takeFault c x code cause info aux 2) = (s.takeFault c x code cause info aux 2).modCrew c (x / 16) fun w => { w with mxErr := none } := by
  obtain ⟨rc, h1, h2⟩ := halt_takeFault hs hx code cause info aux 2
  unfold clearReported
  rw [cur_takeFault, hc]
  simp only [h1, h2]
  rfl

theorem clearReported_plaza (hc : s.cur = some (c, 64)) (code cause : Byte) (info : W) (aux : PC) (fl : Byte) (h : (s.gang c 64).halt = none) :
    clearReported (s.takeFault c 64 code cause info aux fl) = s.takeFault c 64 code cause info aux fl := by
  unfold clearReported
  rw [cur_takeFault, hc]
  simp only [halt_takeFault_plaza s code cause info aux fl h]

theorem deferred_noteFallback (hs : (s.gang? c x).isSome) (fb : Bool) : deferred (noteFallback s c x fb) c x = deferred s c x := by
  unfold deferred
  rw [crew_noteFallback]
  have : ((noteFallback s c x fb).gang c x).inMx = (s.gang c x).inMx := by
    rw [gang_noteFallback hs]; split <;> rfl
  rw [this]

theorem issueMx_ready {fm : Form} {vs : List Val} (h : Ready s c x { fm with wide := true } vs) (body : State → Nat → Nat → List Val → Except Stop Done) :
    issueMx s fm body = .next (clearReported (settle (noteFallback s c x fm.fb) c x (do
      notPlaza x
      deferred (noteFallback s c x fm.fb) c x
      need (bit ((noteFallback s c x fm.fb).gang c x).role 0) (.code eRole)
      body (noteFallback s c x fm.fb) c x vs))) := by
  unfold issueMx
  rw [issue_of_ready h]

/-- The issuer, and which gangs are halted, are the same in both states. -/
def Keeps (s t : State) : Prop := t.cur = s.cur ∧ ∀ c x, ((t.gang c x).halt = none ↔ (s.gang c x).halt = none)

theorem Keeps.refl (s : State) : Keeps s s := ⟨rfl, fun _ _ => Iff.rfl⟩

theorem Keeps.trans {s t u : State} (h : Keeps s t) (k : Keeps t u) : Keeps s u := ⟨k.1.trans h.1, fun c x => (k.2 c x).trans (h.2 c x)⟩

theorem Keeps.modCore (s : State) (c : Nat) (f : Core → Core) (h : ∀ k, (f k).gangs = k.gangs) : Keeps s (s.modCore c f) :=
  ⟨rfl, fun c' x => by rw [State.gang_eq_gang?, gang?_modCore_of_gangs s c c' x f h]; rfl⟩

theorem Keeps.modGang (s : State) (c x : Nat) (f : Gang → Gang) (h : ∀ g, (f g).halt = g.halt) : Keeps s (s.modGang c x f) := by
  refine ⟨cur_modGang .., fun c' x' => ?_⟩
  rw [State.gang_eq_gang?, State.gang_eq_gang?]
  by_cases e : c = c' ∧ x = x'
  · obtain ⟨rfl, rfl⟩ := e
    rw [State.gang?_modGang_self]
    cases s.gang? c x
    · rfl
    · simp [h]
  · rw [State.gang?_modGang_of_ne]
    by_cases k : c = c'
    · exact .inr fun l => e ⟨k, l⟩
    · exact .inl k

theorem Keeps.foldl {α : Type} (f : State → α → State) (h : ∀ s a, Keeps s (f s a)) (l : List α) : ∀ s, Keeps s (l.foldl f s) := by
  induction l with
  | nil => exact fun s => .refl s
  | cons a l ih => exact fun s => (h s a).trans (ih _)

theorem Keeps.clear {s t : State} {c x : Nat} (h : Keeps s t) (hc : s.cur = some (c, x)) (hh : (s.gang c x).halt = none) : clearReported t = t := by
  apply clearReported_of_none
  intro c' x' e
  rw [h.1, hc] at e
  cases e
  exact (h.2 c x).2 hh

theorem keeps_noteFallback (fb : Bool) : Keeps s (noteFallback s c x fb) := by
  unfold noteFallback; split
  · exact Keeps.modGang _ _ _ _ fun _ => rfl
  · exact .refl _

theorem Keeps.freeSlot (s : State) (c x : Nat) : Keeps s (s.freeSlot c x) := Keeps.modCore _ _ _ fun _ => rfl

theorem Keeps.park (s : State) (c x : Nat) (k : ParkKind) (a : Byte) : Keeps s (s.park c x k a) := by
  unfold State.park
  exact (Keeps.modGang s c x (fun g => g.modGroup fun q => (q.wait k a s.clock).hold s.ir) fun _ => rfl).trans (Keeps.freeSlot ..)

theorem Keeps.modMx (s : State) (c : Nat) (f : Mx → Mx) : Keeps s (s.modMx c f) := Keeps.modCore _ _ _ fun _ => rfl

theorem Keeps.put (s : State) (k : Nat) (bs : List Byte) : Keeps s (s.put k bs) :=
  ⟨State.put_cur .., fun c x => by unfold State.gang State.core; rw [State.put_cores]⟩

theorem Keeps.putArea (s : State) (k : Nat) (bs : List Byte) : Keeps s (s.putArea k bs) :=
  ⟨State.putArea_cur .., fun c x => by unfold State.gang State.core; rw [State.putArea_cores]⟩

theorem Keeps.countHome (s : State) (c x p home : Nat) (f : Nat → Nat) : Keeps s (s.countHome c x p home f) := by
  unfold State.countHome
  apply Keeps.foldl
  intro s sc; split
  · unfold State.modCount; split
    · exact Keeps.modGang s c x (fun g => { g with counts := vput g.counts (5 * p + sc) (f (vget g.counts (5 * p + sc) 0)) }) fun _ => rfl
    · exact Keeps.putArea ..
  · exact .refl _

theorem Keeps.countMx (s : State) (m : MxCmd) (f : Nat → Nat) : Keeps s (s.countMx m f) := by
  unfold State.countMx
  split
  · exact .refl _
  · exact Keeps.foldl _ (fun s h => Keeps.countHome ..) _ _

theorem Keeps.enterMx (s : State) (m : MxCmd) : Keeps s (s.enterMx m) := by
  unfold State.enterMx
  exact (Keeps.foldl _ (fun s h => Keeps.modMx ..) _ _).trans (Keeps.modMx ..)

theorem Keeps.enqueueMx (s : State) (m : MxCmd) : Keeps s (s.enqueueMx m) := by
  unfold State.enqueueMx
  exact (Keeps.enterMx ..).trans (Keeps.countMx ..)

theorem Keeps.modCrew (s : State) (c q : Nat) (f : Crew → Crew) : Keeps s (s.modCrew c q f) := by
  unfold State.modCrew; split
  · exact Keeps.modCore _ _ _ fun _ => rfl
  · exact .refl _

theorem Keeps.setVreg (s : State) (c x n : Nat) (r : VReg) : Keeps s (s.setVreg c x n r) := by
  unfold State.setVreg; split
  · exact Keeps.modCrew ..
  · exact Keeps.modGang _ _ _ _ fun _ => rfl

end Sys2Proof.Machine
end

