-- ==== Sys2Proof/Tests/Slice0.lean ====
section
/-! SUPPORT. Sys2Proof/Tests/Slice0.lean: small tests, each of one step or one word, and for every statement the witnesses
that its hypotheses can be met. Expected values come from the spec's encodings and rules, worked out by hand. -/

open Sys2Proof Sys2Proof.Machine Sys2Proof.Safety

set_option maxRecDepth 100000
set_option Elab.async false

namespace Sys2Proof.Tests

/-! ### Small states -/

/-- A crew of one gang and 64 registers in the plain address space 3. -/
def crew0 : Crew := { launch := 0x05000001, asid := 3, prio := 1, pin := 0x100000, sram := 0x100000, gangs := 2, vregs := 64 }

/-- A gang whose v`i` holds `i` in every lane with format `i % 16`, and whose s`i` and a`i` hold `i`. -/
def gang0 : Gang :=
  { valloc := 64
    v := Vector.ofFn fun i : Fin 64 => { val := Lanes.splat (BitVec.ofNat 32 i.val), tag := BitVec.ofNat 8 (i.val % 16) }
    s := Vector.ofFn fun i : Fin 32 => { val := BitVec.ofNat 32 i.val }
    a := Vector.ofFn fun i : Fin 16 => { base := BitVec.ofNat 32 i.val, stride := 4 }
    k := Vector.ofFn fun i : Fin 8 => BitVec.ofNat 32 (i.val * 5) }

/-- Context 0 of core 0 issues `g`. -/
def one (g : Gang) : State := { cores := [(0, { gangs := [(0, g)], crews := [(0, crew0)] })], cur := some (0, 0) }

/-- The checks of `Ready`, computed. -/
def readyB (s : State) (c x : Nat) (fm : Form) (vs : List Val) : Bool :=
  s.issuer == some (c, x) && fm.legal && fm.names.all (fun p => decide (p.1 + p.2 ≤ (s.gang c x).valloc)) &&
  (!fm.wide || (s.gang c x).whole) &&
  (match readSrcs s c x fm.srcs with
    | .ok l => l == vs
    | .error _ => false) &&
  fm.dests.all fun d => !mustWait s c x d

theorem ready_of {s : State} {c x : Nat} {fm : Form} {vs : List Val} (h : readyB s c x fm vs = true) :
    Ready s c x fm vs := by
  unfold readyB at h
  simp only [Bool.and_eq_true, List.all_eq_true, decide_eq_true_eq, beq_iff_eq, Bool.or_eq_true, Bool.not_eq_true'] at h
  obtain ⟨⟨⟨⟨⟨h1, h2⟩, h3⟩, h4⟩, h5⟩, h6⟩ := h
  refine ⟨h1, h2, h3, fun hw => h4.resolve_left (by simp [hw]), ?_, h6⟩
  split at h5
  · rename_i h; rw [h]; exact congrArg _ (by simpa using h5)
  · simp at h5

/-- The next state, where there is one. -/
def nextOf (o : Host.Outcome State Fault Refusal) : Option State :=
  match o with
  | .next t => some t
  | _ => none

/-- What a test looks at in the gang of context 0 of core 0 after an instruction. -/
def seen {α : Type} (i : Instr) (g : Gang) (look : Gang → α) : Option α := (nextOf (exec i (one g))).map fun t => look (t.gang 0 0)

/-- The value of v`i` of `gang0`. -/
def vval (i : Nat) : Val := .v (Lanes.splat (BitVec.ofNat 32 i)) (BitVec.ofNat 8 (i % 16))

/-- An EX word of zeros. -/
def ex0 : EX := { d := 0, bd := 0, a := 0, ba := 0, b := 0, bb := 0 }

/-- `gang0` with the value `w` in s1. -/
def gang1 (w : W) : Gang := { gang0 with s := vput gang0.s 1 { val := w } }

/-- A record of 16 elements of 16 bytes at the core's pinned region: kind 2 for `local`, or 1 for a global address. -/
def record (kind : Nat) : BitVec 128 := BitVec.ofNat 128 (kind * 2 ^ 48 + 16 * 2 ^ 64 + 16 * 2 ^ 88 + 16 * 2 ^ 96)

/-! ### Lane arithmetic -/

/-- The registers of two formats as sources A and B. -/
def src2 (fa fb : Nat) : T3 := { d := 40, w := 0, a := BitVec.ofNat 7 fa, ba := 1, b := BitVec.ofNat 7 (16 + fb), bb := 1 }

/-- Every operation of `LaneTwoSources` has operands and a state that meet its hypotheses. -/
theorem wit_LaneTwoSources : ∀ p ∈ intLanes ++ fpLanes, ∃ (f : T3) (s : State) (c x : Nat) (a b : Val),
    Ready s c x (t3Form .v .any .any f) [a, b] ∧ tagOk p.2.1 a = true ∧ tagOk p.2.1 b = true := by
  have h : (intLanes ++ fpLanes).all (fun p => decide (p.2.1.head? ≠ none) && let n := p.2.1.headD 0
      tagOk p.2.1 (vval n) && tagOk p.2.1 (vval (16 + n)) &&
      readyB (one gang0) 0 0 (t3Form .v .any .any (src2 n n)) [vval n, vval (16 + n)]) = true := by decide +kernel
  intro p hp
  have := List.all_eq_true.mp h p hp
  simp only [Bool.and_eq_true] at this
  exact ⟨_, _, _, _, _, _, ready_of this.2.2, this.2.1.1, this.2.1.2⟩

def src1 (fa : Nat) : T3 := { d := 40, w := 0, a := BitVec.ofNat 7 fa, ba := 1, b := 0, bb := 0 }

theorem wit_LaneOneSource : ∀ p ∈ oneLanes, ∃ (f : T3) (s : State) (c x : Nat) (a : Val),
    Ready s c x (t3Form .v .any .zero f) [a] ∧ tagOk p.2.1 a = true := by
  have h : oneLanes.all (fun p => let n := p.2.1.headD 0
      tagOk p.2.1 (vval n) && readyB (one gang0) 0 0 (t3Form .v .any .zero (src1 n)) [vval n]) = true := by decide +kernel
  intro p hp
  have := List.all_eq_true.mp h p hp
  simp only [Bool.and_eq_true] at this
  exact ⟨_, _, _, _, _, ready_of this.2, this.1⟩

/-- `vmov` of an affine register, window-only. -/
theorem wit_LaneOneSource_vmov : ∃ (f : T3) (s : State) (c x : Nat) (a : Val),
    Ready s c x (t3Form .v .any .zero f) [a] ∧ tagOk fmtAny a = true :=
  ⟨{ d := 63, w := 1, a := 111, ba := 0, b := 0, bb := 0 }, one gang0, 0, 0, .a 15 4, ready_of (by decide +kernel), rfl⟩

theorem wit_LaneAccumulate : ∀ p ∈ accLanes, ∃ (f : T3) (s : State) (c x : Nat) (a b d : Val),
    Ready s c x (t3Form .v .any .any f true) [a, b, d] ∧ tagOk p.2.1 a = true ∧ tagOk p.2.1 b = true ∧
      tagOk p.2.2.1 d = true := by
  have h : accLanes.all (fun p => let n := p.2.1.headD 0; let e := p.2.2.1.headD 0
      tagOk p.2.1 (vval n) && tagOk p.2.1 (vval (16 + n)) && tagOk p.2.2.1 (vval (32 + e)) &&
      readyB (one gang0) 0 0 (t3Form .v .any .any { src2 n n with d := BitVec.ofNat 6 (32 + e) } true)
        [vval n, vval (16 + n), vval (32 + e)]) = true := by decide +kernel
  intro p hp
  have := List.all_eq_true.mp h p hp
  simp only [Bool.and_eq_true] at this
  exact ⟨_, _, _, _, _, _, _, ready_of this.2, this.1.1.1, this.1.1.2, this.1.2⟩

/-- The clause for W = 1. -/
theorem wit_LaneAccumulate_window : ∀ p ∈ accLanes, ∃ (f : T3) (s : State) (c x : Nat) (a b : Val),
    f.w = 1 ∧ Ready s c x (t3Form .v .any .any f true) [a, b] ∧ tagOk p.2.1 a = true ∧ tagOk p.2.1 b = true := by
  have h : accLanes.all (fun p => let n := p.2.1.headD 0
      tagOk p.2.1 (vval n) && tagOk p.2.1 (vval (16 + n)) &&
      readyB (one gang0) 0 0 (t3Form .v .any .any { src2 n n with w := 1 } true) [vval n, vval (16 + n)]) = true := by
    decide +kernel
  intro p hp
  have := List.all_eq_true.mp h p hp
  simp only [Bool.and_eq_true] at this
  exact ⟨_, _, _, _, _, _, rfl, ready_of this.2, this.1.1, this.1.2⟩

/-- Every compare, its result in k7 or in k0, which discards it. -/
theorem wit_LaneCompare : ∀ p ∈ cmpLanes, ∀ d ∈ [(0 : BitVec 6), 7], ∃ (f : T3) (s : State) (c x : Nat) (a b : Val),
    f.d = d ∧ Ready s c x (t3Form .k .any .any f) [a, b] ∧ tagOk p.2.1 a = true ∧ tagOk p.2.1 b = true := by
  have h : cmpLanes.all (fun p => [(0 : BitVec 6), 7].all fun d => let n := p.2.1.headD 0
      tagOk p.2.1 (vval n) && tagOk p.2.1 (vval (16 + n)) &&
      readyB (one gang0) 0 0 (t3Form .k .any .any { src2 n n with d := d }) [vval n, vval (16 + n)]) = true := by
    decide +kernel
  intro p hp d hd
  have := List.all_eq_true.mp (List.all_eq_true.mp h p hp) d hd
  simp only [Bool.and_eq_true] at this
  exact ⟨_, _, _, _, _, _, rfl, ready_of this.2, this.1.1, this.1.2⟩

/-- A 16-bit form of VD and VS, the last varying register that VS can name. -/
theorem wit_ShortForms_two : ∃ h ∈ shortTwo, ∃ p ∈ intLanes ++ fpLanes, ∃ (f : H) (s : State) (c x : Nat) (a b : Val),
    (∀ g : T3, p.1 g = h.2 g) ∧ Ready s c x (t3Form .v .any .any (narrow f true)) [a, b] ∧ tagOk p.2.1 a = true ∧
      tagOk p.2.1 b = true :=
  ⟨_, .head _, _, .head _, { vd := 16, vs := 16 }, one gang0, 0, 0, vval 16, vval 16, fun _ => rfl,
    ready_of (by decide +kernel), rfl, rfl⟩

/-- A 16-bit form of one source, which VS = 24 takes from the window. -/
theorem wit_ShortForms_one : ∃ (f : H) (s : State) (c x : Nat) (a : Val),
    Ready s c x (t3Form .v .any .zero (narrow f false)) [a] ∧ (f.vd ≠ 0 ∨ f.vs ≠ 0) ∧ tagOk fmtAny a = true ∧
      tagOk [0] a = true :=
  ⟨{ vd := 0, vs := 24 }, one { gang0 with window := [{ val := some (.s 7), dest := 64, w := false }] }, 0, 0, .s 7,
    ready_of (by decide +kernel), by decide, rfl, rfl⟩

theorem wit_ShortForms_zero : ∃ (f : H) (s : State) (c x : Nat) (a : Val),
    Ready s c x (t3Form .v .any .zero (narrow f false)) [a] ∧ (f.vd = 0 ∧ f.vs = 0) :=
  ⟨{ vd := 0, vs := 0 }, one gang0, 0, 0, vval 0, ready_of (by decide +kernel), rfl, rfl⟩

/-! ### Lanes that see one another, conversions and special functions -/

theorem wit_CrossLane : ∀ p ∈ crossLanes, ∃ (f : T3) (s : State) (c x : Nat) (a b : Val),
    Ready s c x (t3Form .v .any .any f) [a, b] ∧ tagOk p.2.1 a = true ∧ tagOk fmtAny b = true := by
  have h : crossLanes.all (fun p => tagOk p.2.1 (vval 9)) = true := by decide +kernel
  intro p hp
  exact ⟨src2 9 15, one gang0, 0, 0, vval 9, vval 31, ready_of (by decide +kernel), List.all_eq_true.mp h p hp, rfl⟩

/-- A reduction of the signed maximum, code 2. -/
theorem wit_ReduceScan_red : ∃ (f : T3) (s : State) (c x : Nat) (a : Val),
    f.b.toNat % 8 = 2 ∧ tagOk [0] a = true ∧ Ready s c x (t3Form .v .any (.code 8) f) [a] :=
  ⟨{ d := 40, w := 0, a := 16, ba := 1, b := 2, bb := 0 }, one gang0, 0, 0, vval 16, rfl, rfl, ready_of (by decide +kernel)⟩

/-- The exclusive scan of code 15: the last code, of logical or, and any tag but MX. -/
theorem wit_ReduceScan_scan : ∃ (f : T3) (s : State) (c x : Nat) (a : Val),
    f.b.toNat % 8 = 7 ∧ f.b.toNat / 8 % 2 = 1 ∧ tagOk fmtNoMx a = true ∧ Ready s c x (t3Form .v .any (.code 16) f) [a] :=
  ⟨{ d := 40, w := 0, a := 12, ba := 1, b := 15, bb := 0 }, one gang0, 0, 0, vval 12, rfl, rfl, rfl, ready_of (by decide +kernel)⟩

/-- A floating reduction, code 1. -/
theorem wit_ReduceScan_float : ∃ (f : T3) (s : State) (c x : Nat) (a : Val),
    f.b.toNat % 8 = 1 ∧ tagOk [1] a = true ∧ Ready s c x (t3Form .v .any (.code 8) f) [a] :=
  ⟨{ d := 40, w := 0, a := 17, ba := 1, b := 1, bb := 0 }, one gang0, 0, 0, vval 17, rfl, rfl, ready_of (by decide +kernel)⟩

theorem wit_VotesAndTakes_any : ∃ (f : T3) (s : State) (c x : Nat) (a : Val),
    Ready s c x (t3Form .k .any (.code 2) f) [a] ∧ tagOk fmtNoMx a = true ∧ f.b = 0 :=
  ⟨{ d := 1, w := 0, a := 16, ba := 1, b := 0, bb := 0 }, one gang0, 0, 0, vval 16, ready_of (by decide +kernel), rfl, rfl⟩

theorem wit_VotesAndTakes_all : ∃ (f : T3) (s : State) (c x : Nat) (a : Val),
    Ready s c x (t3Form .k .any (.code 2) f) [a] ∧ tagOk fmtNoMx a = true ∧ f.b = 1 :=
  ⟨{ d := 7, w := 0, a := 65, ba := 1, b := 1, bb := 0 }, one gang0, 0, 0, .s 1, ready_of (by decide +kernel), rfl, rfl⟩

theorem wit_VotesAndTakes_laneid : ∃ (f : T3) (s : State) (c x : Nat), Ready s c x (t3Form .v .zero .zero f) [] :=
  ⟨{ d := 63, w := 0, a := 0, ba := 0, b := 0, bb := 0 }, one gang0, 0, 0, ready_of (by decide +kernel)⟩

theorem wit_VotesAndTakes_first : ∃ (f : T3) (s : State) (c x : Nat) (a : Val), Ready s c x (t3Form .s .vt .zero f) [a] :=
  ⟨{ d := 31, w := 0, a := 9, ba := 1, b := 0, bb := 0 }, one gang0, 0, 0, vval 9, ready_of (by decide +kernel)⟩

/-- A take of a t that names a varying result. -/
theorem wit_VotesAndTakes_take_t : ∃ (f : T3) (s : State) (c x : Nat) (a : Val),
    Ready s c x (t3Form .v .vt .zero f) [a] ∧ 64 ≤ f.a.toNat :=
  ⟨{ d := 4, w := 0, a := 112, ba := 0, b := 0, bb := 0 },
    one { gang0 with window := [{ val := some (vval 9), dest := 9, w := true }] }, 0, 0, vval 9, ready_of (by decide +kernel),
    by decide⟩

theorem wit_VotesAndTakes_take : ∃ (f : T3) (s : State) (c x : Nat) (a : Val),
    Ready s c x (t3Form .v .vt .zero f) [a] ∧ f.a.toNat < 64 ∧ (f.w = 1 ∨ f.d.toNat ≠ f.a.toNat) :=
  ⟨{ d := 4, w := 0, a := 63, ba := 1, b := 0, bb := 0 }, one gang0, 0, 0, vval 63, ready_of (by decide +kernel), by decide,
    by decide⟩

theorem wit_VotesAndTakes_take_self : ∃ (f : T3) (s : State) (c x : Nat) (a : Val),
    Ready s c x (t3Form .v .vt .zero f) [a] ∧ f.w = 0 ∧ f.d.toNat = f.a.toNat :=
  ⟨{ d := 4, w := 0, a := 4, ba := 1, b := 0, bb := 0 }, one gang0, 0, 0, vval 4, ready_of (by decide +kernel), by decide,
    by decide⟩

theorem wit_Ranking : ∃ (f : T3) (s : State) (c x : Nat) (a b : Val),
    Ready s c x (t3Form .v .any .any f) [a, b] ∧ tagOk [0, 1] a = true ∧ tagOk fmtAny b = true :=
  ⟨src2 1 15, one gang0, 0, 0, vval 1, vval 31, ready_of (by decide +kernel), rfl, rfl⟩

/-- The conversions that pack; modes 0 of `vcvp2` and `vcvp4` fill the lane, `vcvq` fills a half and reads D. -/
theorem wit_Conversions_pack : ∀ q ∈ ([(.vcvp2, 2, .mode2), (.vcvp4, 4, .mode4), (.vcvq, 4, .modeq)] : List ((T3 → Instr) × Nat × SrcCls)),
    ∃ (f : T3) (s : State) (c x : Nat) (vs : List Val) (old : Val), f.a.toNat < 64 ∧ vs.length = q.2.1 ∧
      Ready s c x (convForm q.2.2 q.2.1 ((if q.2.2 = .modeq then packs 0 f.b (s.codebook c x)
        else packs q.2.1 f.b (s.codebook c x)).2.1.isSome) f)
        (vs ++ (if ((if q.2.2 = .modeq then packs 0 f.b (s.codebook c x) else packs q.2.1 f.b (s.codebook c x)).2.1.isSome)
          ∧ f.w = 0 then [old] else [])) ∧ ∀ v ∈ vs, tagOk [1] v = true := by
  let g := { gang0 with v := Vector.ofFn fun i : Fin 64 => { val := Lanes.splat 0x3f800000, tag := 1 } }
  let f : T3 := { d := 40, w := 0, a := 60, ba := 1, b := 0, bb := 0 }
  let one : Val := .v (Lanes.splat 0x3f800000) 1
  intro q hq
  simp only [List.mem_cons, List.not_mem_nil, or_false] at hq
  rcases hq with rfl | rfl | rfl
  · exact ⟨f, Tests.one g, 0, 0, [one, one], one, by decide, rfl, ready_of (by decide +kernel), by decide +kernel⟩
  · exact ⟨f, Tests.one g, 0, 0, [one, one, one, one], one, by decide, rfl, ready_of (by decide +kernel), by decide +kernel⟩
  · exact ⟨f, Tests.one g, 0, 0, [one, one, one, one], one, by decide, rfl, ready_of (by decide +kernel), by decide +kernel⟩

/-- The last element of an FP8 lane, and of a lane without a tag that F names BF16×2. -/
theorem wit_Conversions_unpack : ∃ (f : T3) (s : State) (c x : Nat) (a : Val) (fm : Nat),
    Ready s c x (t3Form .v .any .unpk f) [a] ∧ f.b.toNat % 8 < elemCount fm ∧
    match a with
      | .v _ t => fm = fmtOf t ∧ 2 ≤ fm ∧ (f.b.toNat / 8 = 0 ∨ f.b.toNat / 8 = fm)
      | _ => fm = if f.b.toNat / 8 = 0 then 2 else f.b.toNat / 8 :=
  ⟨{ d := 40, w := 0, a := 4, ba := 1, b := 35, bb := 0 }, one gang0, 0, 0, vval 4, 4, ready_of (by decide +kernel), by decide,
    by decide, by decide, by decide⟩

theorem wit_Conversions_unpack_plain : ∃ (f : T3) (s : State) (c x : Nat) (w : W),
    Ready s c x (t3Form .v .any .unpk f) [.s w] ∧ f.b.toNat % 8 < elemCount 2 ∧ f.b.toNat / 8 = 0 :=
  ⟨{ d := 40, w := 0, a := 70, ba := 1, b := 1, bb := 0 }, one gang0, 0, 0, 6, ready_of (by decide +kernel), by decide, by decide⟩

theorem wit_SpecialFunctions_issue : ∃ (f : T3) (s : State) (c x : Nat) (a : Val),
    Ready s c x (t3Form .v .any .zero f) [a] ∧ tagOk [1] a = true ∧ s.sfuFree c x = true :=
  ⟨src1 1, one gang0, 0, 0, vval 1, ready_of (by decide +kernel), rfl, by decide +kernel⟩

/-- An operation that the unit accepted in this cycle. -/
def sfu0 : SfuOp := { ctx := 0, dst := some 40, val := Lanes.splat 1, mask := 0xffffffff, flags := 0, issued := 0, due := 10 }

theorem wit_SpecialFunctions_park : ∃ (f : T3) (s : State) (c x : Nat) (a : Val),
    Ready s c x (t3Form .v .any .zero f) [a] ∧ tagOk [1] a = true ∧ s.sfuFree c x = false :=
  ⟨src1 1, (one gang0).modCore 0 fun k => { k with sfu := [(0, sfu0)] }, 0, 0, vval 1, ready_of (by decide +kernel), rfl,
    by decide +kernel⟩

theorem wit_SpecialFunctions_done : ∃ (s : State) (c n : Nat) (o : SfuOp) (d : Nat),
    sget (s.core c).sfu n = some o ∧ o.dst = some d :=
  ⟨(one gang0).modCore 0 fun k => { k with sfu := [(0, sfu0)] }, 0, 0, sfu0, 40, rfl, rfl⟩

theorem wit_SpecialFunctions_window : ∃ (s : State) (c n : Nat) (o : SfuOp), sget (s.core c).sfu n = some o ∧ o.dst = none :=
  ⟨(one gang0).modCore 0 fun k => { k with sfu := [(0, { sfu0 with dst := none })] }, 0, 0, _, rfl, rfl⟩

/-! ### Uniform, affine and mask arithmetic; control -/

theorem wit_UniformArithmetic : ∃ (f : SR) (s : State) (c x : Nat) (a b : W), Ready s c x (srForm f) [.s a, .s b] :=
  ⟨{ d := 31, a := 30, ba := 1, b := 1, bb := 0, hi := 0 }, one gang0, 0, 0, 30, 1, ready_of (by decide +kernel)⟩

/-- A result for s0, from s0, which reads 0. -/
theorem wit_UniformArithmetic_imm : ∃ (f : SRI) (s : State) (c x : Nat) (a : W), Ready s c x (sriForm f) [.s a] :=
  ⟨{ d := 0, a := 0, ba := 1, imm := -1024 }, one gang0, 0, 0, 0, ready_of (by decide +kernel)⟩

theorem wit_UniformArithmetic_upper : ∃ (f : UI) (s : State) (c x : Nat), Ready s c x (uiForm f) [] :=
  ⟨{ d := 31, imm := 0x1fffff }, one gang0, 0, 0, ready_of (by decide +kernel)⟩

/-- Every affine operation, on affine or uniform operands as its classes ask. -/
theorem wit_AffineArithmetic : ∀ p ∈ affOps, ∃ (f : T3) (s : State) (c x : Nat) (a b : Val),
    Ready s c x (t3Form .a p.2.1 p.2.2.1 f) [a, b] := by
  intro p hp
  simp only [affOps, List.mem_cons, List.not_mem_nil, or_false] at hp
  rcases hp with rfl | rfl | rfl | rfl | rfl
  · exact ⟨{ d := 15, w := 0, a := 65, ba := 1, b := 66, bb := 1 }, one gang0, 0, 0, .s 1, .s 2, ready_of (by decide +kernel)⟩
  · exact ⟨{ d := 15, w := 0, a := 111, ba := 1, b := 66, bb := 1 }, one gang0, 0, 0, .a 15 4, .s 2, ready_of (by decide +kernel)⟩
  · exact ⟨{ d := 15, w := 0, a := 111, ba := 1, b := 97, bb := 1 }, one gang0, 0, 0, .a 15 4, .a 1 4, ready_of (by decide +kernel)⟩
  · exact ⟨{ d := 15, w := 0, a := 111, ba := 1, b := 66, bb := 1 }, one gang0, 0, 0, .a 15 4, .s 2, ready_of (by decide +kernel)⟩
  · exact ⟨{ d := 15, w := 0, a := 111, ba := 1, b := 66, bb := 1 }, one gang0, 0, 0, .a 15 4, .s 2, ready_of (by decide +kernel)⟩

theorem wit_AffineArithmetic_ashr : ∃ (f : T3) (s : State) (c x : Nat) (a b : Val), Ready s c x (t3Form .a .at .u f) [a, b] :=
  ⟨{ d := 0, w := 0, a := 96, ba := 1, b := 95, bb := 1 }, one gang0, 0, 0, .a 0 4, .s 31, ready_of (by decide +kernel)⟩

theorem wit_AffineArithmetic_aget : ∃ (f : T3) (s : State) (c x : Nat) (a : Val), Ready s c x (t3Form .s .at (.code 2) f) [a] :=
  ⟨{ d := 1, w := 0, a := 97, ba := 1, b := 1, bb := 0 }, one gang0, 0, 0, .a 1 4, ready_of (by decide +kernel)⟩

theorem wit_AffineArithmetic_a2v : ∃ (f : T3) (s : State) (c x : Nat) (a : Val), Ready s c x (t3Form .v .at .zero f) [a] :=
  ⟨{ d := 63, w := 1, a := 97, ba := 1, b := 0, bb := 0 }, one gang0, 0, 0, .a 1 4, ready_of (by decide +kernel)⟩

/-- Masks k0 and k7 into k0. -/
theorem wit_MaskArithmetic : ∃ (f : T3) (s : State) (c x : Nat), Ready s c x (t3Form .k .kidx .kidx f) [] :=
  ⟨{ d := 0, w := 0, a := 0, ba := 0, b := 7, bb := 0 }, one gang0, 0, 0, ready_of (by decide +kernel)⟩

theorem wit_MaskArithmetic_not : ∃ (f : T3) (s : State) (c x : Nat), Ready s c x (t3Form .k .kidx .zero f) [] :=
  ⟨{ d := 7, w := 0, a := 7, ba := 0, b := 0, bb := 0 }, one gang0, 0, 0, ready_of (by decide +kernel)⟩

theorem wit_MaskArithmetic_mov : ∃ (f : T3) (s : State) (c x : Nat) (a : W), Ready s c x (t3Form .k .u .zero f) [.s a] :=
  ⟨{ d := 7, w := 0, a := 95, ba := 1, b := 0, bb := 0 }, one gang0, 0, 0, 31, ready_of (by decide +kernel)⟩

theorem wit_MaskArithmetic_pop : ∃ (f : T3) (s : State) (c x : Nat), Ready s c x (t3Form .s .kidx .zero f) [] :=
  ⟨{ d := 1, w := 0, a := 7, ba := 0, b := 0, bb := 0 }, one gang0, 0, 0, ready_of (by decide +kernel)⟩

theorem wit_ControlFlow_branch : ∃ (f : BR) (s : State) (c x : Nat) (a b : W),
    Ready s c x { legal := true, fb := false, srcs := [uSrc f.a true, uSrc f.b true] } [.s a, .s b] :=
  ⟨{ a := 1, b := 31, disp := -4096 }, one gang0, 0, 0, 1, 31, ready_of (by decide +kernel)⟩

/-- `bkany` and `bkall` of k7. -/
theorem wit_ControlFlow_mask : ∃ (f : BR) (s : State) (c x : Nat), Ready s c x { legal := true, fb := brFallback f } [] :=
  ⟨{ a := 0, b := 7, disp := 4095 }, one gang0, 0, 0, ready_of (by decide +kernel)⟩

/-- `jmp` and `call`, with room on the stacks. -/
theorem wit_ControlFlow_jump : ∃ (s : State) (c x : Nat), Ready s c x { legal := true, fb := false } [] ∧
    everySlice (s.gang c x) (fun i => decide ((vget (s.gang c x).retStacks i []).length < 8)) = true :=
  ⟨one gang0, 0, 0, ready_of (by decide +kernel), by decide +kernel⟩

/-- A `call` whose slice 7 holds 8 entries. -/
theorem wit_ControlFlow_call_full : ∃ (s : State) (c x : Nat), Ready s c x { legal := true, fb := false } [] ∧
    everySlice (s.gang c x) (fun i => decide ((vget (s.gang c x).retStacks i []).length < 8)) = false :=
  ⟨one { gang0 with retStacks := vput gang0.retStacks 7 (List.replicate 8 4) }, 0, 0, ready_of (by decide +kernel),
    by decide +kernel⟩

theorem wit_ControlFlow_ret : ∃ (f : EX) (s : State) (c x : Nat), Ready s c x (exForm .zero .zero .zero f) [] ∧
    everySlice (s.gang c x) (fun i => !(vget (s.gang c x).retStacks i []).isEmpty) = true :=
  ⟨ex0, one { gang0 with retStacks := Vector.replicate 8 [5] }, 0, 0, ready_of (by decide +kernel), by decide +kernel⟩

/-- A `ret` with empty stacks, which also serves `nop`, `isync`, `yield`, `regang`, `exit` and `brk`. -/
theorem wit_ControlFlow_ret_empty : ∃ (f : EX) (s : State) (c x : Nat), Ready s c x (exForm .zero .zero .zero f) [] ∧ x ≠ 64 ∧
    everySlice (s.gang c x) (fun i => !(vget (s.gang c x).retStacks i []).isEmpty) = false :=
  ⟨ex0, one gang0, 0, 0, ready_of (by decide +kernel), by decide, by decide +kernel⟩

theorem wit_ControlFlow_jr : ∃ (f : EX) (s : State) (c x : Nat) (a : W), Ready s c x (exForm .zero .read .zero f) [.s a] ∧
    bit a 0 = false :=
  ⟨{ ex0 with a := 30, ba := 1 }, one gang0, 0, 0, 30, ready_of (by decide +kernel), rfl⟩

theorem wit_ControlFlow_jr_odd : ∃ (f : EX) (s : State) (c x : Nat) (a : W), Ready s c x (exForm .zero .read .zero f) [.s a] ∧
    bit a 0 = true :=
  ⟨{ ex0 with a := 31, ba := 1 }, one gang0, 0, 0, 31, ready_of (by decide +kernel), rfl⟩

/-- The plaza context of core 0 issues `g`. -/
def plaza (g : Gang) : State :=
  { cores := [(0, { gangs := [(64, { g with wave := some { obj := 0, reqs := [] } })] })], cur := some (0, 64) }

/-- `yield` and `exit` in the plaza. -/
theorem wit_RunsAndGroups_plaza : ∃ (f : EX) (s : State) (c x : Nat), Ready s c x (exForm .zero .zero .zero f) [] ∧ x = 64 :=
  ⟨ex0, plaza gang0, 0, 64, ready_of (by decide +kernel), rfl⟩

/-- `endrun` that names v63 and 15 more: N ends at v63. -/
theorem wit_RunsAndGroups_endrun : ∃ (f : EndrunF) (s : State) (c x : Nat),
    let nm : BitVec 7 → List (Nat × Nat) := fun k => if k.toNat < 64 then [(k.toNat, 1)] else []
    Ready s c x { legal := endrunLegal f, fb := endrunFallback f, names := nm f.x ++ nm f.y } [] :=
  ⟨{ x := 127, y := 63, n := 15 }, one gang0, 0, 0, ready_of (by decide +kernel)⟩

theorem wit_GangControl_setpt : ∃ (f : SetptF) (s : State) (c x : Nat),
    Ready s c x { legal := true, fb := setptFallback f, wide := true } [] :=
  ⟨{ c := 7, rest := 0 }, one gang0, 0, 0, ready_of (by decide +kernel)⟩

/-- The last role; the plaza may not elect. -/
theorem wit_GangControl_elect : ∃ (f : ElectF) (s t : State), f.role = 31 ∧
    Ready s 0 0 { legal := f.role.toNat < 32, fb := false, wide := true } [] ∧
    Ready t 0 64 { legal := f.role.toNat < 32, fb := false, wide := true } [] :=
  ⟨{ role := 31 }, one gang0, plaza gang0, rfl, ready_of (by decide +kernel), ready_of (by decide +kernel)⟩

/-- `rdctl` of the last control register and of TIMEL. -/
theorem wit_GangControl_read : ∀ n ∈ [(14 : BitVec 5), 31], ∃ (f : EX) (s : State) (c x : Nat), f.b = n ∧
    Ready s c x { exForm .dest .zero (.idx 32) f with fb := exFallback .dest .zero (.idx 32) f || ctlReserved f.b.toNat } [] := by
  intro n hn
  simp only [List.mem_cons, List.not_mem_nil, or_false] at hn
  rcases hn with rfl | rfl
  · exact ⟨{ ex0 with d := 31, b := 14 }, one gang0, 0, 0, rfl, ready_of (by decide +kernel)⟩
  · exact ⟨{ ex0 with d := 31, b := 31 }, one gang0, 0, 0, rfl, ready_of (by decide +kernel)⟩

/-- `wrctl` of KUSE, which a part of a gang may write, by the slices 0 to 3 alone. -/
theorem wit_GangControl_write : ∃ (f : EX) (s : State) (c x : Nat) (a : W), f.b = 6 ∧ (s.gang c x).whole = false ∧
    Ready s c x { exForm .zero .read (.idx 32) f false with fb := exFallback .zero .read (.idx 32) f || false } [.s a] :=
  ⟨{ ex0 with a := 1, ba := 1, b := 6 },
    one { gang0 with groups := [{ slices := 0x0f }, { slices := 0xf0 }], active := 0x0f }, 0, 0, 1, rfl, by decide +kernel,
    ready_of (by decide +kernel)⟩

/-- `wrctl` of GSTAT, PTILE, RMODE and MXC, and of a register that ignores the write. -/
theorem wit_GangControl_write_whole : ∀ n ∈ [(0 : BitVec 5), 4, 5, 11, 31], ∃ (f : EX) (s : State) (c x : Nat) (a : W), f.b = n ∧
    (let m := f.b.toNat
     let ok := m = 0 ∨ m = 4 ∨ m = 5 ∨ m = 6 ∨ m = 11
     Ready s c x { exForm .zero .read (.idx 32) f (decide ok && m != 6) with
       fb := exFallback .zero .read (.idx 32) f || !decide ok } [.s a]) := by
  intro n hn
  refine ⟨{ ex0 with a := 1, ba := 1, b := n }, one gang0, 0, 0, 1, rfl, ready_of ?_⟩
  simp only [List.mem_cons, List.not_mem_nil, or_false] at hn
  rcases hn with rfl | rfl | rfl | rfl | rfl <;> decide +kernel

theorem wit_TrapAndBreak_trap : ∃ (s : State) (c x : Nat) (f : TrapF), x < 64 ∧ f.code = 0x3ffff ∧
    Ready s c x { legal := true, fb := false } [] :=
  ⟨one gang0, 0, 0, { code := 0x3ffff }, by decide, rfl, ready_of (by decide +kernel)⟩

theorem wit_TrapAndBreak_brk : ∃ (s : State) (c x : Nat) (f : EX), x < 64 ∧ Ready s c x (exForm .zero .zero .zero f) [] :=
  ⟨one gang0, 0, 0, ex0, by decide, ready_of (by decide +kernel)⟩

/-- `kuse k0` by the slices 0 to 3: lane 15 is of the issuing slices, lane 16 of the others. -/
theorem wit_LaneMasks : ∃ (f : EX) (s : State) (c x : Nat), f.a = 0 ∧ Ready s c x (exForm .zero (.idx 8) .zero f) [] ∧
    bit (s.gang c x).active (15 / 4) = true ∧ bit (s.gang c x).active (16 / 4) = false :=
  ⟨ex0, one { gang0 with groups := [{ slices := 0x0f }, { slices := 0xf0 }], active := 0x0f }, 0, 0, rfl,
    ready_of (by decide +kernel), by decide +kernel, by decide +kernel⟩

/-! ### Memory -/

/-- `gang0` with this record in b0. -/
def withRec (r : BitVec 128) : State := one { gang0 with recs := vput gang0.recs 0 r }

/-- The operands of a memory instruction: index s1, and data from v16 (RAW) or v17 (F32), or from s8. -/
def mr (m : MemIns) : MR :=
  { d := if m.uni then 8 else if m.data.head? = some [1] then 17 else 16, bd := if m.op = .load then 0 else 1
    x := 65, bx := 1, rc := 0, ord := 0, scope := 0 }
def mrVals (m : MemIns) : List Val :=
  .s 1 :: if m.op = .load then [] else
    (List.range m.n).map fun j => if m.uni then .s (BitVec.ofNat 32 (8 + j)) else vval ((mr m).d.toNat + j)

/-- Every memory instruction has operands that pass all checks, on `local` and on a global address. -/
theorem wit_MemoryAccesses : ∀ p ∈ memOps, ∀ kind ∈ [1, 2], ∃ (f : MR) (s : State) (c x : Nat) (vs : List Val),
    s.inSecondFence = false ∧ s.behindAcquire = false ∧ Ready s c x (p.2.form f) vs ∧
    (accessFails s c x p.2 (vget (s.gang c x).recs f.rc.toNat 0) vs).find? (fun q => q.1) = none ∧
    (noteFallback s c x (p.2.form f).fb).mayIssueMem c x (accessOf s c x p.2 f (vget (s.gang c x).recs f.rc.toNat 0) vs) = true ∧
    (accessOf s c x p.2 f (vget (s.gang c x).recs f.rc.toNat 0) vs).strong = false := by
  have h : ((memOps.map (·.2)).all fun m => [1, 2].all fun kind =>
      let s := withRec (record kind); let f := mr m; let vs := mrVals m
      !s.inSecondFence && !s.behindAcquire && readyB s 0 0 (m.form f) vs &&
      ((accessFails s 0 0 m (vget (s.gang 0 0).recs f.rc.toNat 0) vs).find? (fun q => q.1)).isNone &&
      (noteFallback s 0 0 (m.form f).fb).mayIssueMem 0 0 (accessOf s 0 0 m f (vget (s.gang 0 0).recs f.rc.toNat 0) vs) &&
      !(accessOf s 0 0 m f (vget (s.gang 0 0).recs f.rc.toNat 0) vs).strong) = true := by decide +kernel
  intro p hp kind hk
  have h := List.all_eq_true.mp (List.all_eq_true.mp h p.2 (List.mem_map_of_mem hp)) kind hk
  simp only [Bool.and_eq_true, Bool.not_eq_true', Option.isNone_iff_eq_none] at h
  exact ⟨_, _, _, _, _, h.1.1.1.1.1, h.1.1.1.1.2, ready_of h.1.1.1.2, h.1.1.2, h.1.2, h.2⟩

/-- A load whose pages have been looked up has waited behind an acquire, which has returned its value. -/
theorem wit_MemoryAccesses_behind : ∃ s : State, s.issuer = some (0, 0) ∧ s.behindAcquire = true ∧ s.acqAhead 0 0 = false :=
  ⟨one { gang0 with groups := [{ slices := 0xff, park := some (.engine, 9) }] }, by decide +kernel, by decide +kernel, by decide +kernel⟩

/-- A record of zeros is malformed: its ESIZE is 0. -/
theorem wit_MemoryAccesses_fault : ∃ (f : MR) (s : State) (c x : Nat) (vs : List Val) (p : (MR → Instr) × MemIns), p ∈ memOps ∧
    s.inSecondFence = false ∧ s.behindAcquire = false ∧ Ready s c x (p.2.form f) vs ∧
    (accessFails s c x p.2 (vget (s.gang c x).recs f.rc.toNat 0) vs).find? (fun q => q.1) = some (true, eRec) := by
  refine ⟨mr { op := .load, width := 1, mxOk := false }, withRec 0, 0, 0, [.s 1], (.vldB8, { op := .load, width := 1, mxOk := false }),
    by simp [memOps], by decide +kernel, by decide +kernel, ready_of (by decide +kernel), by decide +kernel⟩

/-- A strong load whose path is empty goes, and once it waits in the fence behind it, it retires. -/
theorem wit_MemoryAccesses_strong : ∃ (f : MR) (s t : State) (vs : List Val) (m : MemIns), f.ord = 2 ∧
    s.inSecondFence = false ∧ Ready s 0 0 (m.form f) vs ∧
    (accessFails s 0 0 m (vget (s.gang 0 0).recs f.rc.toNat 0) vs).find? (fun q => q.1) = none ∧
    (noteFallback s 0 0 (m.form f).fb).mayIssueMem 0 0 (accessOf s 0 0 m f (vget (s.gang 0 0).recs f.rc.toNat 0) vs) = true ∧
    (noteFallback s 0 0 (m.form f).fb).fenceDone 0 0 1 (accessOf s 0 0 m f (vget (s.gang 0 0).recs f.rc.toNat 0) vs).scope = true ∧
    t.issuer = some (0, 0) ∧ t.inSecondFence = true ∧ t.fenceDone 0 0 1 f.scope.toNat = true :=
  ⟨{ mr { op := .load, width := 4, recTag := true } with ord := 2, scope := 3 }, withRec (record 1),
    one { gang0 with groups := [{ slices := 0xff, park := some (.fence, 1) }] }, [.s 1], { op := .load, width := 4, recTag := true },
    rfl, by decide +kernel, ready_of (by decide +kernel), by decide +kernel, by decide +kernel, by decide +kernel, by decide +kernel,
    by decide +kernel, by decide +kernel⟩

/-- A four-byte store of one lane at the start of the pinned region, into one line, and its line. -/
def acc0 (op : AccOp) : Access :=
  { ctx := 0, pc := 0, op := op, dev := false, width := 4, lanes := [{ lane := 0, addr := 0x100000, data := 7 }]
    lines := [{ base := 0x100000, key := 0x100000, home := 0, st := .sent }], place := some 0 }

/-- A state with this access, number 0. -/
def flying (a : Access) : State := (one gang0).modCore 0 fun k => { k with accs := [(0, a)], nextAcc := 1 }

/-- `isync` behind an acquire. -/
theorem wit_RunsAndGroups_isync : ∃ s : State, Ready s 0 0 (exForm .zero .zero .zero ex0) [] ∧ s.acqPending 0 0 = true :=
  ⟨flying { acc0 .load with acq := true }, ready_of (by decide +kernel), by decide +kernel⟩

theorem wit_MemoryAccesses_sent : ∃ (s : State) (c x : Nat) (a : Access), (s.gang? c x).isSome = true ∧ a.dev = false ∧
    a.strong = false ∧ ((a.mkLines s).isEmpty = false ∨ a.dst ≠ .none) ∧
    ∀ first k, a.dst = .v first k → first + k ≤ 64 ∧ ∀ j < k, (s.gang c x).bind? (first + j) = none := by
  refine ⟨one gang0, 0, 0, { acc0 .load with dst := .v 60 4 }, by decide +kernel, rfl, rfl, .inl (by decide +kernel), ?_⟩
  intro first k h
  obtain ⟨rfl, rfl⟩ : 60 = first ∧ 4 = k := by simpa using h
  exact ⟨by decide, fun j hj => by rcases j with _ | _ | _ | _ | j <;> first | rfl | omega⟩

theorem wit_AccessesPerformed_store : ∃ (s : State) (c n i : Nat) (a : Access) (ln : LineAcc), s.acc c n = some a ∧
    a.lines[i]? = some ln ∧ s.mayLeave c n a ln = true ∧ s.lineUnit c a ln = none ∧ a.op = .store ∧ a.dst = .none ∧ (a.lanes.head?.map fun l => a.laneWidth l.lane ≤ 16) = some True ∧
    (a.lanes.head?.map fun l => a.bytesIn ln l) = some [(0, 0x100000), (1, 0x100001), (2, 0x100002), (3, 0x100003)] :=
  ⟨flying (acc0 .store), 0, 0, 0, acc0 .store, _, rfl, rfl, by decide +kernel, by decide +kernel, rfl, rfl,
    by simp [acc0, Access.laneWidth], by decide +kernel⟩

/-- Of a line that was split a higher lane has stored already: the value of lane 1 remains over that of lane 0. -/
theorem wit_AccessesPerformed_stored : ∃ (s : State) (a : Access) (ln : LineAcc) (l : LaneAcc), s.acc 0 0 = some a ∧ a.lines[0]? = some ln ∧
    s.mayLeave 0 0 a ln = true ∧ s.lineUnit 0 a ln = none ∧ a.op = .store ∧ l ∈ a.lanes ∧ bit ln.lanes l.lane = true ∧
    a.stored ln.base l (a.byteAddr l 0) = true :=
  ⟨flying { acc0 .store with
      lanes := [{ lane := 0, addr := 0x100000, data := 7 }, { lane := 1, addr := 0x100000, data := 8 }]
      lines := [{ base := 0x100000, key := 0x100000, home := 0, lanes := 1, st := .sent },
                { base := 0x100000, key := 0x100000, home := 0, lanes := 2, st := .done }] }, _, _,
    { lane := 0, addr := 0x100000, data := 7 }, rfl, rfl, by decide +kernel, by decide +kernel, rfl, by simp, by decide, by decide +kernel⟩

/-- A line on its way to die 1, before and after the bridge accepts it. -/
theorem wit_AccessesPerformed_bridge : ∀ b ∈ [none, some (8192 : Nat)], ∃ (s : State) (a : Access) (ln : LineAcc), s.acc 0 0 = some a ∧
    a.lines[0]? = some ln ∧ s.mayLeave 0 0 a ln = true ∧ (s.lineUnit 0 a ln).isSome = true ∧ ln.bridge = b := by
  intro b h
  refine ⟨flying { acc0 .store with lines := [{ base := 0x100000, key := 0x100000, home := 64, st := .sent, bridge := b }] }, _, _, rfl, rfl, ?_⟩
  simp only [List.mem_cons, List.not_mem_nil, or_false] at h
  rcases h with rfl | rfl <;> decide +kernel

/-- A line that is performed already is left as it is. -/
theorem wit_AccessesPerformed_held : ∃ (s : State) (c n i : Nat) (a : Access) (ln : LineAcc), s.acc c n = some a ∧
    a.lines[i]? = some ln ∧ ln.st ≠ .sent :=
  ⟨flying { acc0 .store with lines := [{ base := 0x100000, st := .done }] }, 0, 0, 0, _, _, rfl, rfl, by decide⟩

theorem wit_AccessesPerformed_load : ∃ (s : State) (c n i : Nat) (a : Access) (ln : LineAcc), s.acc c n = some a ∧
    a.lines[i]? = some ln ∧ s.mayLeave c n a ln = true ∧ s.lineUnit c a ln = none ∧ a.op = .load ∧ s.savedAt c a.ctx = none :=
  ⟨flying (acc0 .load), 0, 0, 0, acc0 .load, _, rfl, rfl, by decide +kernel, rfl, rfl, by decide +kernel⟩

theorem wit_AccessesPerformed_atomic : ∃ (s : State) (c n i : Nat) (a : Access) (ln : LineAcc) (op : AtomOp) (l : LaneAcc) (k : Nat)
    (r : List (Nat × Nat)), s.acc c n = some a ∧ a.lines[i]? = some ln ∧ s.mayLeave c n a ln = true ∧
    s.lineUnit c a ln = none ∧ a.op = .atomic op ∧ a.lanes = [l] ∧ bit ln.lanes l.lane = true ∧ a.bytesIn ln l = (0, k) :: r ∧
    s.savedAt c a.ctx = none :=
  ⟨flying (acc0 (.atomic .cas)), 0, 0, 0, acc0 (.atomic .cas), _, .cas, _, 0x100000, [(1, 0x100001), (2, 0x100002), (3, 0x100003)],
    rfl, rfl, by decide +kernel, by decide +kernel, rfl, rfl, by decide, by decide +kernel, by decide +kernel⟩

/-- The last line of a store to be acknowledged. -/
theorem wit_AccessesEnd_ack : ∃ (s : State) (c n i : Nat) (a : Access) (ln : LineAcc), s.acc c n = some a ∧ a.lines[i]? = some ln ∧
    ln.st = .performed ∧ a.dst = .none ∧ ({ a with lines := a.lines.set i { ln with st := .done } } : Access).allDone = true :=
  ⟨flying { acc0 .store with lines := [{ base := 0x100000, home := 0, st := .performed }] }, 0, 0, 0, _, _, rfl, rfl, rfl, rfl, rfl⟩

/-- The same line of a load. -/
theorem wit_AccessesEnd_ack_load : ∃ (s : State) (c n i : Nat) (a : Access) (ln : LineAcc), s.acc c n = some a ∧ a.lines[i]? = some ln ∧
    ln.st = .performed ∧ a.dst ≠ .none :=
  ⟨flying { acc0 .load with dst := .s 5, lines := [{ base := 0x100000, home := 0, st := .performed }] }, 0, 0, 0, _, _, rfl, rfl,
    rfl, by decide⟩

/-- A release at pod scope that has marked the exit bridge of die 0, which holds no count. -/
theorem wit_AccessesEnd_report : ∃ (s : State) (c n unit : Nat) (a : Access), s.acc c n = some a ∧ unit ∈ a.marked ∧
    unit ∉ a.reported ∧ ((s.core c).accs.any fun p => p.1 < n && p.2.ctx == a.ctx && p.2.op != .load &&
        p.2.lines.any fun l => l.bridge.or (s.exitUnit c l.home) == some unit && (l.st == .sent || l.st == .performed)) = false ∧
    ∀ sc < 5, sgetD s.bridges (bridgeKey unit c a.ctx 0 sc) 0 = 0 :=
  ⟨flying { acc0 .store with rel := true, scope := 3, marked := [7] }, 0, 0, 7, _, rfl, by decide, by decide, by decide +kernel,
    fun _ _ => rfl⟩

theorem wit_AccessesEnd_load : ∃ (s : State) (c n : Nat) (a : Access) (i : Nat), s.acc c n = some a ∧ a.allDone = true ∧
    a.cancelled = false ∧ a.dst = .s i :=
  ⟨flying { acc0 .load with dst := .s 31, lines := [{ base := 0x100000, st := .done }] }, 0, 0, _, 31, rfl, rfl, rfl, rfl⟩

theorem wit_AccessesEnd_load_lanes : ∃ (s : State) (c n : Nat) (a : Access) (v : Nat), s.acc c n = some a ∧ a.allDone = true ∧
    a.cancelled = false ∧ a.dst = .v v 1 :=
  ⟨flying { acc0 .load with dst := .v 63 1, lines := [{ base := 0x100000, st := .done }] }, 0, 0, _, 63, rfl, rfl, rfl, rfl⟩

theorem wit_AccessesEnd_load_early : ∃ (s : State) (c n : Nat) (a : Access), s.acc c n = some a ∧ a.allDone = false :=
  ⟨flying (acc0 .load), 0, 0, _, rfl, rfl⟩

/-- The page of address 0 in space 3 at HBM address 0, readable, writable and executable, and a state whose core 0 holds it. -/
def tlb0 : TlbEntry := { asid := 3, vpage := 0, size := 65536, leaf := 0x1f }
def mapped (g : Gang) : State := (one g).modCore 0 fun k => { k with tlb := [tlb0] }

theorem wit_AccessesEnd_fetch : ∃ (s t : State) (c x : Nat), (s.gang c x).look = some .fetch ∧ s.tryFetch c x = (t, none) := by
  refine ⟨mapped { gang0 with look := some .fetch }, _, 0, 0, rfl, Prod.ext rfl ?_⟩
  decide +kernel

/-- A fetch from a space with no root. -/
theorem wit_AccessesEnd_fetch_fault : ∃ (s t : State) (c x : Nat) (va : Nat) (f : LookFail), (s.gang c x).look = some .fetch ∧
    s.tryFetch c x = (t, some (va, f)) := by
  refine ⟨one { gang0 with look := some .fetch }, _, 0, 0, 0, { cause := 1, level := 1 }, rfl, Prod.ext rfl ?_⟩
  decide +kernel

theorem wit_AccessesEnd_access : ∃ (s t : State) (c x n : Nat) (a : Access) (unf : W) (fs : List (Nat × LookFail)),
    (s.gang c x).look = some (.access n) ∧ s.acc c n = some a ∧ s.translate c n a = (t, unf, fs) :=
  ⟨(mapped { gang0 with look := some (.access 0) }).setAcc 0 0 { acc0 .store with dev := true, lines := [{ base := 0 }] }, _, 0, 0, 0, _,
    _, _, rfl, rfl, rfl⟩

/-- A gang that looks nothing up; and the read of the last line of window 3, whose lookup passes. -/
theorem wit_AccessesEnd_parameter : ∃ (s t : State) (a : Access) (unf : W) (fs : List (Nat × LookFail)),
    (s.gang 0 0).look = some (.access 0) ∧ s.acc 0 0 = some a ∧ a.dst = .prm 3073 ∧ s.translate 0 0 a = (t, unf, fs) ∧ fs = [] :=
  ⟨(mapped { gang0 with look := some (.access 0) }).setAcc 0 0
      { acc0 .load with dev := true, width := 64, dst := .prm 3073, lines := [{ base := 0 }] }, _, _, _, _, rfl, rfl, rfl, rfl, by decide +kernel⟩

theorem wit_AccessesEnd_no_lookup : ∃ (s : State) (c x : Nat), (s.gang c x).look = none := ⟨one gang0, 0, 0, rfl⟩

theorem wit_FencesAndRecords_fence : ∃ (f : FenceF) (s : State) (c x : Nat),
    Ready s c x { legal := true, fb := f.rest != 0 || 4 < f.scope.toNat } [] :=
  ⟨{ scope := 7, rest := 0 }, one gang0, 0, 0, ready_of (by decide +kernel)⟩

theorem wit_FencesAndRecords_fence_sets : ∃ (f : FenceXF) (s : State) (c x : Nat),
    Ready s c x { legal := true, fb := f.rest != 0 || 4 < f.scope.toNat } [] :=
  ⟨{ setA := 0x3f, setB := 0, scope := 4, rest := 0 }, one gang0, 0, 0, ready_of (by decide +kernel)⟩

/-- `brset` of b15, selector 7. -/
theorem wit_FencesAndRecords_set : ∃ (f : EX) (s : State) (c x : Nat) (a : W), f.b = 7 ∧
    Ready s c x (exForm (.low 4) .read (.idx 8) f) [.s a] :=
  ⟨{ ex0 with d := 15, a := 31, ba := 1, b := 7 }, one gang0, 0, 0, 31, rfl, ready_of (by decide +kernel)⟩

theorem wit_FencesAndRecords_read : ∃ (f : EX) (s : State) (c x : Nat) (a : W), Ready s c x (exForm (.low 4) .read .zero f) [.s a] ∧
    Ready s c x (exForm (.low 3) .read .zero f) [.s a] ∧ s.awaited c x = none ∧ a.toNat % 32 = 0 ∧
    (sramExists a.toNat && s.regionFor c x a.toNat) = true ∧ s.mayIssueMem c x (acc0 .load) = true :=
  ⟨{ ex0 with d := 7, a := 1, ba := 1 }, one (gang1 0x100000), 0, 0, 0x100000, ready_of (by decide +kernel),
    ready_of (by decide +kernel), by decide +kernel, rfl, by decide +kernel, by decide +kernel⟩

theorem wit_FencesAndRecords_read_align : ∃ (f : EX) (s : State) (c x : Nat) (a : W), Ready s c x (exForm (.low 4) .read .zero f) [.s a] ∧
    s.awaited c x = none ∧ a.toNat % 16 ≠ 0 :=
  ⟨{ ex0 with d := 7, a := 1, ba := 1 }, one (gang1 8), 0, 0, 8, ready_of (by decide +kernel), by decide +kernel, by decide⟩

/-- The first address of the SRAM space that names no die. -/
theorem wit_FencesAndRecords_read_absent : ∃ (f : EX) (s : State) (c x : Nat) (a : W), Ready s c x (exForm (.low 4) .read .zero f) [.s a] ∧
    s.awaited c x = none ∧ a.toNat % 16 = 0 ∧ (sramExists a.toNat && s.regionFor c x a.toNat) = false :=
  ⟨{ ex0 with d := 7, a := 1, ba := 1 }, one (gang1 0xc0000000), 0, 0, 0xc0000000, ready_of (by decide +kernel), by decide +kernel,
    rfl, by decide +kernel⟩

/-- The read is complete: 16 bytes for b7. -/
def readDone : Access :=
  { ctx := 0, pc := 0, op := .load, dev := false, width := 16, dst := .buf 7, lanes := [{ lane := 0, addr := 0x100000, data := 5 }]
    lines := [{ base := 0x100000, st := .done }] }

theorem wit_FencesAndRecords_read_done : ∃ (f : EX) (s : State) (c x : Nat) (a : W) (k : Nat) (acc : Access) (l : LaneAcc),
    Ready s c x (exForm (.low 4) .read .zero f) [.s a] ∧ s.awaited c x = some (k, acc) ∧ acc.allDone = true ∧ acc.poison = false ∧
    acc.lanes = [l] :=
  ⟨{ ex0 with d := 7, a := 1, ba := 1 }, (one (gang1 0x100000)).setAcc 0 0 readDone, 0, 0, 0x100000, 0, readDone, _,
    ready_of (by decide +kernel), by decide +kernel, rfl, rfl, rfl⟩

/-- A `cbld` whose data have arrived: before the codebook has them, and after. -/
theorem wit_AccessesEnd_codebook : ∀ given ∈ [false, true], ∃ (s : State) (f : EX) (a : Access) (l : LaneAcc), s.acc 0 0 = some a ∧
    a.dst = .cb 7 ∧ a.allDone = true ∧ a.given = given ∧ a.poison = false ∧ s.cbFirst 0 a.ctx 0 7 = true ∧ a.lanes = [l] ∧
    Ready s 0 0 (exForm (.low 3) .read .zero f) [.s 0x100000] ∧ s.awaited 0 0 = some (0, a) := by
  intro given _
  refine ⟨(one (gang1 0x100000)).setAcc 0 0 { readDone with width := 32, dst := .cb 7, given := given }, { ex0 with d := 7, a := 1, ba := 1 },
    _, _, rfl, rfl, rfl, rfl, rfl, by cases given <;> decide +kernel, rfl, ready_of ?_, ?_⟩ <;> cases given <;> decide +kernel

/-- The bound size of window 3 of `crew0` is 128 bytes here. -/
def bound (g : Gang) : State := (one g).modCrew 0 0 fun w => { w with wins := vput w.wins 3 (0, 128) }

theorem wit_FencesAndRecords_prm_unbound : ∃ (f : EX) (s : State) (c x : Nat) (a : W), Ready s c x (exForm .dest (.idx 4) .read f) [.s a] ∧
    (noteFallback s c x (exForm .dest (.idx 4) .read f).fb).winSize c x f.a.toNat = 0 :=
  ⟨{ ex0 with d := 31, a := 3, b := 1, bb := 1 }, one gang0, 0, 0, 1, ready_of (by decide +kernel), by decide +kernel⟩

/-- Word 31 is the last of the window, word 32 beyond it. -/
theorem wit_FencesAndRecords_prm : ∃ (f g : EX) (s : State) (c x : Nat) (a b : W),
    Ready s c x (exForm .dest (.idx 4) .read f) [.s a] ∧ Ready s c x (exForm .dest (.idx 4) .read g) [.s b] ∧
    4 * a.toNat + 4 ≤ s.winSize c x 3 ∧ s.winSize c x 3 < 4 * b.toNat + 4 ∧ f.a = 3 ∧ g.a = 3 ∧
    (s.core c).pline ((s.crew c (x / 16)).launch.setWidth 8) 3 (a.toNat / 16) = none :=
  ⟨{ ex0 with d := 31, a := 3, b := 31, bb := 1 }, { ex0 with d := 31, a := 3, b := 1, bb := 1 }, bound (gang1 32), 0, 0, 31, 32,
    ready_of (by decide +kernel), ready_of (by decide +kernel), by decide +kernel, by decide +kernel, rfl, rfl, by decide +kernel⟩

/-- Word 0 of window 0 of a stream launch. -/
theorem wit_FencesAndRecords_prm_stream : ∃ (f : EX) (s : State) (c x : Nat) (a id : W),
    Ready s c x (exForm .dest (.idx 4) .read f) [.s a] ∧ f.a = 0 ∧ a = 0 ∧ 4 * a.toNat + 4 ≤ s.winSize c x 0 ∧
    (s.crew c (x / 16)).stream = some id :=
  ⟨{ ex0 with d := 31, bb := 1 }, (one gang0).modCrew 0 0 fun w => { w with wins := vput w.wins 0 (0, 64), stream := some 9 }, 0, 0, 0,
    9, ready_of (by decide +kernel), rfl, rfl, by decide +kernel, by decide +kernel⟩

/-- A word whose line is in the cache. -/
theorem wit_FencesAndRecords_prm_cached : ∃ (f : EX) (s : State) (c x : Nat) (a : W) (l : PLine),
    Ready s c x (exForm .dest (.idx 4) .read f) [.s a] ∧ 4 * a.toNat + 4 ≤ s.winSize c x f.a.toNat ∧ f.a ≠ 0 ∧
    (s.core c).pline ((s.crew c (x / 16)).launch.setWidth 8) f.a.toNat (a.toNat / 16) = some l :=
  ⟨{ ex0 with d := 31, a := 3, b := 31, bb := 1 }, (bound gang0).modCore 0 fun k =>
      { k with pcache := [{ launch := 1, win := 3, off := 1, bytes := List.replicate 64 0 }] }, 0, 0, 31,
    { launch := 1, win := 3, off := 1, bytes := List.replicate 64 0 }, ready_of (by decide +kernel), by decide +kernel, by decide,
    by decide +kernel⟩

/-- The line of word 31 has not been asked for, has been, and has come. -/
theorem wit_FencesAndRecords_prm_fill : (bound gang0).fillOf 0 0 3073 = false ∧
    (bound gang0).mayIssueMem 0 0 { acc0 .load with dev := true, width := 64, dst := .prm 3073 } = true ∧
    (flying { acc0 .load with dst := .prm 3073 }).fillOf 0 0 3073 = true ∧ (one gang0).fillArrived 0 0 = none ∧
    ∃ n line a l, (flying { acc0 .load with dst := .prm 3073, lines := [] }).fillArrived 0 0 = some (n, line, a) ∧ a.poison = false ∧
      a.lanes = [l] := by
  refine ⟨?_, ?_, ?_, ?_, _, _, _, _, rfl, rfl, rfl⟩ <;> decide +kernel

/-- A translation command. -/
def tcmd0 : TCmd := { asid := 3, core := 0, seq := 0, count := 1, tag := 9, va := 0, done := 64, resv := false }

/-- The queue of die 23 is full with 32 commands. -/
theorem wit_TranslationCommands_full : ∃ (d : Nat) (s : State), 32 ≤ (s.die d).tsyncs.length + (s.die d).tqWaits.length :=
  ⟨23, State.reset.modDie 23 fun q => { q with tsyncs := (List.range 32).map fun n => (n, { done := 0, tag := 0, cmd := tcmd0, waits := [] }) },
    by decide +kernel⟩

/-- A command that is sound, of the last core; and one whose VA is not aligned. -/
theorem wit_TranslationCommands : ∃ (t u : TCmd) (s : State) (d : Nat), (s.die d).tsyncs.length + (s.die d).tqWaits.length < 32 ∧
    (t.resv || t.va.toNat % 65536 != 0 || (t.done != 0 && !hbmUsable t.done.toNat)) = false ∧ gidOk t.core = true ∧
    (u.resv || u.va.toNat % 65536 != 0 || (u.done != 0 && !hbmUsable u.done.toNat)) = true :=
  ⟨{ tcmd0 with core := 24560 }, { tcmd0 with va := 4096 }, State.reset, 0, by decide, by decide +kernel, by decide +kernel, by decide +kernel⟩

theorem wit_TranslationCommands_sync : ∃ (d n : Nat) (s : State) (o : TsyncOp), sget (s.die d).tsyncs n = some o ∧
    o.begun = true ∧ o.waits.all s.performed = true :=
  ⟨0, 5, State.reset.modDie 0 fun q => { q with tsyncs := [(5, { done := 64, tag := 1, cmd := tcmd0, waits := [] })] }, _, rfl, rfl, rfl⟩

/-- A TSYNC that waits for a line on its way. -/
theorem wit_TranslationCommands_sync_waits : ∃ (d n : Nat) (s : State) (o : TsyncOp), sget (s.die d).tsyncs n = some o ∧
    o.begun = true ∧ o.waits.all s.performed = false :=
  ⟨0, 5, (flying (acc0 .store)).modDie 0 fun q => { q with tsyncs := [(5, { done := 64, tag := 1, cmd := tcmd0, waits := [(0, 0, 0)] })] },
    _, rfl, rfl, by decide +kernel⟩

/-- A TSYNC of a whole space, all of whose lines are performed, while one that was translated meanwhile is on its way; and with none. -/
theorem wit_TranslationCommands_sync_late : ∀ b ∈ [true, false], ∃ (s : State) (o : TsyncOp), sget (s.die 0).tsyncs 5 = Option.some o ∧
    o.begun = true ∧ o.waits.all s.performed = true ∧ o.cmd.count = 0 ∧ (s.inFlight o.cmd != []) = b := by
  intro b _
  let t : TsyncOp := { done := 64, tag := 1, cmd := { tcmd0 with count := 0 }, waits := [] }
  refine ⟨(flying { acc0 .store with dev := b, lines := [{ base := 0, psize := 65536, st := .sent }] }).modDie 0 fun q =>
    { q with tsyncs := [(5, t)] }, t, rfl, rfl, rfl, rfl, ?_⟩
  cases b <;> decide +kernel

/-- A TSYNC that waits for a store of its hart. -/
theorem wit_TranslationCommands_sync_early : ∃ (s : State) (o : TsyncOp), sget (s.die 0).tsyncs 5 = some o ∧ o.begun = false ∧
    o.stores.any s.storing = true :=
  ⟨{ State.reset with dies := [(0, { tsyncs := [(5, { done := 64, tag := 1, cmd := tcmd0, waits := [], begun := false, stores := [3] })] })]
                      flight := [.storeDone 3 2 0 []] }, _, rfl, rfl, by decide +kernel⟩

/-! ### The register pool, shares and barriers -/

/-- A gang of 8 registers, and one that has asked the arbiter, with its answer. -/
def small : Gang := { gang0 with valloc := 8 }
def asked (share : Bool) (ans : Option Bool) (g : Gang) : State :=
  (one g).modCore 0 fun k => { k with poolQ := [{ ctx := 0, blocks := 7, share := share, ans := ans }] }

/-- `grow` by 7 blocks, to 64 registers, not yet asked. -/
theorem wit_RegistersAllotted_grow : ∃ (f : EX) (s : State) (c x : Nat), x ≠ 64 ∧ Ready s c x (exForm .dest .zero .count f) [] ∧
    (s.gang c x).valloc + 8 * f.b.toNat ≤ 64 ∧ ∀ r ∈ (s.core c).poolQ, r.ctx ≠ x := by
  refine ⟨{ ex0 with d := 31, b := 7 }, one small, 0, 0, by decide, ready_of (by decide +kernel), by decide +kernel, ?_⟩
  intro r hr
  simp [State.core, one, sgetD, sget] at hr

theorem wit_RegistersAllotted_grow_high : ∃ (f : EX) (s : State) (c x : Nat), x ≠ 64 ∧ Ready s c x (exForm .dest .zero .count f) [] ∧
    64 < (s.gang c x).valloc + 8 * f.b.toNat :=
  ⟨{ ex0 with d := 31, b := 1 }, one gang0, 0, 0, by decide, ready_of (by decide +kernel), by decide +kernel⟩

/-- Both answers. -/
theorem wit_RegistersAllotted_grown : ∀ b : Bool, ∃ (f : EX) (s : State) (c x : Nat) (r : PoolReq), x ≠ 64 ∧
    Ready s c x (exForm .dest .zero .count f) [] ∧ (s.gang c x).valloc + 8 * f.b.toNat ≤ 64 ∧
    (s.core c).poolQ.find? (fun r => r.ctx == x) = some r ∧ r.ans = some b := by
  intro b
  cases b
  · exact ⟨{ ex0 with d := 31, b := 7 }, asked false (some false) small, 0, 0, _, by decide, ready_of (by decide +kernel),
      by decide +kernel, rfl, rfl⟩
  · exact ⟨{ ex0 with d := 31, b := 7 }, asked false (some true) small, 0, 0, _, by decide, ready_of (by decide +kernel),
      by decide +kernel, rfl, rfl⟩

/-- `shrink` by 7 blocks, to 8 registers. -/
theorem wit_RegistersAllotted_shrink : ∃ (f : EX) (s : State) (c x : Nat), x ≠ 64 ∧ Ready s c x (exForm .zero .zero .count f true) [] ∧
    8 + 8 * f.b.toNat ≤ (s.gang c x).valloc ∧ (s.gang c x).valloc ≤ 64 ∧
    (∀ i, (s.gang c x).valloc - 8 * f.b.toNat ≤ i → i < (s.gang c x).valloc →
      (vget (s.gang c x).v i {}).busy = false ∧ (s.gang c x).bind? i = none) ∧
    ∀ q ∈ (s.gang c x).groups, ∀ i ∈ q.trailer.codes, i < (s.gang c x).valloc - 8 * f.b.toNat ∨ (s.gang c x).valloc ≤ i := by
  refine ⟨{ ex0 with b := 7 }, one gang0, 0, 0, by decide, ready_of (by decide +kernel), by decide +kernel, by decide +kernel, ?_, ?_⟩
  · have h : ((List.range 64).all fun i => !(vget gang0.v i {}).busy) = true := by decide +kernel
    intro i _ hi
    have := List.all_eq_true.mp h i (List.mem_range.mpr hi)
    exact ⟨show (vget gang0.v i {}).busy = false by simpa using this, rfl⟩
  · decide +kernel

theorem wit_RegistersAllotted_arbiter : ∃ (s t : State) (c : Nat) (r : PoolReq), s.poolHead c = some r ∧ t.poolHead c = none :=
  ⟨asked false none small, one small, 0, { ctx := 0, blocks := 7, share := false }, by decide +kernel, by decide +kernel⟩

/-- `rshare` of v56 to v63 as id 31 by a gang of 64 registers. -/
def rshare0 : RshareF := { first := 56, count := 7, id := 31 }
def shareForm : Form := { legal := true, fb := false, names := [(56, 8)], wide := true }

theorem wit_RegistersAllotted_share : ∃ (s : State) (c x : Nat), x ≠ 64 ∧ Ready s c x shareForm [] ∧
    ((s.gang c x).binds.any fun b => decide (b.first < 56 + 8) && decide (56 < b.first + b.count)) = false ∧
    sget (s.crew c (x / 16)).shares 31 = none ∧ ∀ r ∈ (s.core c).poolQ, r.ctx ≠ x := by
  refine ⟨one gang0, 0, 0, by decide, ready_of (by decide +kernel), rfl, rfl, ?_⟩
  intro r hr
  simp [State.core, one, sgetD, sget] at hr

/-- The range meets a bound register at its last place. -/
theorem wit_RegistersAllotted_share_meets : ∃ (s : State) (c x : Nat), x ≠ 64 ∧ Ready s c x shareForm [] ∧
    ((s.gang c x).binds.any fun b => decide (b.first < 56 + 8) && decide (56 < b.first + b.count)) = true :=
  ⟨one { gang0 with binds := [{ id := 1, first := 63, count := 1 }] }, 0, 0, by decide, ready_of (by decide +kernel), by decide +kernel⟩

/-- Storage that exists, and requests that the arbiter has granted and refused. -/
theorem wit_RegistersAllotted_shared : ∃ (s : State) (c x : Nat) (h : Share), x ≠ 64 ∧ Ready s c x shareForm [] ∧
    (s.gang c x).binds = [] ∧ sget (s.crew c (x / 16)).shares 31 = some h ∧ h.regs.length = 8 :=
  ⟨(one gang0).modCrew 0 0 fun w => { w with shares := [(31, { regs := List.replicate 8 {}, bound := 1 })] }, 0, 0,
    { regs := List.replicate 8 {}, bound := 1 }, by decide, ready_of (by decide +kernel), rfl, rfl, rfl⟩

theorem wit_RegistersAllotted_share_answer : ∀ b : Bool, ∃ (s : State) (c x : Nat) (r : PoolReq), x ≠ 64 ∧ Ready s c x shareForm [] ∧
    (s.gang c x).binds = [] ∧ sget (s.crew c (x / 16)).shares 31 = none ∧
    (s.core c).poolQ.find? (fun r => r.ctx == x) = some r ∧ r.ans = some b := by
  intro b
  cases b
  · exact ⟨asked true (some false) gang0, 0, 0, _, by decide, ready_of (by decide +kernel), rfl, rfl, rfl, rfl⟩
  · exact ⟨asked true (some true) gang0, 0, 0, _, by decide, ready_of (by decide +kernel), rfl, rfl, rfl, rfl⟩

theorem wit_RegistersAllotted_unshare : ∃ (f : EX) (s : State) (c x : Nat) (a : W), x ≠ 64 ∧
    Ready s c x (exForm .zero .read .zero f true) [.s a] :=
  ⟨{ ex0 with a := 31, ba := 1 }, one gang0, 0, 0, 31, by decide, ready_of (by decide +kernel)⟩

/-- `fe.clr` of v48 to v63, and of a0 to a15, in operand codes. -/
theorem wit_RegistersAllotted_bits : ∀ p ∈ [((48 : BitVec 7), (15 : BitVec 4)), (96, 15)], ∃ (f : FeF) (s : State) (c x : Nat),
    f.x = p.1 ∧ f.n = p.2 ∧ Ready s c x
      { legal := feLegal f, fb := f.rest != 0, names := if f.x.toNat < 64 then [(f.x.toNat, f.n.toNat + 1)] else []
        wide := 64 ≤ f.x.toNat } [] := by
  intro p hp
  refine ⟨{ x := p.1, n := p.2, rest := 0 }, one gang0, 0, 0, rfl, rfl, ready_of ?_⟩
  simp only [List.mem_cons, List.not_mem_nil, or_false] at hp
  rcases hp with rfl | rfl <;> decide +kernel

/-- The barrier instructions, with an id of scope pod and the last index, s1, and s2. -/
theorem wit_BarrierInstructions : ∀ p ∈ barOps, ∃ (f : EX) (s : State) (c x : Nat) (vs : List Val), x ≠ 64 ∧ Ready s c x (p.2.1 f) vs ∧
    (noteFallback s c x (p.2.1 f).fb).barCmd c x = none ∧ barIdOk (uVal vs 0) = true := by
  have w : readyB (one (gang1 0)) 0 0 (exForm .dest .read .read { ex0 with d := 3, a := 1, ba := 1, b := 2, bb := 1 } true) [.s 0, .s 2] = true :=
    by decide +kernel
  have w1 : readyB (one (gang1 0)) 0 0 (exForm .zero .read .zero { ex0 with a := 1, ba := 1 } true) [.s 0] = true := by decide +kernel
  have w2 : readyB (one (gang1 0)) 0 0 (exForm .dest .read .zero { ex0 with d := 3, a := 1, ba := 1 } true) [.s 0] = true := by decide +kernel
  have w3 : readyB (one (gang1 0)) 0 0 (exForm .zero .read .read { ex0 with a := 1, ba := 1, b := 2, bb := 1 } true) [.s 0, .s 2] = true := by
    decide +kernel
  have e : ∀ fb, (noteFallback (one (gang1 0)) 0 0 fb).barCmd 0 0 = none := by decide +kernel
  have i : barIdOk 0 = true := by decide +kernel
  intro p hp
  simp only [barOps, List.mem_cons, List.not_mem_nil, or_false] at hp
  rcases hp with rfl | rfl | rfl | rfl | rfl | rfl | rfl
  · exact ⟨_, _, 0, 0, _, by decide, ready_of w, e _, i⟩
  · exact ⟨_, _, 0, 0, _, by decide, ready_of w1, e _, i⟩
  · exact ⟨_, _, 0, 0, _, by decide, ready_of w2, e _, i⟩
  · exact ⟨_, _, 0, 0, _, by decide, ready_of w3, e _, i⟩
  · exact ⟨_, _, 0, 0, _, by decide, ready_of w1, e _, i⟩
  · exact ⟨_, _, 0, 0, _, by decide, ready_of w1, e _, i⟩
  · exact ⟨_, _, 0, 0, _, by decide, ready_of w1, e _, i⟩

/-- An id whose scope is none. -/
theorem wit_BarrierInstructions_none : ∃ (f : EX) (s : State) (c x : Nat) (vs : List Val), x ≠ 64 ∧
    Ready s c x (exForm .zero .read .zero f true) vs ∧ (noteFallback s c x (exForm .zero .read .zero f true).fb).barCmd c x = none ∧
    barIdOk (uVal vs 0) = false :=
  ⟨{ ex0 with a := 1, ba := 1 }, one (gang1 7), 0, 0, [.s 7], by decide, ready_of (by decide +kernel), by decide +kernel, by decide +kernel⟩

/-- A command of core 0, context 0 for barrier 0 of core scope. -/
def barCmd0 (op : Nat) (arg : W) : BarCmd := { core := 0, ctx := 0, op := op, key := barKey 0 0, id := 0, arg := arg }
def withBar (m : BarCmd) (b : Option Barrier) : State :=
  { one (gang1 0) with barCmds := [(4, m)], nextId := 5, barriers := (b.map fun b => (m.key, b)).toList }

/-- The table has answered E_BSTR; and has not answered yet. -/
theorem wit_BarrierInstructions_answer : ∀ ans ∈ [none, some (4, (0 : BitVec 16))], ∃ (f : EX) (s : State) (c x k : Nat) (vs : List Val)
    (m : BarCmd), x ≠ 64 ∧ Ready s c x (exForm .zero .read .zero f true) vs ∧
    (noteFallback s c x (exForm .zero .read .zero f true).fb).barCmd c x = some (k, m) ∧ m.ans = ans := by
  intro ans h
  simp only [List.mem_cons, List.not_mem_nil, or_false] at h
  rcases h with rfl | rfl
  · exact ⟨{ ex0 with a := 1, ba := 1 }, withBar (barCmd0 1 0) none, 0, 0, 4, [.s 0], barCmd0 1 0, by decide,
      ready_of (by decide +kernel), by decide +kernel, rfl⟩
  · exact ⟨{ ex0 with a := 1, ba := 1 }, withBar { barCmd0 1 0 with ans := some (4, 0) } none, 0, 0, 4, [.s 0],
      { barCmd0 1 0 with ans := some (4, 0) }, by decide, ready_of (by decide +kernel), by decide +kernel, rfl⟩

/-- An arrival at an entry of the crew, of which the gang is a member. -/
def barrier0 (member arrived : Bool) : Barrier :=
  { owner := 0x05000001, expected := 1, members := if member then [{ core := 0, ctx := 0, arrived := arrived }] else [] }

theorem wit_BarrierInstructions_arrive : ∃ (s : State) (b : Barrier), sget s.barriers (barKey 0 0) = some b ∧
    b.owner = s.launchOf 0 0 ∧ b.stranded = false ∧ b.isMember 0 0 = true ∧ s.fenceDone 0 0 0x3f 0 = true :=
  ⟨{ one gang0 with barriers := [(barKey 0 0, barrier0 true false)] }, barrier0 true false, rfl, by decide +kernel, rfl,
    by decide +kernel, by decide +kernel⟩

/-- An init of a free entry, with the greatest count; one with a count too great; and one of an entry in use. -/
theorem wit_BarrierTable_init : ∃ (s : State) (n : Nat) (m : BarCmd), sget s.barCmds n = some m ∧ m.ans = none ∧
    sget s.barriers m.key = none ∧ m.op = 0 ∧ m.arg ≠ 0 ∧ m.arg.toNat < 2 ^ 24 :=
  ⟨withBar (barCmd0 0 0xffffff) none, 4, _, rfl, rfl, rfl, rfl, by decide, by decide⟩
theorem wit_BarrierTable_init_count : ∃ (s : State) (n : Nat) (m : BarCmd), sget s.barCmds n = some m ∧ m.ans = none ∧
    sget s.barriers m.key = none ∧ 2 ^ 24 ≤ m.arg.toNat :=
  ⟨withBar (barCmd0 0 0x1000000) none, 4, _, rfl, rfl, rfl, by decide⟩
theorem wit_BarrierTable_init_used : ∃ (s : State) (n : Nat) (m : BarCmd) (b : Barrier), sget s.barCmds n = some m ∧ m.ans = none ∧
    sget s.barriers m.key = some b ∧ m.op = 0 :=
  ⟨withBar (barCmd0 0 1) (barrier0 true false), 4, _, _, rfl, rfl, rfl, rfl⟩

/-- Each operation from 1 to 6 at an entry of its launch, by a member that has or has not arrived in the phase, and by a gang that is
no member. -/
theorem wit_BarrierTable_ops : ∀ op ∈ [1, 2, 3, 4, 5, 6], ∀ member arrived : Bool, ∃ (s : State) (n : Nat) (m : BarCmd) (b : Barrier),
    sget s.barCmds n = some m ∧ m.ans = none ∧ sget s.barriers m.key = some b ∧ b.owner = s.launchOf m.core m.ctx ∧
    b.stranded = false ∧ m.op = op ∧ (b.members.any fun q => q.core == m.core && q.ctx == m.ctx) = member ∧
    (b.members.any fun q => q.core == m.core && q.ctx == m.ctx && q.arrived) = (member && arrived) := by
  intro op _ member arrived
  have l : ∀ b, (withBar (barCmd0 op 0) b).launchOf 0 0 = 0x05000001 := fun _ => rfl
  refine ⟨withBar (barCmd0 op 0) (barrier0 member arrived), 4, barCmd0 op 0, barrier0 member arrived, rfl, rfl, rfl, (l _).symm, rfl, rfl,
    ?_, ?_⟩
  · cases member <;> rfl
  · cases member <;> cases arrived <;> rfl

/-- A stranded entry, and an entry of another launch. -/
theorem wit_BarrierTable_stranded : ∀ op ∈ [1, 4, 6], ∃ (s : State) (n : Nat) (m : BarCmd) (b : Barrier), sget s.barCmds n = some m ∧
    m.ans = none ∧ sget s.barriers m.key = some b ∧ b.owner = s.launchOf m.core m.ctx ∧ b.stranded = true ∧ m.op = op :=
  fun op _ =>
    have l : ∀ b, (withBar (barCmd0 op 0) b).launchOf 0 0 = 0x05000001 := fun _ => rfl
    ⟨withBar (barCmd0 op 0) (some { barrier0 true false with stranded := true }), 4, barCmd0 op 0,
      { barrier0 true false with stranded := true }, rfl, rfl, rfl, (l _).symm, rfl, rfl⟩
theorem wit_BarrierTable_other : ∃ (s : State) (n : Nat) (m : BarCmd) (b : Barrier), sget s.barCmds n = some m ∧ m.ans = none ∧
    sget s.barriers m.key = some b ∧ m.op ≠ 0 ∧ b.owner ≠ s.launchOf m.core m.ctx :=
  ⟨withBar (barCmd0 1 0) (some { barrier0 true false with owner := 7 }), 4, barCmd0 1 0, _, rfl, rfl, rfl, by decide, by decide +kernel⟩

/-- A wait that has been at the table is acted on again; no gang waits for the entry of a `bar.free` here, but one does there. -/
theorem wit_BarrierTable_again : ∃ (s : State) (m : BarCmd), s.barCmd 0 0 = some (4, m) ∧ m.there = true ∧ m.ans = none :=
  ⟨withBar { barCmd0 3 0 with there := true } (barrier0 true false), { barCmd0 3 0 with there := true }, by decide +kernel, rfl, rfl⟩
theorem wit_BarrierTable_waiter : ∃ (s t : State) (m : BarCmd), m.op = 6 ∧ s.barWaiter m.key = false ∧ t.barWaiter m.key = true :=
  ⟨withBar (barCmd0 6 0) (barrier0 true false),
    { withBar (barCmd0 6 0) (barrier0 true false) with barCmds := [(3, { barCmd0 3 0 with there := true }), (4, barCmd0 6 0)] },
    barCmd0 6 0, rfl, by decide +kernel, by decide +kernel⟩

/-! ### Matrix -/

/-- A crew with a licence for slots 0 to 63 and all tiles, and a gang that has TENSOR, its b0 the given record. -/
def mxGang (r : BitVec 128) : Gang := { gang1 1 with role := 1, recs := vput gang0.recs 0 r }
def mxState (pair : Bool) (g : Gang) : State := (one g).modCrew 0 0 fun w =>
  { w with lic := some (pair, 0, 64), solo := if pair then 0 else 0xff, pair := if pair then 0xff else 0 }

/-- BF16 rows of 256 bytes in the pinned region, 128 of them, and one. -/
def rowsRec (n : Nat) : BitVec 128 := BitVec.ofNat 128 (2 * 2 ^ 48 + 2 * 2 ^ 56 + 256 * 2 ^ 64 + 2 * 2 ^ 88 + n * 2 ^ 96)

theorem tensor_mx (pair : Bool) (r : BitVec 128) : Tensor (mxState pair (mxGang r)) 0 0 :=
  ⟨by decide, show bit (1 : W) 0 = true by decide, rfl, .inr rfl⟩

/-- Every instruction of MAJ 1A in the plaza, in a crew with a deferred error, and without TENSOR. -/
theorem wit_MatrixIssue_refused : ∀ p ∈ matrixForms, ∃ (f : EX) (s t u : State) (vs : List Val),
    Ready s 0 64 { p.2 f with wide := true } vs ∧ Ready t 0 0 { p.2 f with wide := true } vs ∧
    Ready u 0 0 { p.2 f with wide := true } vs ∧ (s.gang 0 64).halt = none ∧ (t.gang 0 0).halt = none ∧
    (t.gang 0 0).park = none ∧ (t.crew 0 0).mxErr = some (ePerm, 0, 8) ∧ (u.crew 0 0).mxErr = none ∧ bit (u.gang 0 0).role 0 = false := by
  let f : EX := { ex0 with d := 4, a := 2, ba := 1 }
  let f0 : EX := { ex0 with a := 2, ba := 1 }
  let s := plaza gang0
  let u := one gang0
  let t := u.modCrew 0 0 fun w => { w with mxErr := some (ePerm, 0, 8) }
  have ok : [(exForm .zero .read .zero f0, [Val.s 2]), (exForm (.idx 16) (.idx 8) .zero { ex0 with d := 15, a := 7 }, []),
      (exForm .vread .read .zero f, [.s 2, vval 4]), (exForm .zero .zero .zero ex0, []), (exForm .dest .read .zero f, [.s 2])].all (fun p =>
      readyB s 0 64 { p.1 with wide := true } p.2 && readyB t 0 0 { p.1 with wide := true } p.2 &&
      readyB u 0 0 { p.1 with wide := true } p.2) = true := by decide +kernel
  have rest : (s.gang 0 64).halt = none ∧ (t.gang 0 0).halt = none ∧
    (t.gang 0 0).park = none ∧ (t.crew 0 0).mxErr = some (ePerm, 0, 8) ∧ (u.crew 0 0).mxErr = none ∧ bit (u.gang 0 0).role 0 = false :=
    ⟨rfl, rfl, rfl, rfl, rfl, by decide +kernel⟩
  simp only [List.all_cons, List.all_nil, Bool.and_true, Bool.and_eq_true] at ok
  obtain ⟨⟨⟨a1, a2⟩, a3⟩, ⟨⟨b1, b2⟩, b3⟩, ⟨⟨c1, c2⟩, c3⟩, ⟨⟨d1, d2⟩, d3⟩, ⟨⟨e1, e2⟩, e3⟩⟩ := ok
  intro p hp
  simp only [matrixForms, List.mem_cons, List.not_mem_nil, or_false] at hp
  rcases hp with rfl | rfl | rfl | rfl | rfl | rfl | rfl | rfl
  · exact ⟨_, s, t, u, _, ready_of a1, ready_of a2, ready_of a3, rest⟩
  · exact ⟨_, s, t, u, _, ready_of b1, ready_of b2, ready_of b3, rest⟩
  · exact ⟨_, s, t, u, _, ready_of c1, ready_of c2, ready_of c3, rest⟩
  · exact ⟨_, s, t, u, _, ready_of d1, ready_of d2, ready_of d3, rest⟩
  · exact ⟨_, s, t, u, _, ready_of d1, ready_of d2, ready_of d3, rest⟩
  · exact ⟨_, s, t, u, _, ready_of a1, ready_of a2, ready_of a3, rest⟩
  · exact ⟨_, s, t, u, _, ready_of e1, ready_of e2, ready_of e3, rest⟩
  · exact ⟨_, s, t, u, _, ready_of e1, ready_of e2, ready_of e3, rest⟩

/-- A check that passes gives a command. -/
def goesB {α : Type} (r : Except Stop α) : Bool :=
  match r with
  | .ok _ => true
  | .error _ => false
theorem goes_of {α : Type} {r : Except Stop α} (h : goesB r = true) : ∃ v, r = .ok v := by
  cases r with
  | ok v => exact ⟨v, rfl⟩
  | error e => simp [goesB] at h

def lb0 : MxLbF := { rc := 0, slot := 60, fmt := 2, pair := 0, rest := 0 }

/-- The other instructions of MAJ 1A in the plaza, and of a gang of a crew. -/
theorem wit_MatrixIssue_refused_words : ∀ fm ∈ [({ legal := mxLbLegal lb0, fb := lb0.rest != 0 } : Form), { legal := true, fb := false },
      { legal := mxStLegal { rc := 0, rest := 0, tile := 0, exp := 0, fmt := 1 }, fb := false },
      { legal := true, fb := false, names := [(63, 1)], dests := [63] }],
    Ready (plaza gang0) 0 64 { fm with wide := true } [] ∧ Ready (one gang0) 0 0 { fm with wide := true } [] := by
  intro fm h
  simp only [List.mem_cons, List.not_mem_nil, or_false] at h
  rcases h with rfl | rfl | rfl | rfl <;> exact ⟨ready_of (by decide +kernel), ready_of (by decide +kernel)⟩

/-- `mx.lb` of a BF16 operand into the last four slots. -/
theorem wit_MatrixIssue_load : ∃ (s : State) (m : MxCmd) (oob : Bool), Tensor s 0 0 ∧
    Ready s 0 0 { legal := mxLbLegal lb0, fb := lb0.rest != 0, wide := true } [] ∧
    checkLb (noteFallback s 0 0 (lb0.rest != 0)) 0 0 lb0 = .ok (m, oob) ∧ (noteFallback s 0 0 (lb0.rest != 0)).mxRoom m = true := by
  obtain ⟨⟨m, oob⟩, h⟩ := goes_of (r := checkLb (noteFallback (mxState false (mxGang (rowsRec 128))) 0 0 (lb0.rest != 0)) 0 0 lb0)
    (by decide +kernel)
  have room : goesB (checkLb (noteFallback (mxState false (mxGang (rowsRec 128))) 0 0 (lb0.rest != 0)) 0 0 lb0 >>= fun p =>
    need ((noteFallback (mxState false (mxGang (rowsRec 128))) 0 0 (lb0.rest != 0)).mxRoom p.1) (.code eRec)) = true := by decide +kernel
  refine ⟨_, m, oob, tensor_mx false (rowsRec 128), ready_of (by decide +kernel), h, ?_⟩
  rw [h] at room
  revert room
  show goesB (need _ _) = true → _
  unfold need
  split
  · intro _; assumption
  · intro r; simp [goesB] at r

/-- A record of zeros is malformed. -/
theorem wit_MatrixIssue_load_fault : ∃ (s : State) (code : Byte) (info : W), Tensor s 0 0 ∧
    Ready s 0 0 { legal := mxLbLegal lb0, fb := lb0.rest != 0, wide := true } [] ∧
    (match checkLb (noteFallback s 0 0 (lb0.rest != 0)) 0 0 lb0 with
      | .error e => e == .fault code 0 info 0 0
      | .ok _ => false) = true :=
  ⟨mxState false (mxGang 0), eRec, 0, tensor_mx false 0, ready_of (by decide +kernel), by decide +kernel⟩

/-- A BF16 operand in the weight buffer, for the accumulation of one row into tile 7. -/
def mma0 : MxMmaF := { rc := 0, slot := 0, tile := 7, ov := 1, rest := 0 }
def operand0 (cls : MxClass) : WSlot := { fmt := 2, cbn := 0, pair := false, n := cls.slots, bytes := [] }
def mxLoaded (n : Nat) : State := (mxState false (mxGang (rowsRec n))).modMx 0 fun m => { m with slots := [(0, operand0 .bf)] }

theorem wit_MatrixIssue_multiply : ∃ (s : State) (m : MxCmd × Bool), Tensor s 0 0 ∧
    Ready s 0 0 { legal := true, fb := mma0.rest != 0, wide := true } [] ∧ checkMma (noteFallback s 0 0 (mma0.rest != 0)) 0 0 mma0 = .ok m := by
  obtain ⟨m, h⟩ := goes_of (r := checkMma (noteFallback (mxLoaded 1) 0 0 (mma0.rest != 0)) 0 0 mma0) (by decide +kernel)
  exact ⟨_, m, ⟨by decide, by decide +kernel, rfl, .inr rfl⟩, ready_of (by decide +kernel), h⟩

/-- The FP32 output of the rows of tile 0. -/
def st0 : MxStF := { rc := 0, rest := 0, tile := 0, exp := 0, fmt := 1 }
theorem wit_MatrixIssue_store : ∃ (s : State) (m : MxCmd × Bool), Tensor s 0 0 ∧
    Ready s 0 0 { legal := mxStLegal st0, fb := st0.rest != 0, wide := true } [] ∧
    checkSt (noteFallback s 0 0 (st0.rest != 0)) 0 0 st0 = .ok m := by
  let s := (mxState false (mxGang (rowsRec 1))).modMx 0 fun m => { m with tiles := Vector.replicate 8 { tag := 1 } }
  obtain ⟨m, h⟩ := goes_of (r := checkSt (noteFallback s 0 0 (st0.rest != 0)) 0 0 st0) (by decide +kernel)
  exact ⟨s, m, ⟨by decide, by decide +kernel, rfl, .inr rfl⟩, ready_of (by decide +kernel), h⟩

/-- `mx.zero` of every tile in the pair form, `mx.rmax`, `mx.wr` and `mx.rd`, of the last tile. -/
theorem wit_MatrixIssue_tiles : ∃ (s : State) (f : EX) (a : W) (g h : EX) (v : Val) (r : MxRdF), Tensor s 0 0 ∧
    (s.crew 0 0).lic = some (true, 0, 64) ∧ Ready s 0 0 { exForm .zero .read .zero f with wide := true } [.s a] ∧ bit a 9 = true ∧
    Ready s 0 0 { exForm (.idx 16) (.idx 8) .zero g with wide := true } [] ∧ g.a = 7 ∧
    Ready s 0 0 { exForm .vread .read .zero h with wide := true } [.s a, v] ∧
    Ready s 0 0 { legal := true, fb := false, names := [(r.v.toNat, 1)], wide := true, dests := [r.v.toNat] } [] ∧
    tilesHeld (s.crew 0 0) false r.tile.toNat 1 = true :=
  ⟨mxState true { mxGang (rowsRec 128) with s := vput gang0.s 1 { val := 0x3ff } }, { ex0 with a := 1, ba := 1 }, 0x3ff, { ex0 with d := 0, a := 7 },
    { ex0 with d := 16, a := 1, ba := 1 }, vval 16, { v := 63, tile := 7, row := 127, block := 3 },
    ⟨by decide, by decide +kernel, rfl, .inr rfl⟩, rfl, ready_of (by decide +kernel), by decide, ready_of (by decide +kernel), rfl,
    ready_of (by decide +kernel), ready_of (by decide +kernel), by decide +kernel⟩

/-- `mx.wait`, `mx.unlic` and `acc.rel` of a crew with a licence, and a request of `acc.get` and `mx.lic` with s1. -/
theorem wit_MatrixLicences : ∃ (s : State) (f g : EX) (a : W), Tensor s 0 0 ∧ (s.crew 0 0).lic ≠ none ∧
    Ready s 0 0 { exForm .zero .zero .zero ex0 with wide := true } [] ∧
    Ready s 0 0 { exForm .zero .read .zero f with wide := true } [.s a] ∧
    Ready s 0 0 { exForm .dest .read .zero g with wide := true } [.s a] ∧ (s.mx 0).q = [] ∧ s.mxWaitOf 0 0 = none :=
  ⟨mxState true (mxGang 0), { ex0 with a := 1, ba := 1 }, { ex0 with d := 4, a := 1, ba := 1 }, 1, tensor_mx true 0, by decide +kernel,
    ready_of (by decide +kernel), ready_of (by decide +kernel), ready_of (by decide +kernel), rfl, rfl⟩

/-- A crew without a licence asks for the last slot, in the solo and in the pair form; the follower holds a crew of the launch. -/
theorem wit_MatrixLicences_ask : ∀ a ∈ [(0x013f00 : W), 0x013f01], ∃ (s : State) (f : EX), Tensor s 0 0 ∧ (s.crew 0 0).lic = none ∧
    Ready s 0 0 { exForm .dest .read .zero f with wide := true } [.s a] ∧ a.toNat / 2 ^ 16 % 128 = 1 ∧
    a.toNat / 2 ^ 8 % 64 + 1 = 64 ∧ s.pairCrew 0 0 = true := by
  intro a ha
  refine ⟨{ one { gang1 a with role := 1 } with cores := (one { gang1 a with role := 1 }).cores ++ [(1, { crews := [(0, crew0)] })] },
    { ex0 with d := 4, a := 1, ba := 1 }, ⟨by decide, ?_, rfl, .inr rfl⟩, rfl, ready_of ?_, ?_, ?_, ?_⟩ <;>
    (simp only [List.mem_cons, List.not_mem_nil, or_false] at ha; rcases ha with rfl | rfl) <;> decide +kernel

/-- A command that zeroes tile 0 at the head of the queue. -/
def zeroCmd : MxCmd := { op := .zero 1 false, core := 0, ctx := 0, pair := false, pc := 0, launch := 1, pin := 0, pinSize := 0, num := 0 }
theorem wit_MatrixCommandRetires : ∃ (s t u : State) (m : MxCmd) (e : Option MxFail), s.mxReady 0 = false ∧ t.mxReady 0 = true ∧
    t.mxHead 0 = some m ∧ t.runMx m = (u, e) ∧ m.node = none :=
  ⟨one gang0, (one gang0).modMx 0 fun x => { x with q := [zeroCmd], num := 1 }, _, zeroCmd, _, by decide +kernel, by decide +kernel,
    by decide +kernel, rfl, rfl⟩

/-- An `mx.mma` of one row into the last tile, whose other rows stay; of a core, and of a pair. -/
theorem wit_MatrixMultiply : ∀ pair : Bool, ∃ (s : State) (m : MxCmd) (rc : BitVec 128) (slot t : Nat) (ov : Bool) (cb : List (BitVec 16))
    (cls : MxClass) (op op2 : WSlot) (rows : List Nat), m.op = .mma rc slot t ov cb ∧ m.pair = pair ∧
    classA (recFmt rc).toNat = some cls ∧ (recFmt rc).toNat < 16 ∧ sget (s.mx m.core).slots slot = some op ∧
    sget (s.mx (pairMate m.core)).slots slot = some op2 ∧ s.loadA m rc cls = .ok rows ∧ t + (rows.length + 127) / 128 ≤ 8 ∧
    rows.length = 1 := by
  intro pair
  let s := (mxLoaded 1).modMx 1 fun m => { m with slots := [(0, operand0 .bf)] }
  let m : MxCmd := { zeroCmd with op := .mma (rowsRec 1) 0 7 true [], pair := pair, pin := 0x100000, pinSize := 0x100000 }
  have h : (match s.loadA m (rowsRec 1) .bf with
      | .ok rows => rows.length == 1
      | .error _ => false) = true := by cases pair <;> decide +kernel
  rcases e : s.loadA m (rowsRec 1) .bf with _ | rows <;> rw [e] at h
  · simp at h
  · have l : rows.length = 1 := by simpa using h
    have o : sget (s.mx 0).slots 0 = some (operand0 .bf) ∧ sget (s.mx 1).slots 0 = some (operand0 .bf) := by decide +kernel
    exact ⟨s, m, _, _, _, _, _, .bf, operand0 .bf, operand0 .bf, rows, rfl, rfl, by decide +kernel, by decide +kernel, o.1, o.2, e,
      by rw [l] <;> decide, l⟩

/-- A request that fits, and one that neither fits nor is part of a tie. -/
theorem wit_MatrixUnits_arbiter : ∃ (s : State) (core c : Nat) (r : MxReq), firstBy s.mxBefore (s.mxWaiting (core - core % 2)) = some (c, r) ∧
    s.mxFits c r = true :=
  ⟨(one gang0).modMx 0 fun x => { x with waits := [{ ctx := 0, kind := 1, word := 0x400000 }] }, 1, 0, { ctx := 0, kind := 1, word := 0x400000 },
    by decide +kernel, by decide +kernel⟩

/-- Two crews each hold a tile and ask for the other's: a tie, which refuses the younger. -/
theorem wit_MatrixUnits_tie : ∃ (s : State) (c d q : Nat) (r : MxReq), firstBy s.mxBefore (s.mxWaiting 0) = some (c, r) ∧
    s.mxFits c r = false ∧ s.mxTie 0 = true ∧ s.mxLoser 0 = some (d, q) :=
  ⟨{ cores := [(0, { crews := [(0, { crew0 with solo := 2 }), (1, { crew0 with launch := 0x06000001, solo := 1 })]
                     mx := { waits := [{ ctx := 0, kind := 0, word := 1 }, { ctx := 16, kind := 0, word := 2 }] } })] },
    0, 0, 1, { ctx := 0, kind := 0, word := 1 }, by decide +kernel, by decide +kernel, by decide +kernel, by decide +kernel⟩

/-- Die 0 is not halted at reset, its last quad is 15; and a die that is. -/
theorem wit_MatrixUnits_tokens : ∃ (s t : State) (d q : Nat), (s.die d).thermal = false ∧ q < 16 ∧ q = 15 ∧ (t.die d).thermal = true :=
  ⟨State.reset, State.reset.modDie 0 fun x => { x with thermal := true }, 0, 15, rfl, by decide, rfl, rfl⟩

/-- A request for a slot that a crew which asks for nothing holds: it does not fit, and there is no tie. -/
theorem wit_MatrixUnits_waits : ∃ (s : State) (c : Nat) (r : MxReq), firstBy s.mxBefore (s.mxWaiting 0) = some (c, r) ∧
    s.mxFits c r = false ∧ s.mxTie 0 = false :=
  ⟨{ cores := [(0, { crews := [(0, { crew0 with lic := some (false, 0, 64) }), (1, { crew0 with launch := 0x06000001 })]
                     mx := { waits := [{ ctx := 16, kind := 1, word := 0x010000 }] } })] },
    0, { ctx := 16, kind := 1, word := 0x010000 }, by decide +kernel, by decide +kernel, by decide +kernel⟩

/-- An `mx.mma` at the head of the queue of core 0: the moving token stops at its quad, and not at the next. -/
theorem wit_MatrixUnits_stops : ∃ s : State, s.quadStops 0 0 = true ∧ s.quadStops 0 1 = false :=
  ⟨(mxLoaded 1).modMx 0 fun x => { x with q := [{ zeroCmd with op := .mma (rowsRec 1) 0 7 true [] }], num := 1 }, by decide +kernel,
    by decide +kernel⟩

/-- `mx.unlic` and `acc.rel` of a crew with a command in the queue. -/
theorem wit_MatrixLicences_busy : ∃ s : State, Tensor s 0 0 ∧ (s.crew 0 0).lic ≠ none ∧ s.crewMx 0 0 = true ∧
    Ready s 0 0 { exForm .zero .zero .zero ex0 with wide := true } [] :=
  ⟨(mxState false (mxGang 0)).modMx 0 fun x => { x with q := [zeroCmd], num := 1 }, ⟨by decide, by decide +kernel, rfl, .inr rfl⟩,
    by decide +kernel, by decide +kernel, ready_of (by decide +kernel)⟩

/-! ### Graphs and messages -/

/-- `gang0` with two words in s1 and s2, and 16-element records in b0 and b1. -/
def gang2 (a b : W) (r : BitVec 128) : Gang :=
  { gang0 with s := vput (vput gang0.s 1 { val := a }) 2 { val := b }, recs := vput (vput gang0.recs 0 r) 1 r }

/-- An EX word with D = s4, A = s1 and B = s2. -/
def ex412 : EX := { d := 4, bd := 0, a := 1, ba := 1, b := 2, bb := 1 }
def ex12 : EX := { ex412 with d := 0 }
def ex41 : EX := { ex412 with b := 0, bb := 0 }
def ex1 : EX := { ex41 with d := 0 }

/-- A copy of 16 elements, and one whose records are zeros. -/
theorem wit_Graphs_copy : ∃ (s t : State) (a b : W), Ready s 0 0 (exForm .dest .read .read ex412) [.s a, .s b] ∧
    Ready t 0 0 (exForm .dest .read .read ex412) [.s a, .s b] ∧
    firstFault [(recBad (vget (s.gang 0 0).recs 0 0), eRec), (overruns s 0 0 (vget (s.gang 0 0).recs 1 0) b.toNat, ePerm)] = none ∧
    firstFault [(recBad (vget (t.gang 0 0).recs 0 0), eRec)] = some eRec :=
  ⟨one (gang2 0x10 16 (record 2)), one (gang2 0x10 16 0), 0x10, 16, ready_of (by decide +kernel), ready_of (by decide +kernel),
    by decide +kernel, by decide +kernel⟩

theorem wit_Graphs_wake : ∃ (f : EX) (s : State), f.a ≠ 0 ∧ f.a ≠ f.d ∧
    Ready s 0 0 { exForm .dest (.idx 32) .zero f with
      legal := (exForm .dest (.idx 32) .zero f).legal && f.a != 0 && f.a != f.d
      dests := sDest f.a ++ (exForm .dest (.idx 32) .zero f).dests } [] :=
  ⟨{ ex0 with d := 4, a := 31 }, one gang0, by decide, by decide, ready_of (by decide +kernel)⟩

/-- The word of `mx.lb`, from a gang with TENSOR and a licence. -/
theorem wit_Graphs_matrix : ∃ (f : EX) (s : State) (a : W) (m : MxCmd × Bool), Ready s 0 0 (exForm .dest .read .zero f) [.s a] ∧
    mxOfWord s 0 0 a = .ok m := by
  let w : W := wordMxLbF 26 0 0 lb0
  let s := mxState false { mxGang (rowsRec 128) with s := vput gang0.s 1 { val := w } }
  obtain ⟨m, h⟩ := goes_of (r := mxOfWord s 0 0 w) (by decide +kernel)
  exact ⟨ex41, s, w, m, ready_of (by decide +kernel), h⟩

/-- A graph with an unfinished node 0 and a BUILT node 63, and the words that name them. -/
def nodes0 (st : NodeSt) : Store Node := [(0, { kind := .wake 0 5, st := st }), (63, { kind := .wake 0 6 })]
def graphed (st : NodeSt) : State := (one (gang2 0 63 0)).modCrew 0 0 fun w => { w with nodes := nodes0 st }

theorem wit_Graphs_edge : ∃ (s : State) (a b : W) (m n : Node), Ready s 0 0 (exForm .zero .read .read ex12) [.s a, .s b] ∧
    nodeAt s 0 0 a = some m ∧ nodeAt s 0 0 b = some n ∧ n.st = .built ∧ m.succ.length < 8 ∧ a ≠ b ∧
    reaches (s.nodes 0 0) a.toNat 64 [b.toNat] = false :=
  ⟨graphed .armed, 0, 63, _, _, ready_of (by decide +kernel), rfl, rfl, rfl, by decide, by decide, by decide +kernel⟩

/-- `gn.arm` of a BUILT node by 63, of one that is armed, and of no node (id 64). -/
theorem wit_Graphs_arm : ∃ (s t u : State) (a b w : W) (n m : Node), Ready s 0 0 (exForm .zero .read .read ex12) [.s a, .s b] ∧
    nodeAt s 0 0 a = some n ∧ n.st = .built ∧ b.toNat ≤ 64 ∧ s.fenceDone 0 0 1 4 = true ∧ Ready t 0 0 (exForm .zero .read .read ex12) [.s a, .s b] ∧
    nodeAt t 0 0 a = some m ∧ m.st ≠ .built ∧ Ready u 0 0 (exForm .zero .read .read ex12) [.s w, .s b] ∧ nodeAt u 0 0 w = none :=
  ⟨graphed .built, graphed .armed, one (gang2 64 63 0), 0, 63, 64, _, _, ready_of (by decide +kernel), rfl, rfl, by decide,
    by decide +kernel, ready_of (by decide +kernel), rfl, by decide, ready_of (by decide +kernel), by decide +kernel⟩

/-- `gn.wait`, `gn.kill` and `gn.free` of a node in each state. -/
theorem wit_Graphs_wait : ∀ st : NodeSt, ∃ (s : State) (a : W) (n : Node), Ready s 0 0 (exForm .dest .read .zero ex41) [.s a] ∧
    Ready s 0 0 (exForm .zero .read .zero ex1) [.s a] ∧ nodeAt s 0 0 a = some n ∧ n.st = st := by
  intro st
  cases st <;> exact ⟨graphed _, 0, _, ready_of (by decide +kernel), ready_of (by decide +kernel), rfl, rfl⟩

theorem wit_Graphs_plaza : graphNo 64 = 4 ∧ graphLen 4 = 8 ∧ graphLen 3 = 64 := ⟨rfl, rfl, rfl⟩

/-- Copies of the first of two elements, of none left, of a node to be killed, and of one with a page fault. -/
def copy0 (done : Nat) (pf : Option EPf) : CopyCmd :=
  { src := record 2, dst := record 2, n := 2, done := done, pc := 0, ctx := 0, asid := 3, pf := pf }
def copyingOf (cmd : CopyCmd) : State :=
  ((one gang0).modCrew 0 0 fun w => { w with nodes := [(5, { kind := .copy cmd, st := .running })] }).modCore 0 fun k =>
    { k with copyQ := [(0, 5)] }
def copying (kill : Bool) (done : Nat) (pf : Option EPf) : State :=
  ((one gang0).modCrew 0 0 fun w => { w with nodes := [(5, { kind := .copy (copy0 done pf), st := .running, kill := kill })] }).modCore 0
    fun k => { k with copyQ := [(0, 5)] }

theorem wit_CopyEngine : ∃ (s : State) (nd : Node) (cmd : CopyCmd) (a b : Nat), s.copyHead 0 = some (0, 5) ∧
    s.copyCmd 0 0 5 = some (nd, cmd) ∧ nd.kill = false ∧ cmd.pf = none ∧ cmd.done < cmd.n ∧
    laneAddress cmd.src 0 (s.pinOf 0 cmd.ctx).1 (s.pinOf 0 cmd.ctx).2 cmd.elem (recEsize cmd.src) = .at a false ∧
    laneAddress cmd.dst 0 (s.pinOf 0 cmd.ctx).1 (s.pinOf 0 cmd.ctx).2 cmd.elem (recEsize cmd.src) = .at b false ∧
    (match s.engineKeys 0 (s.launchFor 0 cmd.ctx) cmd.asid .load (recKind cmd.src == 0) (a + cmd.off) 16 with
      | (u, .ok k) => k == (List.range 16).map (0x100010 + ·) && (k.all fun i => !u.isBad i 1) &&
        match u.engineKeys 0 (s.launchFor 0 cmd.ctx) cmd.asid .store (recKind cmd.dst == 0) (b + cmd.off) 16 with
        | (_, .ok l) => l == k
        | (_, .error _) => false
      | (_, .error _) => false) = true :=
  ⟨copying false 1 none, _, _, 0x100010, 0x100010, by decide +kernel, rfl, rfl, rfl, by decide, by decide +kernel, by decide +kernel,
    by decide +kernel⟩

/-- A copy to a device record in a space with no root: the page fails. -/
theorem wit_CopyEngine_device : ∃ (s : State) (nd : Node) (cmd : CopyCmd) (a b : Nat), s.copyHead 0 = some (0, 5) ∧
    s.copyCmd 0 0 5 = some (nd, cmd) ∧ nd.kill = false ∧ cmd.pf = none ∧ cmd.done < cmd.n ∧
    laneAddress cmd.src 0 (s.pinOf 0 cmd.ctx).1 (s.pinOf 0 cmd.ctx).2 cmd.elem (recEsize cmd.src) = .at a false ∧
    laneAddress cmd.dst 0 (s.pinOf 0 cmd.ctx).1 (s.pinOf 0 cmd.ctx).2 cmd.elem (recEsize cmd.src) = .at b false ∧
    (match s.engineKeys 0 (s.launchFor 0 cmd.ctx) cmd.asid .load (recKind cmd.src == 0) (a + cmd.off) 16 with
      | (u, .ok _) => match u.engineKeys 0 (s.launchFor 0 cmd.ctx) cmd.asid .store (recKind cmd.dst == 0) (b + cmd.off) 16 with
        | (_, .ok _) => false
        | (_, .error _) => true
      | (_, .error _) => false) = true :=
  ⟨copyingOf { copy0 0 none with dst := record 0 }, _, _, 0x100000, 0, by decide +kernel, rfl, rfl, rfl, by decide, by decide +kernel,
    by decide +kernel, by decide +kernel⟩

/-- An element beyond an EXTENT, and one beyond the pinned region. -/
theorem wit_CopyEngine_outside : ∀ p ∈ [((16 : Nat), record 2), (0x10000, record 2 + BitVec.ofNat 128 (2 ^ 112))],
    let cmd : CopyCmd := { copy0 p.1 none with n := p.1 + 1, src := p.2 }
    let s := copyingOf cmd
    s.copyHead 0 = some (0, 5) ∧ (s.copyCmd 0 0 5).map (·.2) = some cmd ∧ (s.copyCmd 0 0 5).any (fun q => !q.1.kill) = true ∧
    cmd.pf = none ∧ cmd.done < cmd.n ∧
    laneAddress cmd.src 0 (s.pinOf 0 cmd.ctx).1 (s.pinOf 0 cmd.ctx).2 cmd.elem (recEsize cmd.src) =
      if p.1 = 16 then .oob else .at 0x200000 true := by
  intro p h
  simp only [List.mem_cons, List.not_mem_nil, or_false] at h
  rcases h with rfl | rfl <;> decide +kernel

theorem wit_CopyEngine_ends : ∃ (s t u v : State) (n m o : Node) (p q r : CopyCmd), s.copyHead 0 = some (0, 5) ∧
    s.copyCmd 0 0 5 = some (n, p) ∧ n.kill = false ∧ p.pf = none ∧ p.n ≤ p.done ∧ t.copyHead 0 = some (0, 5) ∧
    t.copyCmd 0 0 5 = some (m, q) ∧ m.kill = true ∧ u.copyHead 0 = some (0, 5) ∧ u.copyCmd 0 0 5 = some (o, r) ∧ o.kill = false ∧
    r.pf.isSome = true ∧ v.copyHead 0 = none :=
  ⟨copying false 2 none, copying true 1 none, copying false 1 (some { seq := 1, va := 0, store := false }), one gang0, _, _, _, _, _, _,
    by decide +kernel, rfl, rfl, rfl, by decide, by decide +kernel, rfl, rfl, by decide +kernel, rfl, rfl, rfl, rfl⟩

/-- The last buffer of 256 bytes in core 0's slice, and a header for the last core, with the longest payload. -/
theorem wit_MessagePassing_send : ∃ (s : State) (a h : W), Ready s 0 0 (exForm .dest .read .read ex412) [.s a, .s h] ∧
    bufferFault s 0 0 a (16 * (h.toNat / 2 ^ 16 % 16 + 1)) = none ∧ bufferFault s 0 0 a 256 = none ∧ h.toNat / 2 ^ 20 = 1535 ∧
    h.toNat / 2 ^ 16 % 16 = 15 ∧ s.laybyMatch 0 (s.launchOf 0 0) h = none ∧ (s.core 0).receives.length < 64 :=
  ⟨one (gang2 0x1fff00 0x5fff0000 0), 0x1fff00, 0x5fff0000, ready_of (by decide +kernel), by decide +kernel, by decide +kernel, rfl, rfl,
    by decide +kernel, by decide +kernel⟩

/-- A header for core 1,536, which is none; and a buffer that passes the end of the slice. -/
theorem wit_MessagePassing_send_faults : ∃ (s t : State) (a b h : W), Ready s 0 0 (exForm .dest .read .read ex412) [.s a, .s h] ∧
    bufferFault s 0 0 a (16 * (h.toNat / 2 ^ 16 % 16 + 1)) = none ∧ 1536 ≤ h.toNat / 2 ^ 20 ∧
    Ready t 0 0 (exForm .dest .read .read ex412) [.s b, .s h] ∧ bufferFault t 0 0 b 256 = some ePerm :=
  ⟨one (gang2 0 0x60000000 0), one (gang2 0x1fff10 0x60000000 0), 0, 0x1fff10, 0x60000000, ready_of (by decide +kernel), by decide +kernel,
    by decide, ready_of (by decide +kernel), by decide +kernel⟩

/-- A lay-by message that the selector takes: any core, any tag. -/
theorem wit_MessagePassing_receive : ∃ (s : State) (a h : W) (l : Layby), Ready s 0 0 (exForm .dest .read .read ex412) [.s a, .s h] ∧
    bufferFault s 0 0 a 256 = none ∧ (s.emptyS 0 0 4).laybyMatch 0 ((s.emptyS 0 0 4).launchOf 0 0) h = some l :=
  ⟨(one (gang2 0 0xc0000 0)).modCore 0 fun k => { k with layby := [{ hdr := 7, payload := [], bad := false, launch := 0x05000001 }] }, 0,
    0xc0000, { hdr := 7, payload := [], bad := false, launch := 0x05000001 }, ready_of (by decide +kernel), by decide +kernel, by decide +kernel⟩

/-- `mcancel` of s4 with a posted receive, and with none; `mprobe`. -/
theorem wit_MessagePassing_cancel : ∃ (s t : State) (f g : EX) (a : W) (r : Receive),
    Ready s 0 0 { exForm .dest .zero .zero f with dests := [] } [] ∧ Ready t 0 0 { exForm .dest .zero .zero f with dests := [] } [] ∧
    (s.core 0).receives.find? (fun r => r.ctx == 0 && r.creg == f.d.toNat) = some r ∧
    (t.core 0).receives.find? (fun r => r.ctx == 0 && r.creg == f.d.toNat) = none ∧ Ready t 0 0 (exForm .dest .zero .read g) [.s a] :=
  ⟨(one gang0).modCore 0 fun k => { k with receives := [{ ctx := 0, sel := 0, addr := 0, creg := 4, launch := 0x05000001 }] }, one gang0,
    { ex0 with d := 4 }, { ex0 with d := 4, b := 2, bb := 1 }, 2, _, ready_of (by decide +kernel), ready_of (by decide +kernel), rfl, rfl,
    ready_of (by decide +kernel)⟩

/-- A message from core 0 to core 1, which is to arrive. -/
def msg0 (status : Option Nat) : Msg :=
  { src := 0, ctx := 0, creg := 4, addr := 0, dst := 1, hdr := 0x100007, launch := 0x05000001, status := status, got := [(0, List.replicate 16 0)] }
def sending (k : Core) (status : Option Nat) : State :=
  { one gang0 with cores := (one gang0).cores ++ [(1, k)], msgs := [(9, msg0 status)], nextId := 10 }

/-- No crew of its launch, a receive that matches, room in the lay-by, and none; each with a payload that has been read. -/
theorem wit_MessagePassing_arrival : ∀ k ∈ [({} : Core), { crews := [(3, crew0)], receives := [{ ctx := 48, sel := 0xc0000, addr := 0x200000, creg := 5, launch := 0x05000001 }] },
    { crews := [(3, crew0)] }, { crews := [(3, crew0)], layby := List.replicate 32 { hdr := 0, payload := [], bad := false, launch := 0 } }],
    sget (sending k none).msgs 9 = some (msg0 none) ∧ (msg0 none).hdr.toNat / 2 ^ 16 % 16 + 1 ≤ (msg0 none).got.length ∧
      (sending k none).crewOf 1 0x05000001 = (if k.crews = [] then none else some 3) := by
  decide +kernel

/-- A payload of 16 pieces whose last has not been read; and a message whose status is on its way back. -/
theorem wit_MessagePassing_pieces : ∃ (s t : State) (m : Msg), sget s.msgs 9 = some m ∧ 15 < m.hdr.toNat / 2 ^ 16 % 16 + 1 ∧
    sget m.got 15 = none ∧ m.got.length < m.hdr.toNat / 2 ^ 16 % 16 + 1 ∧ sget t.msgs 9 = some (msg0 (some 3)) :=
  ⟨{ sending {} none with msgs := [(9, { msg0 none with hdr := 0x1f0007, got := (List.range 15).map fun i => (i, []) })] },
    sending {} (some 3), _, rfl, by decide, by decide, by decide, rfl⟩

/-- A router that wakes, and one that does not. -/
theorem wit_MessagePassing_routers : (({ routers := [(3, { up := false, waking := some 7 })] } : State).router 3).waking = some 7 ∧
    (State.reset.router 3).waking = none := by decide +kernel

/-- After 256 idle mesh cycles the router at column 0 of die 0 powers down; the one at column 7, towards die 1, does not. -/
theorem test_routerPowerDown : [0, 26].map (fun n => (nextOf (exec (.routerPowerDown n) { State.reset with clock := 128 })).map
    fun t => (t.router n).up) = [some false, some true] := by decide +kernel

/-! ### Objects -/

/-- The last object of the last die, and the id beyond it. -/
theorem wit_ObjectInstructions_call : ∀ o ∈ [(0x17fff : W), 0x18000], ∃ (s : State) (a : W), Ready s 0 0 (exForm .dest .read .read ex412) [.s a, .s o] ∧
    (o.toNat < 24 * 4096 ↔ o = 0x17fff) := by
  intro o ho
  refine ⟨one (gang2 5 o 0), 5, ready_of ?_, ?_⟩ <;>
    (simp only [List.mem_cons, List.not_mem_nil, or_false] at ho; rcases ho with rfl | rfl) <;> decide +kernel

def callv0 : CallvF := { d := 63, a := 9, s := 2, rest := 0 }

/-- `obj.callv`, with all lanes active and with none. -/
theorem wit_ObjectInstructions_callv : ∀ k ∈ [(0xffffffff : W), 0], ∃ (s : State) (a : Val) (o : W), (s.gang 0 0).kuse = k ∧
    Ready s 0 0 { legal := true, fb := callv0.rest != 0, names := [(callv0.a.toNat, 1), (callv0.d.toNat, 1)],
                  srcs := [{ cls := .vt, code := callv0.a.toNat, blk := true }, uSrc callv0.s true], dests := [callv0.d.toNat] } [a, .s o] ∧
    o.toNat < 24 * 4096 := by
  intro k hk
  refine ⟨one { gang2 0 64 0 with kuse := k }, vval 9, 64, ?_, ready_of ?_, by decide⟩ <;>
    (simp only [List.mem_cons, List.not_mem_nil, or_false] at hk; rcases hk with rfl | rfl) <;> decide +kernel

/-- `wfetch` and `wphase`. -/
theorem wit_ObjectInstructions_fetch : ∃ (s : State) (a : W), Ready s 0 0 (exForm .dest .read .zero ex41) [.s a] ∧ s.fenceDone 0 0 15 3 = true :=
  ⟨one (gang2 0 0 0), 0, ready_of (by decide +kernel), by decide +kernel⟩

/-- `wfetch` of the plaza, `rshare` there, and `obj.callv`. -/
theorem wit_ObjectInstructions_plaza : ∃ (s : State) (a o : W) (v : Val), Ready s 0 64 (exForm .dest .read .zero ex41) [.s a] ∧
    s.fenceDone 0 64 15 3 = true ∧ Ready s 0 64 { legal := true, fb := false, names := [(56, 8)], wide := true } [] ∧
    Ready s 0 64 { legal := true, fb := callv0.rest != 0, names := [(callv0.a.toNat, 1), (callv0.d.toNat, 1)],
                   srcs := [{ cls := .vt, code := callv0.a.toNat, blk := true }, uSrc callv0.s true], dests := [callv0.d.toNat] } [v, .s o] :=
  ⟨plaza gang0, 1, 2, vval 9, ready_of (by decide +kernel), by decide +kernel, ready_of (by decide +kernel), ready_of (by decide +kernel)⟩

/-- An instruction that the plaza may not execute. -/
theorem wit_ObjectInstructions_refused : ∃ p ∈ plazaForms, ∃ (f : EX) (s : State) (vs : List Val), Ready s 0 64 (p.2 f) vs :=
  ⟨(.slotClose, fun f => exForm .zero .read .zero f), by simp [plazaForms], ex1, plaza gang0, [.s 1], ready_of (by decide +kernel)⟩

/-- `obj.reply`, `obj.done` and `obj.fail` in the plaza and outside it. -/
theorem wit_ObjectInstructions_wave : ∃ (f : EX) (s t : State) (a : Val) (w : Wave), Ready s 0 64 (exForm .zero .vread .zero f true) [a] ∧
    (s.gang 0 64).wave = some w ∧ Ready t 0 0 (exForm .zero .vread .zero f true) [a] ∧
    Ready s 0 64 (exForm .zero .zero .zero ex0 true) [] ∧ Ready t 0 0 (exForm .zero .zero .zero ex0 true) [] :=
  ⟨{ ex0 with a := 9, ba := 1 }, plaza gang0, one gang0, vval 9, _, ready_of (by decide +kernel), rfl, ready_of (by decide +kernel),
    ready_of (by decide +kernel), ready_of (by decide +kernel)⟩

/-- Writes by the host of entries 63 and 64 of die 0, which is in service at reset, and of die 24, which is none. -/
theorem wit_ObjectMachinery_write : ∃ s : State, (0 < 24 ∧ s.dieUp 0 = true ∧ 64 < 4096 ∧ (64 ≤ 64 ∨ false = true)) ∧
    ¬ (64 ≤ 63 ∨ false = true) ∧ ¬ (24 < 24) :=
  ⟨State.reset, ⟨by decide, rfl, by decide, .inl (by decide)⟩, by decide, by decide⟩

/-- A packet of one request for object 64 of die 0, whose home is core 63; with the entry valid and open, and free. -/
def pkt0 (home tried : Option Nat) : Pkt :=
  { core := 0, ctx := 0, launch := 0x05000001, obj := 64, vec := false, reqs := [(0, 5)], dst := .s 4, left := 1, home := home, tried := tried }
def entry0 : BitVec 128 := BitVec.ofNat 128 (3 + 31 * 2 ^ 16 + 63 * 2 ^ 21)
def calling (e : BitVec 128) (home tried : Option Nat) : State :=
  { one gang0 with pkts := [(9, pkt0 home tried)], nextId := 10, dies := [(0, { objs := [(64, e)] })] }

theorem wit_ObjectMachinery_table : ∀ e ∈ [entry0, 0], ∃ (s : State) (n : Nat) (p : Pkt), sget s.pkts n = some p ∧ p.home = none ∧ p.reqs ≠ [] ∧
    (s.dieUp (p.obj.toNat / 4096 % 32) && bit (s.objEntry p.obj) 0 &&
      (bit (s.objEntry p.obj) 1 || (s.objEntry p.obj).extractLsb' 8 8 == p.launch.setWidth 8)) = (e == entry0) := by
  intro e he
  refine ⟨calling e none none, 9, pkt0 none none, rfl, rfl, by decide, ?_⟩
  simp only [List.mem_cons, List.not_mem_nil, or_false] at he
  rcases he with rfl | rfl <;> decide +kernel

/-- A packet at its plaza, with room and with 512 entries in use; and one turned back. -/
def fullPlaza : Plaza := { closed := (List.range 16).map fun _ => { obj := 1, opened := 0, maxw := 31, reqs := List.replicate 32 { pkt := 0, core := 0, ctx := 0, lane := 0, vec := false, arg := 0 } } }
theorem wit_ObjectMachinery_arrival : ∃ (s t : State) (p : Pkt), sget s.pkts 9 = some p ∧ p.home = some 63 ∧ p.reqs ≠ [] ∧ p.tried = none ∧
    p.reqs.length ≤ (s.core 63).plaza.room 9 ∧ sget t.pkts 9 = some p ∧ (t.core 63).plaza.room 9 < p.reqs.length :=
  ⟨calling entry0 (some 63) none, (calling entry0 (some 63) none).modCore 63 fun k => { k with plaza := fullPlaza }, _, rfl, rfl, by decide, rfl,
    by decide +kernel, rfl, by decide +kernel⟩
theorem wit_ObjectMachinery_retry : ∃ (s : State) (p : Pkt), sget s.pkts 9 = some p ∧ p.tried = some 0 ∧ 0 + 64 ≤ s.clock :=
  ⟨{ calling entry0 (some 63) (some 0) with clock := 64 }, _, rfl, rfl, by decide⟩

/-- An open wave, 63 and 64 cycles old; a closed one; and one that has issued PLZLIM instructions. -/
def wave0 : QWave := { obj := 64, opened := 0, maxw := 31, reqs := [{ pkt := 9, core := 0, ctx := 0, lane := 0, vec := false, arg := 5 }] }
theorem wit_ObjectMachinery_waves : ∃ (s t u : State) (w : QWave) (v : Wave), sget (s.core 63).plaza.opens 64 = some w ∧ s.clock < w.opened + 64 ∧
    sget (t.core 63).plaza.opens 64 = some w ∧ ¬ t.clock < w.opened + 64 ∧ t.gang? 63 64 = none ∧ (t.core 63).plaza.closed = [wave0] ∧
    (u.gang 0 64).wave = some v ∧ (u.die 0).plzlim.toNat ≠ 0 ∧ (u.die 0).plzlim.toNat ≤ v.issued ∧ v.ending = false :=
  ⟨{ cores := [(63, { plaza := { opens := [(64, wave0)] } })], clock := 63 },
    { cores := [(63, { plaza := { opens := [(64, wave0)], closed := [wave0] } })], clock := 64 },
    { cores := [(0, { gangs := [(64, { gang0 with wave := some { obj := 64, reqs := [], issued := 65536 } })] })] }, wave0, _, rfl, by decide, rfl,
    by decide, rfl, rfl, rfl, by decide, by decide, rfl⟩

/-- Waves closed in one cycle stand in the order of their objects' INDEX. -/
theorem test_closeWave : (closeWave 7 { wave0 with obj := 70 } (closeWave 7 { wave0 with obj := 80 } [])).map (·.obj) = [70, 80] := by decide +kernel

/-- A reply for s4, for lane 31 of v5, and for a gang whose launch is gone. -/
def replied (p : Pkt) (r : Reply) : State := { one gang0 with pkts := [(9, p)], replies := [(11, r)], nextId := 12 }
theorem wit_ObjectMachinery_reply : ∃ (s t u : State) (r q : Reply) (p m n : Pkt), sget s.replies 11 = some r ∧ sget s.pkts r.pkt = some p ∧
    s.launchOf p.core p.ctx = p.launch ∧ p.left ≤ 1 ∧ p.dst = .s 4 ∧ sget t.replies 11 = some q ∧ sget t.pkts q.pkt = some m ∧
    t.launchOf m.core m.ctx = m.launch ∧ ¬ m.left ≤ 1 ∧ m.dst = .v 5 1 ∧ sget u.pkts r.pkt = some n ∧ u.launchOf n.core n.ctx ≠ n.launch :=
  ⟨replied (pkt0 none none) ⟨9, 0, true, 7⟩, replied { pkt0 none none with dst := .v 5 1, left := 2 } ⟨9, 31, true, 7⟩,
    replied { pkt0 none none with launch := 7 } ⟨9, 0, true, 7⟩, _, _, _, _, _, rfl, rfl, rfl, by decide, rfl, rfl, rfl, rfl, by decide, rfl, rfl,
    by decide⟩

/-! ### Slots and the KV store -/

/-- The block of index 1,023 of the last die, generation 1; and a handle that names no finaliser. -/
def handle0 : W := 0x15fff
theorem wit_handle : handleGood 0x15fff = true ∧ handleGood 0x16000 = false ∧ handleGood 0x8000 = false := by decide +kernel

/-- `slot.open` of an aligned, a misaligned and an absent address. -/
theorem wit_SlotInstructions_open : ∀ a ∈ [(0 : W), 8, 0xc0000000], ∃ s : State, Ready s 0 0 (exForm .dest .read .zero ex41) [.s a] ∧
    s.fenceDone 0 0 13 3 = true := by
  intro a ha
  refine ⟨one (gang2 a 0 0), ready_of ?_, ?_⟩ <;>
    (simp only [List.mem_cons, List.not_mem_nil, or_false] at ha; rcases ha with rfl | rfl | rfl) <;> decide +kernel

/-- Records of 256 FP32 elements in the pinned region, at the places that the word 0x10 names; and records of zeros. -/
def confRec : BitVec 128 := BitVec.ofNat 128 (2 * 2 ^ 48 + 1 * 2 ^ 56 + 4 * 2 ^ 64 + 4 * 2 ^ 88 + 256 * 2 ^ 96)
theorem wit_SlotInstructions_pass : ∃ (s t : State) (a b : W), Ready s 0 0 (pairForm ex412) [.s a, .s b] ∧ handleGood a = true ∧
    s.fenceDone 0 0 13 3 = true ∧ (s.gang 0 0).recs[0] = confRec ∧ recBad confRec = false ∧ recKind confRec = 2 ∧ recExtent confRec = 256 ∧
    Ready t 0 0 (pairForm ex412) [.s a, .s b] ∧ recBad ((t.gang 0 0).recs[0]) = true :=
  ⟨one (gang2 handle0 0x10 confRec), one (gang2 handle0 0x10 0), handle0, 0x10, ready_of (by decide +kernel), by decide +kernel,
    by decide +kernel, rfl, by decide +kernel, by decide +kernel, by decide +kernel, ready_of (by decide +kernel), by decide +kernel⟩

/-- The three commands that park, none sent yet; and one that is answered. -/
theorem wit_SlotInstructions_verdict : ∃ (s t : State) (a b : W) (m : FinCmd), Ready s 0 0 (exForm .zero .read .read ex12) [.s a, .s b] ∧
    Ready s 0 0 (exForm .zero .read .zero ex1) [.s a] ∧ handleGood a = true ∧
    (s.fins.find? fun p => p.2.core == 0 && p.2.ctx == 0 && p.2.pc == (s.gang 0 0).pc && p.2.op.parks) = none ∧
    Ready t 0 0 (exForm .zero .read .zero ex1) [.s a] ∧
    (t.fins.find? fun p => p.2.core == 0 && p.2.ctx == 0 && p.2.pc == (t.gang 0 0).pc && p.2.op.parks) = some (9, m) ∧ m.place = 4 ∧ m.w0 = 1 :=
  ⟨one (gang2 handle0 16 0),
    { one (gang2 handle0 16 0) with fins := [(9, { core := 0, ctx := 0, pc := 0, op := .close, handle := handle0, die := 23, dst := none, place := 4, w0 := 1 })] },
    handle0, 16, _, ready_of (by decide +kernel), ready_of (by decide +kernel), by decide +kernel, rfl, ready_of (by decide +kernel), rfl, rfl, rfl⟩

/-- Commands of each kind for the finaliser of die 0, at a place. -/
def fin0 (op : FinOp) (place : Nat) : FinCmd :=
  { core := 0, ctx := 0, pc := 0, op := op, handle := 0x10000, die := 0, dst := some 4, launch := 1, asid := 3, place := place }
def block0 : Block := { isOpen := true, asid := 3, slots := [{ st := 2 }, {}], base := 100 }
def finished (op : FinOp) (place : Nat) : State :=
  { one gang0 with fins := [(9, fin0 op place)], nextId := 10, dies := [(0, { finQ := if place = 1 then [.cmd 9] else [], blocks := [(0, block0)] })] }

theorem wit_Finaliser_queue : ∀ place ∈ [0, 2, 3], ∃ (s : State) (m : FinCmd), sget s.fins 9 = some m ∧ m.place = place ∧
    (s.die m.die).finRoom m.core ≠ 0 ∧ m.dst = some 4 := by
  intro place h
  simp only [List.mem_cons, List.not_mem_nil, or_false] at h
  rcases h with rfl | rfl | rfl
  · exact ⟨finished .kerb 0, _, rfl, rfl, by decide +kernel, rfl⟩
  · exact ⟨finished .kerb 2, _, rfl, rfl, by decide +kernel, rfl⟩
  · exact ⟨finished .kerb 3, _, rfl, rfl, by decide +kernel, rfl⟩

/-- A queue that is full with 256 commands; answers to a pass and to a `slot.close`, whose gang is there. -/
theorem wit_Finaliser_queue_full : ∃ (s t u : State) (m p q : FinCmd) (g : Gang), sget s.fins 9 = some m ∧ m.place = 0 ∧ (s.die m.die).finRoom m.core = 0 ∧
    sget t.fins 9 = some p ∧ p.place = 3 ∧ p.op = .pass 0 0 ∧ sget u.fins 9 = some q ∧ q.place = 3 ∧ q.op.parks = true ∧
    u.gang? q.core q.ctx = some g ∧ g.ended = false :=
  ⟨(finished .kerb 0).modDie 0 fun d => { d with finQ := (List.range 256).map .cmd }, finished (.pass 0 0) 3, finished .close 3, _, _, _, _, rfl, rfl,
    by decide +kernel, rfl, rfl, rfl, rfl, rfl, rfl, rfl, rfl⟩

/-- Each command at the head of the queue of its finaliser. -/
theorem wit_Finaliser_acts : ∀ op ∈ [FinOp.open 0, .rule 0, .close, .reopen 1, .slotRead 1, .kerb, .kvRead 0, .pass confRec confRec],
    ∃ (s : State) (m : FinCmd) (b : Block), s.finHead 0 = some (9, m) ∧ m.op = op ∧ s.current m = some b := by
  intro op h
  refine ⟨finished op 1, fin0 op 1, block0, rfl, rfl, ?_⟩
  simp only [List.mem_cons, List.not_mem_nil, or_false] at h
  rcases h with rfl | rfl | rfl | rfl | rfl | rfl | rfl | rfl <;> decide +kernel

/-- A pass whose reads the region check lets through. -/
theorem wit_Finaliser_pass : ∃ (s : State) (m : FinCmd) (b : Block), s.finHead 0 = some (9, m) ∧ m.op = .pass confRec confRec ∧ s.current m = some b ∧
    (passReads m confRec confRec b).any (fun r => s.refused m.launch r 4) = false ∧
    (passReads m confRec confRec b).any (fun r => s.isBad (sramKey r) 4) = false :=
  ⟨finished (.pass confRec confRec) 1, _, _, rfl, rfl, rfl, by decide +kernel, by decide +kernel⟩

/-- A retry at the head of the queue of a block that waits, and one that stands elsewhere; a block that is open and one that is not. -/
theorem wit_Finaliser_retry : ∃ s t : State, (s.die 0).finQ = [.retry 0] ∧ (s.block 0 0).halted = some 64 ∧ (s.block 0 0).isOpen = true ∧
    (t.die 0).finQ.head? ≠ some (.retry 0) ∧ (t.block 0 0).isOpen = false :=
  ⟨{ State.reset with dies := [(0, { finQ := [.retry 0], blocks := [(0, { block0 with halted := some 64 })] })], clock := 64 }, State.reset,
    rfl, rfl, rfl, by decide, by decide⟩

/-- Two retries of a block that are due, at a queue with room for one of them. -/
theorem wit_Finaliser_retry_full : ∃ s : State, (s.block 0 0).retries = [60] ∧ (s.block 0 0).halted = some 64 ∧ s.clock = 64 ∧
    256 - (s.die 0).finQ.length - (s.die 0).finHeld = 1 :=
  ⟨{ State.reset with clock := 64, dies := [(0, { finQ := (List.range 255).map .cmd
                                                  blocks := [(0, { block0 with halted := some 64, retries := [60] })] })] },
    rfl, rfl, rfl, by decide +kernel⟩

/-- The answer of a command that parked, for a gang of a saved crew. -/
theorem wit_Finaliser_saved : ∃ (s : State) (m : FinCmd) (k w : Nat), sget s.fins 9 = some m ∧ m.place = 3 ∧
    m.op.parks = true ∧ s.savedAt m.core m.ctx = some (k, w) :=
  ⟨{ (finished .close 3) with cores := [(0, { crews := [(0, { crew0 with saved := some 0x10000 })] })] }, _, _, _, rfl, rfl, rfl, rfl⟩

/-- A pool of both classes on die 0, in the full service, and references to its last block, to the block beyond, and of another die. -/
def pools (s : State) : State :=
  { s.modDie 0 (fun d => { d with ok := true, pools := Vector.replicate 2 { nhome := 8, novf := 4, svc := 64 } }) with
    sys := { bootstat := 2, committed := 0xff } }
theorem wit_refs : (pools (one gang0)).refOk 11 = true ∧ (pools (one gang0)).refOk 12 = false ∧ (pools (one gang0)).refOk 0x100000 = false := by
  decide +kernel

/-- `kv.map` of a request at 16 for the pools of die 0; of a target die that is none; `kv.fork`, `kv.drop` and `kv.unpin`. -/
theorem wit_KvStore_requests : ∃ (s t u : State) (a b r : W), Ready s 0 0 (exForm .dest .read .read ex412) [.s a, .s b] ∧
    firstFault [(a.toNat % 16 != 0, eAlign), (!sramExists a.toNat, ePerm), (decide (24 ≤ b.toNat % 32), ePerm),
      ((s.pool (b.toNat % 32) (b.toNat / 32 % 2)).nhome == 0, eKv)] = none ∧
    Ready t 0 0 (exForm .dest .read .read ex412) [.s a, .s 24] ∧ Ready u 0 0 (exForm .dest .read .zero ex41) [.s r] ∧
    Ready u 0 0 (exForm .zero .read .zero ex1) [.s r] ∧ u.refOk r = true :=
  ⟨pools (one (gang2 16 32 0)), pools (one (gang2 16 24 0)), pools (one (gang2 11 0 0)), 16, 32, 11, ready_of (by decide +kernel),
    by decide +kernel, ready_of (by decide +kernel), ready_of (by decide +kernel), ready_of (by decide +kernel), by decide +kernel⟩

/-- `kv.st` and `kv.ld`, sound and with a reference that names no block. -/
theorem wit_KvStore_data : ∀ a ∈ [(11 : W), 12], ∃ (s : State) (b : W), Ready s 0 0 (exForm .dest .read .read ex412) [.s a, .s b] ∧
    firstFault [(b.toNat % 16 != 0, eAlign), (!sramExists b.toNat, ePerm), (!s.refOk a, eKv)] = (if a = 11 then none else some eKv) := by
  intro a ha
  refine ⟨pools (one (gang2 a 16 0)), 16, ready_of ?_, ?_⟩ <;>
    (simp only [List.mem_cons, List.not_mem_nil, or_false] at ha; rcases ha with rfl | rfl) <;> decide +kernel

/-- `kv.vqlut` and `kv.vqsc` not sent yet, and with the engine's verdict. -/
def kvCmd0 (op : KvOp) (ans : Option Nat) : KvCmd :=
  { op := op, ctx := 0, a := 11, b := 16, dst := none, pc := 0, launch := 1, asid := 3, ans := ans }
theorem wit_KvStore_parked : ∃ (s t : State) (m : KvCmd), Ready s 0 0 (exForm .zero .read .read ex12 true) [.s 0, .s 16] ∧
    ((s.core 0).kvQ.find? fun m => m.ctx == 0 && m.pc == (s.gang 0 0).pc && m.op == .vqlut) = none ∧
    Ready t 0 0 (exForm .zero .read .read ex12 true) [.s 11, .s 16] ∧
    ((t.core 0).kvQ.find? fun m => m.ctx == 0 && m.pc == (t.gang 0 0).pc && m.op == .vqsc) = some m ∧ m.ans = some 3 :=
  ⟨pools (one (gang2 0 16 0)), (pools (one (gang2 11 16 0))).modCore 0 fun k => { k with kvQ := [kvCmd0 .vqsc (some 3)] }, _,
    ready_of (by decide +kernel), rfl, ready_of (by decide +kernel), rfl, rfl⟩

/-- `kv.had` of the last four registers into the first four, all F32. -/
theorem wit_KvStore_rotate : ∃ (s : State) (v : Val), Ready s 0 0 { exForm .vdest .vread .zero { ex0 with d := 0, a := 28, ba := 1 } with
      names := [(28, 4), (0, 4)], srcs := (List.range 4).map fun i => { cls := .vt, code := 28 + i, blk := true }
      dests := (List.range 4).map fun i => 0 + i } [v, v, v, v] ∧ tagOk [1] v = true :=
  ⟨one { gang0 with v := Vector.replicate 64 { val := Lanes.splat 0x3f800000, tag := 1 } }, .v (Lanes.splat 0x3f800000) 1,
    ready_of (by decide +kernel), rfl⟩

/-- Each command at the head of the engine's queue; a `kv.st` before and after its finaliser has answered. -/
theorem wit_KvEngineCommands : ∀ op ∈ [KvOp.st, .ld, .vqlut, .vqsc], ∃ (s : State) (m : KvCmd), s.kvHead 0 = some m ∧ m.op = op ∧ m.slot = none ∧
    m.asked = none := by
  intro op _
  exact ⟨(pools (one gang0)).modCore 0 fun k => { k with kvQ := [kvCmd0 op none] }, _, rfl, rfl, rfl, rfl⟩
theorem wit_KvEngineCommands_answered : ∃ (s : State) (m : KvCmd) (ans : Option W), s.kvHead 0 = some m ∧ m.op = .st ∧ m.slot = some ans :=
  ⟨(pools (one gang0)).modCore 0 fun k => { k with kvQ := [{ kvCmd0 .st none with slot := some (some 5) }] }, _, _, rfl, rfl, rfl⟩

/-! ### Queues, packets and signals -/

/-- Queue 5 with 4 tickets and one packet, whose bytes that are not 0 are given with their offsets, in the page that `tlb0` maps. -/
def queue0 : Queue := { asid := 3, st := 1, tickets := 4, widx := 1 }
def packet (l : List (Nat × Byte)) : State :=
  { mem := l.map fun p => (hbmKey p.1, p.2)
    dies := [(0, { ok := true, dtlb := [tlb0] })], fe := { queues := [(5, queue0)] }, sys := { bootstat := 2, committed := 0xff } }

/-- The parts of `HeadReady`, computed, with the kind of the packet. -/
def headB (s : State) (q kind : Nat) : Bool :=
  (s.refresh.queue q).runs && !s.refresh.holdFull && (s.refresh.queue q).pktAddr.isSome &&
  match s.refresh.headBytes q with
  | (u, some bs) => u.pktOk bs && pktKind bs == kind && (s.refresh.pickQueue == some q || kind == 4 || kind == 6)
  | (_, none) => false

theorem head_of {s : State} {q kind : Nat} (h : headB s q kind = true) :
    ∃ u a bs, HeadReady s q u a bs ∧ pktKind bs = kind := by
  unfold headB at h
  simp only [Bool.and_eq_true] at h
  obtain ⟨⟨⟨h1, h2⟩, h3⟩, h4⟩ := h
  obtain ⟨a, ha⟩ := Option.isSome_iff_exists.mp h3
  split at h4
  · rename_i u bs hb
    simp only [Bool.and_eq_true, Bool.or_eq_true, beq_iff_eq] at h4
    exact ⟨u, a, bs, ⟨h1, by simpa using h2, ha, hb, h4.1.1, by rw [h4.1.2]; simpa [or_assoc] using h4.2⟩, h4.1.2⟩
  · simp at h4

/-- A head packet of each type and of each operation of STREAM: WAIT, INDIRECT of 65,536 packets, TIMER and the others. -/
theorem wit_Packets_heads : ∀ k ∈ [0, 1, 2, 3, 4, 5, 6, 8, 7, 23, 39, 55], ∃ (s u : State) (a : Nat) (bs : List Byte), HeadReady s 5 u a bs ∧ pktKind bs = k := by
  intro k h
  simp only [List.mem_cons, List.not_mem_nil, or_false] at h
  rcases h with rfl | rfl | rfl | rfl | rfl | rfl | rfl | rfl | rfl | rfl | rfl | rfl
  · exact ⟨packet [], head_of (by decide +kernel)⟩
  · exact ⟨packet [(0, 1)], head_of (by decide +kernel)⟩
  · exact ⟨packet [(0, 2)], head_of (by decide +kernel)⟩
  · exact ⟨packet [(0, 3)], head_of (by decide +kernel)⟩
  · exact ⟨packet [(0, 4)], head_of (by decide +kernel)⟩
  · exact ⟨packet [(0, 5), (0x22, 1)], head_of (by decide +kernel)⟩
  · exact ⟨packet [(0, 6)], head_of (by decide +kernel)⟩
  · exact ⟨packet [(0, 8)], head_of (by decide +kernel)⟩
  · exact ⟨packet [(0, 7)], head_of (by decide +kernel)⟩
  · exact ⟨packet [(0, 7), (0x18, 1)], head_of (by decide +kernel)⟩
  · exact ⟨packet [(0, 7), (0x18, 2)], head_of (by decide +kernel)⟩
  · exact ⟨packet [(0, 7), (0x18, 3)], head_of (by decide +kernel)⟩

/-- A packet of type 9, and one in a space without a root. -/
def headBad (s : State) : Option Bool :=
  match s.refresh.headBytes 5 with
  | (u, some bs) => some (u.pktOk bs)
  | (_, none) => none
theorem wit_Packets_bad : ∀ s ∈ [packet [(0, 9)], { packet [] with dies := [] }], (s.refresh.queue 5).runs = true ∧ s.refresh.holdFull = false ∧
    (s.refresh.queue 5).pktAddr = some 0 ∧ s.refresh.pickQueue = some 5 ∧ headBad s ≠ some true := by decide +kernel

/-- A FENCE behind a packet that has not completed. -/
theorem wit_Packets_order : ∃ (s : State) (bs : List Byte), (s.headBytes 5).2 = some bs ∧ s.pktOk bs = true ∧ (pktOrder bs = true ∨ bytesNat bs 0 1 = 8) ∧
    (s.queue 5).chain = [] ∧ (s.queue 5).outst ≠ [] := by
  let s := (packet [(0, 8)]).modQueue 5 fun x => { x with outst := [{ num := 0 }] }
  have h : (match (s.headBytes 5).2 with
    | some bs => s.pktOk bs && bytesNat bs 0 1 == 8
    | none => false) = true := by decide +kernel
  split at h
  · rename_i bs hb
    simp only [Bool.and_eq_true, beq_iff_eq] at h
    exact ⟨s, bs, hb, h.1, .inr h.2, rfl, by decide⟩
  · simp at h

/-- A WAIT and a TIMER that hold the queue, free to start. -/
def held (bs : List Byte) : State := (packet []).modQueue 5 fun x => { x with head := some bs }
theorem wit_Packets_held : ∀ ty ∈ [(4 : Byte), 6], ∃ (s : State) (bs : List Byte), (s.queue 5).head = some bs ∧ s.headFree 5 bs = true ∧
    bytesNat bs 0 1 = ty.toNat := by
  intro ty h
  simp only [List.mem_cons, List.not_mem_nil, or_false] at h
  rcases h with rfl | rfl
  · exact ⟨held (4 :: List.replicate 63 0), _, rfl, by decide +kernel, rfl⟩
  · exact ⟨held (6 :: List.replicate 63 0), _, rfl, by decide +kernel, rfl⟩

/-- A COPY job of 8 bytes, whose pages pass; and one of a space without a root. -/
def job0 (asid : Byte) : CopyJob := { queue := 5, num := 0, src := 0, dst := 64, len := 8, asid := asid, pkt := 0, sig := none }
def jobs (asid : Byte) : State := { packet [] with fe := { queues := [(5, queue0)], copies := [(9, job0 asid)] } }
theorem wit_Packets_copy : ∃ (s t : State) (i j : CopyJob) (src : List (Nat × Nat)) , sget s.fe.copies 9 = some j ∧ (s.queue 5).st = 1 ∧ s.holdFull = false ∧
    (s.feRuns j.asid .load (j.len / 65536 + 2) j.src j.len).2 = some src ∧
    ((s.feRuns j.asid .load (j.len / 65536 + 2) j.src j.len).1.feRuns j.asid .store (j.len / 65536 + 2) j.dst j.len).2 = some [(hbmKey 64, 8)] ∧
    sget t.fe.copies 9 = some i ∧ (t.feRuns i.asid .load (i.len / 65536 + 2) i.src i.len).2 = none :=
  ⟨jobs 3, jobs 4, job0 4, job0 3, [(hbmKey 0, 8)], rfl, rfl, rfl, by decide +kernel, by decide +kernel, rfl, by decide +kernel⟩

theorem wit_Packets_takeover : ∃ s : State, s.fe.failover = true := ⟨{ fe := { failover := true } }, rfl⟩

/-- A doorbell at the end of the ring of queue 255 and one beyond it; each value of STATE and TICKETS at its limit. -/
theorem wit_QueueRegisters_doorbell : ∃ s : State, 255 < 256 ∧ ((2 : W) - (s.refresh.queue 255).ridx).toNat ≤ 2 ^ (s.refresh.queue 255).log2size ∧
    2 ^ (s.refresh.queue 255).log2size < ((3 : W) - (s.refresh.queue 255).ridx).toNat ∧ 3 ≤ (3 : W).toNat ∧ (65535 : W).toNat < 65536 ∧
    65536 ≤ (65536 : W).toNat := ⟨State.reset, by decide +kernel⟩

theorem wit_QueueRegisters_start : ∃ (s : State) (q : Nat), (s.queue q).chain = [] := ⟨packet [], 5, rfl⟩

/-- A signal whose page passes and that asks for no interrupt. -/
def sig0 : Sig := { va := 64, asid := 3, op := 2, val := 1, queue := 5, pkt := 0 }
theorem wit_QueueRegisters_signal : ∃ (s u : State) (e : TlbEntry), s.lookupDie 0 sig0.asid sig0.va .store = (u, .ok e) ∧
    u.isBad (e.key sig0.va) 32 = false ∧ u.load (e.key sig0.va + 0x14) 1 = 0 :=
  ⟨packet [], packet [], tlb0, by
    rw [State.lookupDie]
    have : tlbFind ((packet []).die 0).dtlb sig0.asid sig0.va = some tlb0 := by decide +kernel
    rw [this]
    show (match leafTest tlb0.leaf .store 0 with
      | some f => (packet [], Except.error f)
      | none => (packet [], .ok tlb0)) = _
    have : leafTest tlb0.leaf .store 0 = none := by decide +kernel
    rw [this], by decide +kernel, by decide +kernel⟩

/-! ### Launches and streams -/

/-- A LAUNCH of one gang of 8 registers on core 0, its descriptor at 0x100; the same with a SRAM that is no multiple of 64 KiB. -/
def launchPkt (bad : List (Nat × Byte)) : List (Nat × Byte) :=
  [(0, 1), (0x19, 1), (0x20, 1), (0x23, 1), (0x25, 1), (0x38, 3), (0x100, 1), (0x102, 0x4b), (0x103, 0x5a), (0x104, 64), (0x110, 1), (0x111, 8)] ++ bad

/-- Whether the head of queue 5 is a LAUNCH, and what its selection reads gives an error or a request that admission takes. -/
def launchB (s : State) (ok : Bool) : Bool :=
  match s.refresh.headBytes 5 with
  | (u, some bs) =>
    match u.readLaunch 5 ((s.refresh.queue 5).pktAddr.getD 0) bs with
    | (v, .ok r) =>
      let w : Waiting := { queue := 5, since := v.clock, req := r }
      ok && decide ((waits v 5 bs w).admissible = some w)
    | (_, .error e) => !ok && e == 5
  | (_, none) => false

theorem wit_Launches_selection : headB (packet (launchPkt [])) 5 1 = true ∧ launchB (packet (launchPkt [])) true = true ∧
    headB (packet (launchPkt [(0x114, 1)])) 5 1 = true ∧ launchB (packet (launchPkt [(0x114, 1)])) false = true := by
  refine ⟨?_, ?_, ?_, ?_⟩ <;> decide +kernel

/-- From these, the hypotheses of the clauses of `Admission` on selection. -/
theorem wit_Launches_admitted : ∃ (s u v : State) (a : Nat) (bs : List Byte) (r : LaunchReq), HeadReady s 5 u a bs ∧ pktKind bs = 1 ∧
    u.readLaunch 5 a bs = (v, .ok r) ∧ (waits v 5 bs { queue := 5, since := v.clock, req := r }).admissible = some { queue := 5, since := v.clock, req := r } := by
  obtain ⟨u, a, bs, h, k⟩ := head_of wit_Launches_selection.1
  have l := wit_Launches_selection.2.1
  unfold launchB at l
  rw [h.read, h.addr] at l
  simp only [Option.getD_some] at l
  split at l
  · rename_i v r e
    exact ⟨_, u, v, a, bs, r, h, k, e, by simpa using l⟩
  · simp at l

theorem wit_Launches_refused : ∃ (s u v : State) (a : Nat) (bs : List Byte) (e : Nat), HeadReady s 5 u a bs ∧ pktKind bs = 1 ∧
    u.readLaunch 5 a bs = (v, .error e) := by
  obtain ⟨u, a, bs, h, k⟩ := head_of wit_Launches_selection.2.2.1
  have l := wit_Launches_selection.2.2.2
  unfold launchB at l
  rw [h.read, h.addr] at l
  simp only [Option.getD_some] at l
  split at l
  · simp at l
  · rename_i v e he
    exact ⟨_, u, v, a, bs, e, h, k, he⟩

/-- A launch that waits, of 16 gangs of 64 registers, all of the core, and what admission asks of the image. -/
def req0 : LaunchReq :=
  { asid := 3, entry := 64, gangs := 16, vregs := 64, sram := 65536, simg := 0, simglen := 64, recs := [], shares := [], wins := [], targets := [1535]
    phases := 0, nphase := 0, pkt := 0, sig := none }
def wait0 : Waiting := { queue := 5, since := 0, req := req0 }
def waiting0 : State := { packet [] with fe := { queues := [(5, queue0)], waiting := [wait0] } }
theorem wit_Launches_admission : ∃ (s : State) (w : Waiting) (src : List (Nat × Nat)), s.admissible = some w ∧
    (s.refresh.feRuns w.req.asid .load (w.req.simglen / 65536 + 2) w.req.simg w.req.simglen).2 = some src ∧ 4 ≠ w.queue :=
  ⟨waiting0, wait0, [(hbmKey 0, 64)], by decide +kernel, by decide +kernel, by decide⟩

/-- A launch whose image has no page. -/
theorem wit_Launches_admission_fails : ∃ (s : State) (w : Waiting), s.admissible = some w ∧ w.stream = none ∧
    (s.refresh.feRuns w.req.asid .load (w.req.simglen / 65536 + 2) w.req.simg w.req.simglen).2 = none :=
  ⟨{ waiting0 with dies := [(0, { ok := true })] }, wait0, by decide +kernel, rfl, by decide +kernel⟩

/-- A launch that is over, of a packet and of a stream. -/
def live0 (stream : Option Nat) : Launch :=
  { stamp := 5, asid := 3, queue := 5, sig := none, cores := [0], kiosk := 0, nphase := 0, phases := 0, stream := stream }
theorem wit_Launches_ends : ∀ st ∈ [none, some 16383], ∃ s : State, sget s.fe.launches 255 = some (live0 st) ∧
    (s.sweepLaunch 255 (live0 st)).launchOver 255 (live0 st) = true ∧
    (s.sweepLaunch 255 (live0 st)).holdShort ((s.sweepLaunch 255 (live0 st)).endsWith 255 (live0 st)) = false := by
  intro st h
  refine ⟨{ packet [] with fe := { queues := [(5, queue0)], launches := [(255, live0 st)] } }, rfl, ?_⟩
  simp only [List.mem_cons, List.not_mem_nil, or_false] at h
  rcases h with rfl | rfl <;> decide +kernel

/-- One that is not: a crew of it is still there. -/
theorem wit_Launches_lives : ∃ (s : State) (l : Launch), sget s.fe.launches 1 = some l ∧ (s.sweepLaunch 1 l).launchOver 1 l = false :=
  ⟨{ one gang0 with fe := { launches := [(1, { live0 none with stamp := 0x050000 })] } }, _, rfl, by decide +kernel⟩

/-- A stream context in each state: due, idle, evicting, restoring and copying. -/
def stream0 : Stream :=
  { st := .active, tmpl := 0, pinAddr := 0, pinLen := 64, silentMax := 1, queue := 5, slot := 0, kvseq := 0, period := 10000, next := 5, asid := 3 }
def streaming (t : Stream) : State := { packet [] with fe := { queues := [(5, queue0)], streams := [(16383, t)] }, time := { now := 40 } }
theorem wit_Streams_due : ∀ t ∈ [stream0, { stream0 with act := true }, { stream0 with st := .restoring }, { stream0 with st := .evicted }],
    (streaming t).stream? 16383 = some t ∧ t.next ≤ (streaming t).ns ∧ (streaming t).fe.failover = false := by decide +kernel
theorem wit_Streams_early : ∃ t : Stream, (streaming t).stream? 16383 = some t ∧ (streaming t).ns < t.next :=
  ⟨{ stream0 with next := 11 }, rfl, by decide +kernel⟩
theorem wit_Streams_copies : ∃ t u v : Stream, t.evict = true ∧ u.st = .restoring ∧ u.copying = false ∧ v.copying = true ∧
    (streaming t).stream? 16383 = some t ∧ (streaming u).stream? 16383 = some u ∧ (streaming v).stream? 16383 = some v :=
  ⟨{ stream0 with evict := true }, { stream0 with st := .restoring }, { stream0 with st := .restoring, copying := true }, rfl, rfl, rfl, rfl, rfl, rfl, rfl⟩
/-- A due time that came in a take-over; and a context whose CLOSE waits for the launch in flight. -/
theorem wit_Streams_held : ∃ (s : State) (t u : Stream), s.stream? 16383 = some t ∧ t.next ≤ s.ns ∧ s.fe.failover = true ∧ t.closing = none ∧
    (streaming u).stream? 16383 = some u ∧ u.closing.isSome = true :=
  ⟨{ streaming stream0 with fe := { (streaming stream0).fe with failover := true } }, stream0,
    { stream0 with flight := some 0, closing := some { queue := 5, num := 0, pkt := 0, status := 0, asid := 3, sig := none } }, rfl,
    by decide +kernel, rfl, rfl, rfl, rfl⟩
/-- A launch that is over, for whose completion and that of the CLOSE which waits for it the hold queue has no room. -/
def crowded : State :=
  { streaming { stream0 with flight := some 0, closing := some { queue := 5, num := 0, pkt := 0, status := 0, asid := 3, sig := none } } with
    fe := { (streaming { stream0 with flight := some 0, closing := some { queue := 5, num := 0, pkt := 0, status := 0, asid := 3, sig := none } }).fe with
      launches := [(0, live0 (some 16383))], failover := true, held := List.replicate 4095 none } }
theorem wit_Launches_crowded : ∃ (s : State) (l : Launch), sget s.fe.launches 0 = some l ∧ (s.sweepLaunch 0 l).launchOver 0 l = true ∧
    (s.sweepLaunch 0 l).holdShort ((s.sweepLaunch 0 l).endsWith 0 l) = true :=
  ⟨crowded, live0 (some 16383), rfl, by decide +kernel, by decide +kernel⟩

theorem wit_Streams_times : ∃ next period now : Nat, 0 < period ∧ next ≤ now := ⟨5, 10000, 5, by decide, by decide⟩

/-- A TOUCH register write of the last context and of the number beyond; a context that is FREE. -/
theorem wit_Streams_touch : 16384 ≤ (0x4000 : W).toNat ∧ (0x3fff : W).toNat < 16384 ∧ State.reset.stream? 0 = none := by decide

/-- A head of each STREAM operation, for a context in use that no CLOSE waits for; a descriptor that is good and fits, one that is
bad, and one with no budget left. -/
theorem wit_Streams_packets : ∀ op ∈ [0, 1, 2, 3], ∃ (s u : State) (a : Nat) (bs : List Byte), HeadReady s 5 u a bs ∧ pktKind bs = 7 + 16 * op := by
  intro op h
  simp only [List.mem_cons, List.not_mem_nil, or_false] at h
  rcases h with rfl | rfl | rfl | rfl
  · exact wit_Packets_heads 7 (by decide)
  · exact wit_Packets_heads 23 (by decide)
  · exact wit_Packets_heads 39 (by decide)
  · exact wit_Packets_heads 55 (by decide)

/-- A CLOSE of a context that no CLOSE waits for, active and evicted. -/
def closed (st : StreamSt) : State :=
  { packet [(0, 7), (0x18, 3)] with fe := { queues := [(5, queue0)], streams := [(0, { stream0 with st := st })] } }
theorem wit_Streams_close : ∀ st ∈ [StreamSt.active, .evicted], ∃ (s u : State) (a : Nat) (bs : List Byte) (x : Stream), HeadReady s 5 u a bs ∧
    pktKind bs = 55 ∧ (u.startHead 5 none none).stream? (bytesNat bs 0x1c 4) = some x ∧ x.closing = none ∧ x.st = st := by
  intro st h
  have h1 : headB (closed st) 5 55 = true := by
    simp only [List.mem_cons, List.not_mem_nil, or_false] at h; rcases h with rfl | rfl <;> decide +kernel
  have h2 : (match (closed st).refresh.headBytes 5 with
      | (u, some bs) => decide ((u.startHead 5 none none).stream? (bytesNat bs 0x1c 4) = some { stream0 with st := st })
      | (_, none) => false) = true := by
    simp only [List.mem_cons, List.not_mem_nil, or_false] at h; rcases h with rfl | rfl <;> decide +kernel
  obtain ⟨u, a, bs, r, k⟩ := head_of h1
  rw [r.read] at h2
  exact ⟨_, u, a, bs, _, r, k, of_decide_eq_true h2, rfl, rfl⟩

def desc0 (n silent : Byte) : List Byte :=
  List.replicate 12 0 ++ [n, 0, silent, 5] ++ List.replicate 8 0 ++ [0x10, 0x27, 0, 0] ++ List.replicate 36 0
theorem wit_Streams_open : ∃ (s t : State) (x : Stream), streamDesc (desc0 64 15) 5 3 = some x ∧ streamDesc (desc0 65 15) 5 3 = none ∧
    s.pinUsed + x.pinSize ≤ s.fe.pinBudget ∧ (s.fe.streams.any fun p => p.2.pins && rangesMeet x.pinAddr x.pinSize p.2.pinAddr p.2.pinSize) = false ∧
    s.pinWithheld x.pinAddr x.pinSize = true ∧ t.fe.pinBudget < t.pinUsed + x.pinSize :=
  ⟨{ fe := { pinBudget := 65536, withheld := [(0, 1)] } }, State.reset, { stream0 with silentMax := 15 }, by decide +kernel, by decide +kernel, by decide +kernel,
    by decide +kernel, by decide +kernel, by decide +kernel⟩

/-! ### Crew commands -/

/-- A crew command on core 0, for the crews and the gangs that the bits name. -/
def ccmd (crews : BitVec 8) (gangs : BitVec 16) (addr : BitVec 64) : CCmd :=
  { crews := crews, core := 0, gangs := gangs, addr := addr, tag := 7, done := 0x1000, resv := false }

/-- `one` with the gang halted by a fault of this code; with two crews; and with no gang halted. -/
def haltedOn (code : Byte) : Gang := { gang0 with halt := some { code := code }, active := 3 }
def two : State := { one gang0 with cores := [(0, { gangs := [(0, gang0)], crews := [(0, crew0), (1, crew0)] })] }

theorem wit_CrewCommands_bad : ∃ (s : State) (t u : CCmd), s.ccmdBad t = true ∧ s.ccmdBad u = false ∧ bit u.addr 0 = true :=
  ⟨one gang0, ccmd 2 1 0, ccmd 1 1 1, by decide +kernel, by decide +kernel, by decide +kernel⟩

theorem wit_CrewCommands_two : ∃ (s : State) (t : CCmd), s.ccmdBad t = false ∧ t.addr.toNat < 2 ^ 48 ∧ bit t.addr 0 = false ∧
    2 ≤ (cmdSlots t).length := ⟨two, ccmd 3 1 0, by decide +kernel, by decide +kernel, by decide +kernel, by decide +kernel⟩

theorem wit_CrewCommands_none : ∃ (s : State) (t u : CCmd), s.ccmdBad t = false ∧ s.ccmdBad u = false ∧ cmdSlots t = [0] ∧ cmdSlots u = [0] ∧
    t.gangs = 0xffff ∧ (∀ g < 16, ¬ ∃ r, (s.gang? 0 (0 * 16 + g)).bind (·.halt) = some r) ∧
    u.gangs ≠ 0xffff ∧ bit u.gangs 0 = true ∧ ¬ ∃ r, (s.gang? 0 0).bind (·.halt) = some r := by
  have h : ∀ g < 16, ((one gang0).gang? 0 (0 * 16 + g)).bind (·.halt) = none := by decide +kernel
  exact ⟨one gang0, ccmd 1 0xffff 0, ccmd 1 1 0, by decide +kernel, by decide +kernel, by decide +kernel, by decide +kernel, rfl,
    fun g hg => by rw [h g hg]; simp, by decide, by decide, by have := h 0 (by decide); simp only [Nat.zero_mul, Nat.add_zero] at this; rw [this]; simp⟩

/-- Commands of no crew; and a SAVE of a crew whose one gang has ended. -/
theorem wit_CrewCommands_empty : ∃ (s t : State) (u b : CCmd), s.ccmdBad u = false ∧ saveBaseOk u.addr = true ∧ cmdSlots u = [] ∧
    (t.ccmdBad b || !saveBaseOk b.addr) = false ∧ cmdSlots b = [0] ∧ (t.crew 0 0).allEnded = true :=
  ⟨one gang0, { one gang0 with cores := [(0, { gangs := [(0, gang0)], crews := [(0, { crew0 with ended := 3 })] })] }, ccmd 0 1 0x10000,
    ccmd 1 0 0x10000, by decide +kernel, by decide +kernel, by decide +kernel, by decide +kernel, by decide +kernel, by decide +kernel⟩

theorem wit_CrewCommands_halted : ∃ (s : State) (t u : CCmd) (r : Rec), s.ccmdBad t = false ∧ s.ccmdBad u = false ∧ cmdSlots t = [0] ∧
    cmdSlots u = [0] ∧ t.gangs = 0xffff ∧ u.gangs ≠ 0xffff ∧ bit u.gangs 0 = true ∧
    (∀ g < 16, bit u.gangs g = true → g = 0) ∧ (s.gang? 0 0).bind (·.halt) = some r :=
  ⟨one (haltedOn 0x10), ccmd 1 0xffff 0, ccmd 1 1 0, _, by decide +kernel, by decide +kernel, by decide +kernel, by decide +kernel, rfl,
    by decide, by decide, by decide +kernel, rfl⟩

theorem wit_CrewCommands_returns : ∃ (g h : Gang) (r q : Rec), g.halt = some r ∧ r.code = 0x10 ∧ h.halt = some q ∧ q.code = 3 :=
  ⟨haltedOn 0x10, haltedOn 3, _, _, rfl, rfl, rfl, rfl⟩

/-- SAVE and RESTORE of crew 0 at 64 KiB. -/
def area0 : CCmd := ccmd 1 0 0x10000
theorem wit_CrewCommands_save : ∃ (s t : State) (b : CCmd), (s.ccmdBad b || !saveBaseOk b.addr) = true ∧
    (s.ccmdBad area0 || !saveBaseOk area0.addr) = false ∧ cmdSlots area0 = [0] ∧ (s.crew 0 0).allEnded = false ∧ (s.crew 0 0).saved = none ∧
    (s.crew 0 0).saving = none ∧ (t.ccmdBad area0 || !saveBaseOk area0.addr) = false ∧ (t.crew 0 0).allEnded = false ∧ (t.crew 0 0).saving ≠ none :=
  ⟨one gang0, { one gang0 with cores := [(0, { gangs := [(0, gang0)], crews := [(0, { crew0 with saving := some { base := 0x10000, die := 0 } })] })] },
    ccmd 1 0 0x8000, by decide +kernel, by decide +kernel, by decide +kernel, by decide +kernel, by decide +kernel, by decide +kernel,
    by decide +kernel, by decide +kernel, by decide +kernel⟩

/-- An area at 64 KiB: the entry of gang 0 with 8 registers, one group and a 5 in PTILE, and the part of its crew, with its launch. -/
def areaMem : List Host.Cell :=
  ([(0, 0x31), (1, 0x47), (2, 0x53), (3, 0x5a), (5, 0xff), (6, 8), (7, 5), (14, 0x80), (15, 0x3f)] ++
    [16, 17, 18, 19, 35, 64].map (fun o => ((o, 0xff) : Nat × Nat)) ++ [(67, 0x7f), (68, 0x7f)] ++
    [135, 199, 263, 327, 391, 455, 519, 583].map (fun o => (o, 1)) ++ [2176, 2177, 2178, 2179].map (fun o => (o, 0xff)) ++
    [(0x30000, 0x31), (0x30001, 0x43), (0x30002, 0x53), (0x30003, 0x5a), (0x30004, 1), (0x30008, 1), (0x3000b, 5)]).map
      fun (p : Nat × Nat) => (2 ^ 64 + 0x10000 + p.1, BitVec.ofNat 8 p.2)
def saved1 (m : List Host.Cell) : State :=
  { mem := m, cores := [(0, { crews := [(0, { crew0 with saved := some 0x10000, kept := [(0, {})] })] })] }

theorem wit_CrewCommands_restore : ((saved1 areaMem).ccmdBad area0 || !saveBaseOk area0.addr) = false ∧ ((saved1 areaMem).crew 0 0).saved.isSome = true ∧
    (saved1 areaMem).areaOk 0 0 0x10000 = true := by refine ⟨?_, ?_, ?_⟩ <;> decide +kernel

theorem wit_CrewCommands_badArea : ((saved1 []).ccmdBad area0 || !saveBaseOk area0.addr) = false ∧ ((saved1 []).crew 0 0).saved.isSome = true ∧
    (saved1 []).areaOk 0 0 0x10000 = false := by refine ⟨?_, ?_, ?_⟩ <;> decide +kernel

theorem wit_IllegalWords : ∃ s : State, s.cur = some (0, 0) := ⟨one gang0, rfl⟩

/-! ### Start-up, time, the host's window, control blocks -/

theorem wit_StartsUp_stages : ∃ s0 s1 s3 : State, s0.sys.bootstat = 0 ∧ s1.sys.bootstat = 1 ∧ s1.sys.image ≠ none ∧ s3.sys.bootstat = 3 ∧
    bit (0 : BitVec 24) 0 = false ∧ bit (1 : BitVec 24) 0 = true :=
  ⟨State.reset, { State.reset with sys := { bootstat := 1, image := some (0, 0) } }, { State.reset with sys := { bootstat := 3 } },
    rfl, rfl, by decide, rfl, by decide, by decide⟩

/-- The host's window on the page that `tlb0` maps, with these bits accepted. -/
def window (acc : BitVec 128) (bs : Nat) : State :=
  { packet [] with sys := { bootstat := bs, committed := acc, featOff := acc, apasid := 3 } }

theorem wit_StartsUp_bootload : ((window 0 3).feRead 3 0 16).2 = some (List.replicate 16 0) ∧ (State.reset.feRead 3 0 16).2 = none := by
  refine ⟨?_, ?_⟩ <;> decide +kernel

theorem wit_StartsUp_features : ∃ s t u v : State, (∃ q ∈ s.fe.queues, q.2.st ≠ 0) ∧ t.sys.featAcc &&& ~~~t.sys.featOff ≠ 0 ∧
    (bit u.sys.featOff 0 = true ∧ bit u.sys.featAcc 0 = false) ∧
    ¬ ((∃ q ∈ v.fe.queues, q.2.st ≠ 0) ∨ v.sys.featAcc &&& ~~~v.sys.featOff ≠ 0 ∨ (bit v.sys.featOff 0 = true ∧ bit v.sys.featAcc 0 = false)) :=
  ⟨packet [], { State.reset with sys := { featAcc := 2 } }, { State.reset with sys := { featOff := 0x401 } },
    { State.reset with sys := { featOff := 0x7fe, featAcc := 0x7fe } },
    ⟨_, List.mem_cons_self, by decide⟩, by decide, by decide, by simp [State.reset]⟩

theorem wit_StartsUp_attest : ∃ s t u : State, bit s.sys.committed 10 = false ∧ bit t.sys.committed 10 = true ∧ t.sys.attBusy = none ∧
    u.sys.attBusy = some 5 ∧ u.sys.image = some (3, 4) :=
  ⟨State.reset, window 0x400 1, { window 0x400 1 with sys := { attBusy := some 5, image := some (3, 4) } }, by decide, by decide, rfl, rfl, rfl⟩

/-- The source that the accepted bits choose is followed, and it is not. -/
theorem wit_StartsUp_source : ∃ s t : State, s.time.source = (if bit s.sys.featAcc 7 then some TimeSrc.ptm else none) ∧
    t.time.source ≠ (if bit t.sys.featAcc 7 then some TimeSrc.ptm else none) :=
  ⟨State.reset, { State.reset with time := { source := some .ptp } }, by decide, by decide⟩

theorem wit_TimeAndHost_time : ∃ s t : State, s.chosenSource ≠ some .ptm ∧ t.chosenSource = some .ptm ∧ TimeSrc.ptm ∉ t.time.lockedOnce ∧
    ({ t with time := { t.time with lockedOnce := [.ptm], source := some .ptm } } : State).chosenSource = some .ptm :=
  ⟨State.reset, packet [], by decide, by decide, by decide, by decide⟩

theorem wit_TimeAndHost_window : ((window 2 2).feRead (window 2 2).sys.apasid 0 4).2 = some [0, 0, 0, 0] ∧ (State.reset.feRead 0 0 4).2 = none ∧
    ((window 2 2).feRuns 3 .store 2 0 4).2 = some [(2 ^ 64, 4)] ∧ (State.reset.feRuns 0 .store 2 0 4).2 = none := by
  refine ⟨?_, ?_, ?_, ?_⟩ <;> decide +kernel

theorem wit_ControlBlocks_registers : ∃ x y z : Queue, x.st = 1 ∧ y.st ≠ 1 ∧ z.st = 0 ∧ (1 : W).toNat ≤ 16 ∧ 16 < (17 : W).toNat ∧
    QField.ridx ≠ .asid ∧ ringExists (.place 1535 3) = true ∧ ringExists (.plaza 23) = true ∧ (2048 : Nat) % 2048 = 0 ∧ hbmUsable 2048 = true :=
  ⟨queue0, {}, {}, rfl, by decide, rfl, by decide, by decide, by decide, by decide, by decide, rfl, by decide⟩

/-- The read of DIEMAP, of the descriptor of queue 255, and of an address that the spec does not give; a masked vector and one that is not. -/
theorem wit_ControlBlocks_bars : barReg 0x20 = some .dieMap ∧ barReg 0x2ff010 = some (.queueDesc 255 4) ∧ barReg 0x400000 = none ∧
    0x2ff010 % 4 = 0 ∧ (State.reset.vector 2047).masked = true ∧
    (({ State.reset with sys := { msix := [(5, { addr := 64, data := 1, masked := false })] } } : State).vector 5).masked = false := by
  decide +kernel

/-- A doorbell of queue 5 through BAR0, one of 8 bytes, and a read of the word. -/
theorem test_barAccess : ((barAccess 0x205010 4 .bootstat (some 2) (packet [])).queue 5).widx = 2 ∧
    ((barAccess 0x205010 8 .bootstat (some 2) (packet [])).queue 5).widx = 1 ∧
    (barAccess 0x205008 4 .bootstat none (packet [])).sys.barRead = some 0x01030001 := by decide +kernel

/-- The last SRAM byte, HBM byte 0, and one beyond the usable HBM of a die. -/
theorem wit_ControlBlocks_scrub : keyDie (24 * 2 ^ 27 - 1) = some 23 ∧ keyDie (2 ^ 64) = some 0 ∧ keyDie (2 ^ 64 + 48 * 2 ^ 30) = none := by decide +kernel

/-- No ring of records; one at 2 KiB, and one whose place is not usable, whatever the ring's size. -/
def telemetry (base : Nat) : State := { dies := [(0, { ok := true, telBase := base })] }
theorem wit_ControlBlocks_telemetry : (telemetry 0).dieUp 0 = true ∧ ((telemetry 0).die 0).telBase = 0 ∧ (telemetry 2048).dieUp 0 = true ∧
    ((telemetry 2048).die 0).telBase = 2048 ∧
    hbmUsable (((telemetry 2048).die 0).telBase + 32 * (((telemetry 2048).die 0).telIdx % (Config.telemetrySize + 1)) + 31) = true ∧
    hbmUsable (((telemetry (2 ^ 46)).die 0).telBase + 32 * (((telemetry (2 ^ 46)).die 0).telIdx % (Config.telemetrySize + 1)) + 31) = false := by
  refine ⟨by decide +kernel, rfl, by decide +kernel, rfl, ?_, ?_⟩
  · rw [show ((telemetry 2048).die 0).telIdx = 0 from rfl, Nat.zero_mod]; decide +kernel
  · rw [show ((telemetry (2 ^ 46)).die 0).telIdx = 0 from rfl, Nat.zero_mod]; decide +kernel

/-- A report and none. -/
theorem wit_StartsUp_report : ∃ (s t : State) (r : Report), s.sys.attRep = some r ∧ t.sys.attRep = none :=
  ⟨{ State.reset with sys := { attRep := some { digest := 0, svn := 0, off := 0, acc := 0, diemap := 0, nonce := 0, sig := [] } } }, State.reset, _, rfl, rfl⟩

/-- A hart whose x5 holds `a`, running, and parked there. -/
def hartAt (a : BitVec 64) (p : Option (Nat × Zw)) : State :=
  State.reset.setHart 0 { ({} : Hart).setReg 5 a with parked := p }
theorem wit_ControlBlocks_zwait : (∃ s : State, (s.hart s.curHart).parked = none ∧ (s.hart s.curHart).trap = none ∧
      ((s.hart s.curHart).reg 5).toNat % 8 ≠ 0) ∧
    (∃ s : State, (s.hart s.curHart).parked = none ∧ (s.hart s.curHart).trap = none ∧ ((s.hart s.curHart).reg 5).toNat % 8 = 0 ∧
      hbmUsable ((s.hart s.curHart).reg 5).toNat = true) ∧
    (∃ s : State, (s.hart s.curHart).trap ≠ none) ∧
    ∃ (s : State) (f : Zw), (s.hart 0).parked = some (8, f) :=
  ⟨⟨hartAt 4 none, by decide +kernel⟩, ⟨hartAt 8 none, by decide +kernel⟩,
    ⟨State.reset.setHart 0 { trap := some (4, 4) }, by decide +kernel⟩, hartAt 8 (some (8, { rd := 5, rs1 := 5, rs2 := 6 })), _, rfl⟩

/-! ### The machine as a whole -/

theorem wit_StorageHolds_memory : Memory.wf [(0, 1), (5, 2)] = true ∧ Memory.wf [] = true ∧ (∀ k, memRead [] k = memRead [] k) :=
  ⟨by decide +kernel, by decide +kernel, fun _ => rfl⟩

/-- A register of a gang's own, and one place of share storage that two gangs of a crew bind, as v8 and as v16. -/
def sharing : State := { cores := [(0, { gangs := [(0, { gang0 with binds := [{ id := 3, first := 8, count := 1 }] }), (1, { gang0 with binds := [{ id := 3, first := 16, count := 1 }] })], crews := [(0, { crew0 with shares := [(3, { regs := [{}], bound := 2 })] })] })] }
theorem wit_StorageHolds_registers : (sharing.gang? 0 0).isSome = true ∧ (sharing.gang 0 0).bind? 63 = none ∧ (0 : Nat) / 16 = 1 / 16 ∧
    (sharing.gang 0 0).bind? 8 = some { id := 3, first := 8, count := 1 } ∧ (sharing.gang 0 1).bind? 16 = some { id := 3, first := 16, count := 1 } ∧
    (sharing.crew? 0 (0 / 16)).isSome = true ∧ sget (sharing.crew 0 (0 / 16)).shares 3 = some { regs := [{}], bound := 2 } := by
  refine ⟨?_, ?_, rfl, ?_, ?_, ?_, ?_⟩ <;> decide +kernel

/-- `aadd`-like words: illegal (d = 16 names no a register), and one with a fallback bit. -/
theorem wit_ChecksInOrder_illegal : ∃ p ∈ formed, ∃ (f : T3) (s : State), s.issuer = some (0, 0) ∧ (p.2 f).legal = false :=
  ⟨_, List.mem_append_left _ (List.mem_append_left _ (List.mem_append_left _ (List.mem_append_left _ (List.mem_append_left _
    (List.mem_append_left _ (List.mem_map.mpr ⟨_, .head _, rfl⟩)))))), { d := 0, w := 0, a := 124, ba := 1, b := 0, bb := 0 }, one gang0, by decide +kernel, by decide +kernel⟩

/-- `vadd.i32` of v62, v63 and v0 to v1 in a gang of 8 registers: its first source is outside the allotment. -/
def f62 : T3 := { d := 1, w := 0, a := 62, ba := 1, b := 63, bb := 1 }
theorem wit_ChecksInOrder_names : ∃ s : State, s.issuer = some (0, 0) ∧ (t3Form .v .any .any f62).legal = true ∧
    (t3Form .v .any .any f62).names = [] ++ (62, 1) :: [(63, 1), (1, 1)] ∧ (s.gang 0 0).valloc < 62 + 1 :=
  ⟨one { valloc := 8 }, by decide +kernel, by decide +kernel, by decide +kernel, by decide +kernel⟩

/-- A form for a whole gang (an affine destination), in a part of it. -/
def fAff : T3 := { d := 15, w := 0, a := 65, ba := 1, b := 66, bb := 1 }
theorem wit_ChecksInOrder_part : ∃ s : State, s.issuer = some (0, 0) ∧ (t3Form .a .u .u fAff).legal = true ∧
    (∀ q ∈ (t3Form .a .u .u fAff).names, q.1 + q.2 ≤ (s.gang 0 0).valloc) ∧ (t3Form .a .u .u fAff).wide = true ∧
    (s.gang 0 0).active ≠ (s.gang 0 0).live :=
  ⟨one { gang0 with active := 1 }, by decide +kernel, by decide +kernel, by decide +kernel, rfl, by decide +kernel⟩

/-- Sources: v16 good, then v17 empty (E_EMPTY), poisoned, or empty with a producer (parked); a destination with a producer. -/
def setV (n : Nat) (r : VReg) : State := one { gang0 with v := vput gang0.v n r }
def f1617 : T3 := { d := 40, w := 0, a := 16, ba := 1, b := 17, bb := 1 }
theorem wit_ChecksInOrder_sources : ∀ r ∈ [({ fe := .empty } : VReg), { fe := .poisoned 1 }, { fe := .empty, busy := true }],
    ∃ (s : State) (e : Stop), s.issuer = some (0, 0) ∧ s.vreg 0 0 17 = r ∧
    (t3Form .v .any .any f1617).srcs = [{ cls := .any, code := 16, blk := true }] ++ ({ cls := .any, code := 17, blk := true } : Src) :: [] ∧
    readSrcs s 0 0 [{ cls := .any, code := 16, blk := true }] = .ok [vval 16] ∧
    readSrc s 0 0 { cls := .any, code := 17, blk := true } = .error e := by
  intro r hr
  simp only [List.mem_cons, List.not_mem_nil, or_false] at hr
  rcases hr with rfl | rfl | rfl
  · exact ⟨setV 17 _, _, by decide +kernel, rfl, by decide +kernel, by rfl, by rfl⟩
  · exact ⟨setV 17 _, _, by decide +kernel, rfl, by decide +kernel, by rfl, by rfl⟩
  · exact ⟨setV 17 _, _, by decide +kernel, rfl, by decide +kernel, by rfl, by rfl⟩

theorem wit_ChecksInOrder_write : ∃ (s : State) (vs : List Val), s.issuer = some (0, 0) ∧ readSrcs s 0 0 (t3Form .v .any .any f1617).srcs = .ok vs ∧
    (t3Form .v .any .any f1617).dests = [] ++ 40 :: [] ∧ mustWait s 0 0 40 = true :=
  ⟨setV 40 { busy := true }, _, by decide +kernel, by rfl, by decide +kernel, by decide +kernel⟩

/-- A window entry, and a t that the window does not hold. -/
theorem wit_ChecksInOrder_window : ∃ (s t : State) (e : WinEntry), (s.gang 0 0).window[112 - 112]? = some e ∧ e.val = some (.s 7) ∧ typeOk .u (.s 7) = true ∧
    (∀ e v, (t.gang 0 0).window[112 - 112]? = some e → e.val = some v → typeOk .u v = false) :=
  ⟨one { gang0 with window := [{ dest := 63, w := false, val := some (.s 7) }] }, one gang0, _, rfl, rfl, by decide +kernel, by intro e v h; simp [one, State.gang, State.core, gang0, sgetD, sget] at h⟩

/-- A ring with room and one whose base is 0, so that a record waits. -/
theorem wit_TakingFaults : ∃ s t : State, (s.gang? 0 0).isSome = true ∧ (s.ring (.place 0 (0 / 16))).isFull = false ∧ (s.ring (.place 0 (0 / 16))).waiting = [] ∧
    (t.gang? 0 0).isSome = true ∧ ¬ ((t.ring (.place 0 (0 / 16))).isFull = false ∧ (t.ring (.place 0 (0 / 16))).waiting = []) :=
  ⟨(one gang0).setRing (.place 0 0) { base := some 2048 }, one gang0, by decide +kernel, by decide +kernel, by decide +kernel, by decide +kernel, by decide +kernel⟩

/-- The hypotheses of the clauses of `Frames`, in their order, but for those that the clauses of other statements share. -/
theorem wit_Frames :
    (∀ p ∈ (intPlain ++ intSat) ++ fpLanes, ∃ (f : T3) (s : State) (c x : Nat) (a b : Val),
      Ready s c x (t3Form .v .any .any f) [a, b] ∧ tagOk p.2.1 a = true ∧ tagOk p.2.1 b = true) ∧
    (∀ p ∈ onePlain ++ oneConv, ∃ (f : T3) (s : State) (c x : Nat) (a : Val), Ready s c x (t3Form .v .any .zero f) [a] ∧ tagOk p.2.1 a = true) ∧
    (∀ p ∈ accPlain ++ accSat ++ accFp, ∃ (f : T3) (s : State) (c x : Nat) (a b d : Val), Ready s c x (t3Form .v .any .any f true) [a, b, d] ∧
      tagOk p.2.1 a = true ∧ tagOk p.2.1 b = true ∧ tagOk p.2.2.1 d = true) ∧
    (∃ (f : SR) (s : State) (c x : Nat) (a b : W), Ready s c x (srForm f) [.s a, .s b]) ∧
    (∀ p ∈ affOps, ∃ (f : T3) (s : State) (c x : Nat) (a b : Val), Ready s c x (t3Form .a p.2.1 p.2.2.1 f) [a, b]) ∧
    (∃ (f : EX) (s : State) (c x : Nat), Ready s c x (exForm .zero .zero .zero f) []) :=
  ⟨wit_LaneTwoSources, wit_LaneOneSource, wit_LaneAccumulate, wit_UniformArithmetic, wit_AffineArithmetic,
    ex0, one gang0, 0, 0, ready_of (by decide +kernel)⟩

theorem wit_DecodeEncode : ∃ (i : Instr) (bs : List Byte), i.wellFormed = true ∧ isEvent i = false ∧ (∀ w b, i ≠ .illegalEncoding w b) ∧
    decode bs = .ok (i, []) := ⟨.nop ex0, [0x31, 0, 0, 0], by decide, by decide, nofun, rfl⟩

/-- A launch with a record for place 5 and none for place 6. -/
theorem wit_ResetState_records : ∃ (r : LaunchReq) (v : BitVec 128), (∀ p ∈ r.recs, p.1 = 5 → p.2 = v) ∧ (∃ p ∈ r.recs, p.1 = 5) ∧
    ∀ p ∈ r.recs, p.1 ≠ 6 := ⟨{ req0 with recs := [(5, 7)] }, 7, by simp, by simp, by simp⟩

/-- A state that waits for one input. -/
def waits1 : State := { State.reset with inputs := [.op (.linkRecalibration 0)] }
theorem wit_StepKeepsInv : Inv waits1 ∧ ∃ t, step waits1 = .next t :=
  ⟨⟨by decide, fun i h => by simp [waits1, State.reset] at h; subst h; rfl⟩, _, rfl⟩

theorem wit_StepNeverStops : ∃ s t : State, s.issuer = some (0, 0) ∧ isEvent .powerGood = true ∧ Inv t :=
  ⟨one gang0, waits1, by decide +kernel, by decide, wit_StepKeepsInv.1⟩

/-- A `nop` placed in the machine after reset. -/
def placed : State := State.reset.withFetchWord 32 0x31
def placedT : State := State.modCore { placed with tick := placed.tick + 1, cur := none } 0 fun k => { k with chosen := k.chosen.erase 0 }
def placedU : State := { placedT with todo := [] }
theorem wit_StepRunsDecoded : placed.todo = (0, 4) :: [] ∧ State.nextChosen { placed with tick := placed.tick + 1, cur := none } 0 = some 0 ∧
    (placedT.core 0).chosen = [] ∧ (placedU.gang? 0 0).isSome = true := by
  refine ⟨rfl, ?_, ?_, ?_⟩ <;> decide +kernel

/-- Its group, and the gang as it fetches; a group that has parked with its word. -/
def placedQ : Group := { slices := 0xff }
def placedV : State := placedU.modGang 0 0 fun g => { g with active := placedQ.slices }
def placedW : State := placedV.modGang 0 0 fun g => g.startRun placedQ
theorem wit_StepRunsDecoded_ready : placedU.gangReady 0 0 (placedU.gang 0 0) = true ∧ placedU.pickGroup 0 0 = some (placedQ, false) ∧
    (placedV.gang 0 0).run = 0 ∧ placedV.trailerDead 0 0 placedQ.trailer = none := by
  refine ⟨?_, ?_, ?_, ?_⟩ <;> decide +kernel

theorem wit_StepRunsDecoded_fetch : (placedW.word 0 0).2 = some [0x31, 0, 0, 0] ∧ decode [0x31, 0, 0, 0] = .ok (.nop ex0, []) ∧
    (∃ e, decode [0xff, 0xff, 0xff, 0xff] = .error e) ∧
    ((one { gang0 with groups := [{ slices := 0xff, held := some 0x31 }] }).gang 0 0).group.held = some 0x31 ∧
    placedW.inTurn (placedW.issueTurn 0 0 (.nop ex0)) = true := by
  refine ⟨?_, rfl, ⟨_, rfl⟩, ?_, ?_⟩ <;> decide +kernel

/-! ### Well-formed and ill-formed terms: one of each for every check -/

theorem test_wellFormed_units : Instr.wellFormed (.waveStart 1535) ∧ ¬ Instr.wellFormed (.waveStart 1536) ∧
    Instr.wellFormed (.contextAged 0 64) ∧ ¬ Instr.wellFormed (.contextAged 0 65) ∧
    Instr.wellFormed (.thermalBurstHalt 23) ∧ ¬ Instr.wellFormed (.thermalBurstHalt 24) ∧
    Instr.wellFormed (.burstEnd 0 15) ∧ ¬ Instr.wellFormed (.burstEnd 0 16) ∧
    Instr.wellFormed (.packetNop 255) ∧ ¬ Instr.wellFormed (.packetNop 256) ∧
    Instr.wellFormed (.streamDue 16383) ∧ ¬ Instr.wellFormed (.streamDue 16384) ∧
    Instr.wellFormed (.launchComplete 255) ∧ ¬ Instr.wellFormed (.launchComplete 256) ∧
    Instr.wellFormed (.zwaitResume 95) ∧ ¬ Instr.wellFormed (.zwaitResume 96) ∧
    Instr.wellFormed (.kerbRetry 0 1023) ∧ ¬ Instr.wellFormed (.kerbRetry 0 1024) := by decide

theorem test_wellFormed_registers : Instr.wellFormed (.regionTableWrite 0 31 0) ∧ ¬ Instr.wellFormed (.regionTableWrite 0 32 0) ∧
    Instr.wellFormed (.objectTableWrite 0 4095 0 false) ∧ ¬ Instr.wellFormed (.objectTableWrite 0 4096 0 false) ∧
    Instr.wellFormed (.fqrWrite (.place 0 3) 0) ∧ ¬ Instr.wellFormed (.fqrWrite (.place 0 4) 0) ∧ ¬ Instr.wellFormed (.fqrWrite (.plaza 24) 0) ∧
    Instr.wellFormed (.registerWrite 4 (.queue 255 .prio) 0) ∧ ¬ Instr.wellFormed (.registerWrite 4 (.queue 256 .prio) 0) ∧
    ¬ Instr.wellFormed (.registerWrite 4 (.featAcc 4) 0) ∧ ¬ Instr.wellFormed (.registerWrite 4 (.attNonce 8) 0) ∧
    ¬ Instr.wellFormed (.registerWrite 4 (.podRoute 0 256) 0) ∧ ¬ Instr.wellFormed (.registerWrite 4 (.kvPool 0 2 0) 0) ∧
    ¬ Instr.wellFormed (.registerWrite 4 (.kvPool 0 0 9) 0) ∧ ¬ Instr.wellFormed (.registerWrite 4 (.root 256 false) 0) := by decide

/-- R39: D = 40 for a k destination, a `vred` B of 8, a `vvote` B of 2, and more that each field refuses. -/
theorem test_wellFormed_lanes : ¬ Instr.wellFormed (.vcmpEq { d := 40, w := 0, a := 1, ba := 1, b := 2, bb := 1 }) ∧
    Instr.wellFormed (.vcmpEq { d := 7, w := 0, a := 1, ba := 1, b := 2, bb := 1 }) ∧
    ¬ Instr.wellFormed (.vred { d := 3, w := 0, a := 2, ba := 1, b := 8, bb := 0 }) ∧
    Instr.wellFormed (.vred { d := 3, w := 0, a := 2, ba := 1, b := 7, bb := 0 }) ∧
    ¬ Instr.wellFormed (.vvoteAll { d := 2, w := 0, a := 7, ba := 1, b := 2, bb := 0 }) ∧
    ¬ Instr.wellFormed (.vaddI32 { d := 4, w := 0, a := 120, ba := 1, b := 6, bb := 1 }) ∧
    ¬ Instr.wellFormed (.amk { d := 16, w := 0, a := 66, ba := 1, b := 67, bb := 1 }) ∧
    ¬ Instr.wellFormed (.amk { d := 1, w := 0, a := 2, ba := 1, b := 67, bb := 1 }) ∧
    ¬ Instr.wellFormed (.kand { d := 1, w := 0, a := 8, ba := 0, b := 3, bb := 0 }) ∧
    ¬ Instr.wellFormed (.vtake { d := 4, w := 0, a := 4, ba := 1, b := 0, bb := 0 }) ∧
    ¬ Instr.wellFormed (.vmov16 { vd := 0, vs := 0 }) ∧ Instr.wellFormed (.vmov16 { vd := 0, vs := 1 }) := by decide

theorem test_wellFormed_others : ¬ Instr.wellFormed (.kuse { ex0 with a := 8 }) ∧ Instr.wellFormed (.kuse { ex0 with a := 7 }) ∧
    ¬ Instr.wellFormed (.elect { role := 32 }) ∧ Instr.wellFormed (.elect { role := 31 }) ∧
    ¬ Instr.wellFormed (.endrun { x := 120, y := 127, n := 0 }) ∧ Instr.wellFormed (.endrun { x := 127, y := 119, n := 0 }) ∧
    ¬ Instr.wellFormed (.feClr { x := 95, n := 1, rest := 0 }) ∧ Instr.wellFormed (.feClr { x := 94, n := 1, rest := 0 }) ∧
    ¬ Instr.wellFormed (.mxLb { rc := 2, slot := 0, fmt := 3, pair := 0, rest := 0 }) ∧
    ¬ Instr.wellFormed (.mxSt { rc := 14, rest := 0, tile := 0, exp := 1, fmt := 2 }) ∧
    ¬ Instr.wellFormed (.satomCas { d := 31, bd := 1, x := 66, bx := 1, rc := 6, ord := 0, scope := 0 }) ∧
    ¬ Instr.wellFormed (.sldW { d := 32, bd := 0, x := 66, bx := 1, rc := 6, ord := 0, scope := 0 }) ∧
    ¬ Instr.wellFormed (.prm { ex0 with a := 4 }) := by decide

/-! ### Words of the spec's examples and worked encodings, one theorem for each family -/

theorem test_decode_short : decodeTableWord 16 0xc934 = some (.vfadd16 { vd := 9, vs := 25 }) ∧
    decodeTableWord 32 0x71891207 = some (.vfadd { d := 9, w := 0, a := 9, ba := 1, b := 113, bb := 0 }) := by decide +kernel

theorem test_decode_lanes :
    decodeTableWord 32 0x00870c83 = some (.vclz { d := 6, w := 0, a := 7, ba := 1, b := 0, bb := 0 }) ∧
    decodeTableWord 32 0xc3810f03 = some (.vmadLo { d := 7, w := 0, a := 1, ba := 1, b := 67, bb := 1 }) ∧
    decodeTableWord 32 0xc4890505 = some (.vshl { d := 2, w := 0, a := 9, ba := 1, b := 68, bb := 1 }) ∧
    decodeTableWord 32 0x83828087 = some (.vfmul { d := 0, w := 1, a := 2, ba := 1, b := 3, bb := 1 }) ∧
    decodeTableWord 32 0x44821209 = some (.vfma { d := 9, w := 0, a := 2, ba := 1, b := 68, bb := 0 }) ∧
    decodeTableWord 32 0x84831189 = some (.vdot2Bf16 { d := 8, w := 0, a := 3, ba := 1, b := 4, bb := 1 }) ∧
    decodeTableWord 32 0x8585078d = some (.vfcmpUn { d := 3, w := 0, a := 5, ba := 1, b := 5, bb := 1 }) ∧
    decodeTableWord 32 0x96952817 = some (.vdp4s { d := 20, w := 0, a := 21, ba := 1, b := 22, bb := 1 }) := by decide +kernel

theorem test_decode_conversions :
    decodeTableWord 32 0x00860a4f = some (.vcvtI32F32 { d := 5, w := 0, a := 6, ba := 1, b := 0, bb := 0 }) ∧
    decodeTableWord 32 0x0188130f = some (.vunpk { d := 9, w := 0, a := 8, ba := 1, b := 1, bb := 0 }) ∧
    decodeTableWord 32 0x048419cf = some (.vcvq { d := 12, w := 0, a := 4, ba := 1, b := 4, bb := 0 }) ∧
    decodeTableWord 32 0x008318d1 = some (.vexp2 { d := 12, w := 0, a := 3, ba := 1, b := 0, bb := 0 }) := by decide +kernel

theorem test_decode_crossLane :
    decodeTableWord 32 0xc6840a53 = some (.vshflXor { d := 5, w := 0, a := 4, ba := 1, b := 70, bb := 1 }) ∧
    decodeTableWord 32 0x08850d53 = some (.vscan { d := 6, w := 0, a := 5, ba := 1, b := 8, bb := 0 }) ∧
    decodeTableWord 32 0x01870593 = some (.vvoteAll { d := 2, w := 0, a := 7, ba := 1, b := 1, bb := 0 }) ∧
    decodeTableWord 32 0xc98a1a15 = some (.vselgt { d := 13, w := 0, a := 10, ba := 1, b := 73, bb := 1 }) ∧
    decodeTableWord 32 0x00870955 = some (.vrfa { d := 4, w := 0, a := 7, ba := 1, b := 0, bb := 0 }) ∧
    decodeTableWord 32 0x00000595 = some (.vlaneid { d := 2, w := 0, a := 0, ba := 0, b := 0, bb := 0 }) := by decide +kernel

theorem test_decode_memory :
    decodeTableWord 32 0x82e18e9b = some (.vstW32 { d := 7, bd := 1, x := 0x61, bx := 1, rc := 2, ord := 0, scope := 2 }) ∧
    decodeTableWord 32 0x94e21199 = some (.vldX4 { d := 8, bd := 0, x := 98, bx := 1, rc := 4, ord := 1, scope := 2 }) ∧
    decodeTableWord 32 0x038495dd = some (.vatomCas { d := 10, bd := 1, x := 4, bx := 1, rc := 3, ord := 0, scope := 0 }) ∧
    decodeTableWord 32 0x05c70c1f = some (.sldW { d := 6, bd := 0, x := 71, bx := 1, rc := 5, ord := 0, scope := 0 }) ∧
    decodeTableWord 32 0xd6c2879f = some (.satomAdd { d := 3, bd := 1, x := 66, bx := 1, rc := 6, ord := 1, scope := 3 }) := by decide +kernel

theorem test_decode_uniform :
    decodeTableWord 32 0x00f34da3 = some (.sdivN32Imm { d := 6, a := 6, ba := 1, imm := 7 }) ∧
    decodeTableWord 32 0x01e109a9 = some (.aget { d := 4, w := 0, a := 97, ba := 1, b := 1, bb := 0 }) ∧
    decodeTableWord 32 0x00e10be9 = some (.a2v { d := 5, w := 0, a := 97, ba := 1, b := 0, bb := 0 }) := by decide +kernel

theorem test_decode_control :
    decodeTableWord 32 0x00000031 = some (.nop ex0) ∧ decodeTableWord 32 0x00000631 = some (.exit ex0) ∧
    decodeTableWord 32 0x0000026f = some (.call { disp := 4 }) ∧ decodeTableWord 32 0x00201231 = some (.kuse { ex0 with a := 2 }) ∧
    decodeTableWord 32 0x40014071 = some (.rdctl { ex0 with d := 5, b := 16 }) ∧
    decodeTableWord 32 0x16700271 = some (.wrctl { ex0 with a := 7, ba := 1, b := 5 }) ∧
    decodeTableWord 32 0x006208b1 = some (.feClr { x := 8, n := 3, rest := 0 }) ∧
    decodeTableWord 32 0x026006b1 = some (.runshare { ex0 with a := 6, ba := 1 }) := by decide +kernel

theorem test_decode_matrix :
    decodeTableWord 32 0x04008035 = some (.mxLb { rc := 2, slot := 0, fmt := 4, pair := 0, rest := 0 }) ∧
    decodeTableWord 32 0x08004235 = some (.mxMma { rc := 1, slot := 0, tile := 0, ov := 1, rest := 0 }) ∧
    decodeTableWord 32 0x2800c635 = some (.mxSt { rc := 3, rest := 0, tile := 0, exp := 1, fmt := 2 }) ∧
    decodeTableWord 32 0x42a24a35 = some (.mxRd { v := 9, tile := 2, row := 5, block := 1 }) ∧
    decodeTableWord 32 0x02608e35 = some (.cbld { ex0 with d := 2, a := 6, ba := 1 }) ∧
    decodeTableWord 32 0x02518475 = some (.mxLic { ex0 with d := 6, a := 5, ba := 1 }) := by decide +kernel

theorem test_decode_graphs :
    decodeTableWord 32 0x00c2c437 = some (.gnWk { ex0 with d := 11, a := 12 }) ∧
    decodeTableWord 32 0xaea00637 = some (.gnEdge { ex0 with a := 10, ba := 1, b := 11, bb := 1 }) ∧
    decodeTableWord 32 0x9e500673 = some (.barWait { ex0 with a := 5, ba := 1, b := 7, bb := 1 }) ∧
    decodeTableWord 32 0x9a510073 = some (.barInit { ex0 with d := 4, a := 5, ba := 1, b := 6, bb := 1 }) := by decide +kernel

theorem test_decode_services :
    decodeTableWord 32 0xaa920239 = some (.mrecv { ex0 with d := 8, a := 9, ba := 1, b := 10, bb := 1 }) ∧
    decodeTableWord 32 0x1c518279 = some (.objCallv { d := 6, a := 5, s := 7, rest := 0 }) ∧
    decodeTableWord 32 0xae52863b = some (.slotSt { ex0 with d := 10, a := 5, ba := 1, b := 11, bb := 1 }) ∧
    decodeTableWord 32 0x0242007d = some (.kvHad { ex0 with d := 8, a := 4, ba := 1 }) ∧
    decodeTableWord 32 0x02518871 = some (.wphase { ex0 with d := 6, a := 5, ba := 1 }) ∧
    decodeTableWord 32 0x9c110a71 = some (.prm { ex0 with d := 4, a := 1, b := 7, bb := 1 }) := by decide +kernel

theorem test_decode_hart : decodeHart 0x0062828b = some { rd := 5, rs1 := 5, rs2 := 6 } := by decide +kernel

/-- MAJ 1F, and an EX word of no instruction. -/
theorem test_decode_refuses : decodeTableWord 32 0xffffffff = none ∧ decodeTableWord 32 0xfffffe31 = none := by
  decide +kernel

/-! ### What instructions do: worked examples of the spec, and hand calculation -/

/-- A gang of 8 registers and more, with lanes in v10, words in s1 to s9, and an affine register. -/
def lanes8 (l : List W) : Lanes := Lanes.of fun i => l.getD i 0
def gangV (n : Nat) (tag : Byte) (l : List W) (g : Gang) : Gang := { g with v := vput g.v n { val := lanes8 l, tag := tag } }
def gangS (n : Nat) (w : W) (g : Gang) : Gang := { g with s := vput g.s n { val := w } }
/-- The first lanes of a varying register. -/
def first8 (n : Nat) (g : Gang) : List W := (List.range 8).map fun l => (vget g.v n {}).val.lane l
def lane0 (n : Nat) (g : Gang) : W := (vget g.v n {}).val.lane 0
def sval (n : Nat) (g : Gang) : W := (g.sreg n).val
/-- Registers d, a, b as varying fields. -/
def vab (d a b : Nat) : T3 := { d := BitVec.ofNat 6 d, w := 0, a := BitVec.ofNat 7 a, ba := 1, b := BitVec.ofNat 7 b, bb := if b = 0 then 0 else 1 }
/-- v1 and v2 of one word each, all RAW or all of a tag. -/
def ab (tag : Byte) (a b : W) : Gang := gangV 1 tag (List.replicate 32 a) (gangV 2 tag (List.replicate 32 b) { valloc := 64 })

theorem test_core_id : gidOf (5 * 64 + 46) = 0x16e0 := by decide
theorem test_vsub : seen (.vsubI32 (vab 40 1 2)) (ab 0 16 32) (lane0 40) = some 0xfffffff0 := by decide +kernel
theorem test_vmulh : seen (.vmulhI32 (vab 40 1 2)) (ab 0 0xffffffff 2) (lane0 40) = some 0xffffffff := by decide +kernel
theorem test_vmulhN : seen (.vmulhN32 (vab 40 1 2)) (ab 0 0xffffffff 2) (lane0 40) = some 1 := by decide +kernel
theorem test_vabs_least : seen (.vabsI32 (vab 40 1 0)) (ab 0 0x80000000 0) (lane0 40) = some 0x80000000 := by decide +kernel
theorem test_vclz_zero : seen (.vclz (vab 40 1 0)) (ab 0 0 0) (lane0 40) = some 32 := by decide +kernel
/-- Saturation sets SAT, bit 5 of GSTAT. -/
theorem test_vadds : seen (.vaddsI32 (vab 40 1 2)) (ab 0 0x7fffffff 1) (fun g => (lane0 40 g, bit g.gstat 5)) = some (0x7fffffff, true) := by decide +kernel
/-- A shift count is bits [4:0]. -/
theorem test_vshl : seen (.vshl (vab 40 1 2)) (ab 0 3 33) (lane0 40) = some 6 := by decide +kernel
theorem test_vsra : seen (.vsra (vab 40 1 2)) (ab 0 0x80000000 4) (lane0 40) = some 0xf8000000 := by decide +kernel
theorem test_vfadd : seen (.vfadd (vab 40 1 2)) (ab 1 0x3f800000 0x3f800000) (lane0 40) = some 0x40000000 := by decide +kernel
theorem test_vfmul_invalid : seen (.vfmul (vab 40 1 2)) (ab 1 0 0x7f800000) (lane0 40) = some 0x7fc00000 := by decide +kernel
theorem test_vdp4s : seen (.vdp4s (vab 40 1 2)) (gangV 40 0 (List.replicate 32 10) (ab 8 0x01ff0203 0x01010101)) (lane0 40) = some 15 := by decide +kernel

/-- The example of ranking in one tile of eight. -/
def ranked : Gang :=
  gangV 10 1 [0x3f000000, 0x7fc00000, 0x40000000, 0x3f000000, 0xff800000, 0x40000000, 0x3f800000, 0x3e800000]
    (gangS 6 3 (gangS 9 0x3f000000 { valloc := 64, ptile := 3, kuse := 0xfffffff7 }))
theorem test_vtopk : seen (.vtopk (vab 12 10 70)) ranked (first8 12) = some [1, 2, 5, 0, 0xffffffff, 0xffffffff, 0xffffffff, 0xffffffff] := by decide +kernel
theorem test_vselgt : seen (.vselgt (vab 13 10 73)) ranked (first8 13) = some [1, 2, 5, 0, 6, 0xffffffff, 0xffffffff, 0xffffffff] := by decide +kernel
theorem test_vsort : seen (.vsort (vab 14 10 69)) ranked (first8 14) =
    some [0x7fc00000, 0x40000000, 0x40000000, 0, 0x3f800000, 0x3f000000, 0x3e800000, 0xff800000] := by decide +kernel
theorem test_vred : seen (.vred { vab 3 10 3 with bb := 0 }) ranked (first8 3) =
    some [0x40000000, 0x40000000, 0x40000000, 0, 0x40000000, 0x40000000, 0x40000000, 0x40000000] := by decide +kernel
theorem test_vballot : seen (.vballot (vab 8 10 64)) ranked (first8 8) = some [0xf7, 0xf7, 0xf7, 0, 0xf7, 0xf7, 0xf7, 0xf7] := by decide +kernel

/-- The AOV and AFX examples. -/
theorem test_amk : seen (.amk (vab 1 66 67)) (gangS 2 0x7ffffff0 (gangS 3 4 { valloc := 8 })) (fun g => ((g.areg 1).base, (g.areg 1).stride, bit g.gstat 2)) =
    some (0x7ffffff0, 4, true) := by decide +kernel
theorem test_ashr : seen (.ashr (vab 2 97 68)) (gangS 4 2 { valloc := 8, a := vput (Vector.replicate 16 {}) 1 { base := 6, stride := 4 } })
    (fun g => ((g.areg 2).base, (g.areg 2).stride, bit g.gstat 3)) = some (1, 1, true) := by decide +kernel

/-- The values of the `vexp2` examples; FINX is bit 9 and FUNF bit 8. -/
theorem test_vexp2 : exp2Lane 0x40100000 = (0x409837f0, 0x200) ∧ (exp2Lane 0x3f000000).1 = 0x3fb504f3 ∧ exp2Lane 0xc0400000 = (0x3e000000, 0) ∧
    exp2Lane 0xc3480000 = (0, 0x300) := by decide +kernel

/-- −0.75 to an integer, towards zero. -/
theorem test_vcvt_rz : seen (.vcvtI32F32 (vab 40 1 0)) { ab 1 0xbf400000 0 with rmode := 1 } (lane0 40) = some 0 := by decide +kernel

theorem test_sli : seen (.sli { d := 2, imm := 12 }) {} (sval 2) = some 12 := by decide +kernel
theorem test_slui : seen (.slui { d := 9, imm := 0x7f000 }) {} (sval 9) = some 0x3f800000 := by decide +kernel
theorem test_ssub : seen (.ssubImm { d := 3, a := 2, ba := 1, imm := 1 }) {} (sval 3) = some 0xffffffff := by decide +kernel
theorem test_sshl : seen (.sshlImm { d := 3, a := 2, ba := 1, imm := 31 }) (gangS 2 3 {}) (sval 3) = some 0x80000000 := by decide +kernel
theorem test_kand : seen (.kand { vab 1 2 3 with ba := 0, bb := 0 }) { k := Vector.ofFn fun i : Fin 8 => BitVec.ofNat 32 (i.val + 4) } (fun g => g.kreg 1) = some 6 := by decide +kernel

/-- `beq s3, s4, .+16` is taken; `jmp .+8`; `jr` stays in its 4 GiB. -/
theorem test_beq : seen (.beq { a := 3, b := 4, disp := 8 }) {} (·.pc) = some 16 := by decide +kernel
theorem test_jmp : seen (.jmp { disp := 4 }) {} (·.pc) = some 8 := by decide +kernel
theorem test_jr : seen (.jr { ex0 with a := 7, ba := 1 }) (gangS 7 0x100 { pcs := Vector.replicate 8 0x500000040 }) (·.pc) = some 0x500000100 := by decide +kernel
theorem test_call : seen (.call { disp := 4 }) {} (fun g => (g.pc, g.retStacks[0])) = some (8, [4]) := by decide +kernel
theorem test_trap : seen (.trap { code := 0x2a }) {} (fun g => g.halt.map fun r => (r.code, r.info)) = some (some (0x10, 0x2a)) := by decide +kernel
theorem test_setpt : seen (.setpt { c := 3, rest := 0 }) {} (·.ptile) = some 3 := by decide +kernel
/-- `kuse k2` in slice 0 alone. -/
theorem test_kuse : seen (.kuse { ex0 with a := 2 }) { active := 1, k := Vector.ofFn fun i : Fin 8 => BitVec.ofNat 32 (i.val + 4) } (·.kuse) = some 0xfffffff6 := by
  decide +kernel
/-- `fe.clr v8, 3` empties v8 to v11. -/
theorem test_feClr : seen (.feClr { x := 8, n := 3, rest := 0 }) { valloc := 64 } (fun g => ([7, 8, 11, 12].map fun n => decide ((vget g.v n {}).fe = .empty))) =
    some [false, true, true, false] := by decide +kernel
/-- s0 stays 0. -/
theorem test_s0 : seen (.sli { d := 0, imm := 12 }) {} (sval 0) = some 0 := by decide +kernel
/-- A register beyond the allotment is E_RES with its code, and nothing is written. -/
theorem test_res : seen (.vaddI32 (vab 8 1 2)) { valloc := 8 } (fun g => g.halt.map fun r => (r.code, r.info)) = some (some (0x14, 8)) := by decide +kernel
/-- Element 5 of an MXF6-E2M3 block, code 0b011010, with scale byte 0x7e, is 2.5; and one chunk of 32 halves added to 2^24. -/
theorem test_mx_element : (widen (mxElem 11 (0b011010 * 2 ^ 30 + 0x7e * 2 ^ 192) 5)).1 = 0x40200000 := by decide +kernel
theorem test_mx_chunk : accChunk 0x4b800000 (List.replicate 32 (f32Dec 0x3f000000)) = 0x4b800008 := by decide +kernel

/-- A placed `sli s2, 12` is what the next step runs; and from reset an input acts. -/
theorem test_step_decodes : decode ((tableBytes 32 0x60a5) ++ [0, 0, 0, 0]) = .ok (.sli { d := 2, imm := 12 }, [0, 0, 0, 0]) := rfl
/-- A store and a load of four bytes, least significant first. -/
theorem test_bytes : (writeBytes [] 8 [0x44, 0x33, 0, 0x11]) = [(8, 0x44), (9, 0x33), (11, 0x11)] := by decide +kernel

end Sys2Proof.Tests
end

section
/-! SUPPORT. What the operations of the front end on launches do and leave to read, what an access through BAR2 does, and what a
vector holds after a list of writes. -/

namespace Sys2Proof.Machine

/-! ### The front end's fields under writes of memory, cores and queues -/

@[simp] theorem State.touchAll_fe (s : State) (k n : Nat) (write : Bool) : (s.touchAll k n write).fe = s.fe := rfl

@[simp] theorem State.openRegions_fe (s : State) (c pin size : Nat) (isOpen : Bool) (owner : Byte) :
    (s.openRegions c pin size isOpen owner).fe = s.fe := rfl

@[simp] theorem State.moveByte_fe (s0 s : State) (src dst : Nat) : (State.moveByte s0 s src dst).fe = s.fe := by
  unfold State.moveByte
  dsimp only
  split <;> rfl

/-- A fold of operations that leave the front end as it is leaves it as it is. -/
theorem foldl_fe {α : Type} (f : State → α → State) (h : ∀ s a, (f s a).fe = s.fe) (l : List α) (s : State) :
    (l.foldl f s).fe = s.fe := by
  induction l generalizing s with
  | nil => rfl
  | cons a l ih => rw [List.foldl_cons, ih, h]

@[simp] theorem State.moveRuns_fe (s : State) (src dst : List (Nat × Nat)) : (s.moveRuns src dst).fe = s.fe := by
  unfold State.moveRuns
  dsimp only
  rw [foldl_fe (fun t (p : Nat × Nat) => s.moveByte t p.1 p.2) (fun _ _ => State.moveByte_fe ..),
    foldl_fe (fun t (p : Nat × Nat) => (State.touchAll t p.1 p.2 true).clearBad p.1 p.2) (fun _ _ => rfl),
    foldl_fe (fun t (p : Nat × Nat) => State.touchAll t p.1 p.2 false) (fun _ _ => rfl)]

@[simp] theorem State.modQueue_stamp (s : State) (q : Nat) (f : Queue → Queue) : (s.modQueue q f).fe.stamp = s.fe.stamp := rfl
@[simp] theorem State.modQueue_waiting (s : State) (q : Nat) (f : Queue → Queue) :
    (s.modQueue q f).fe.waiting = s.fe.waiting := rfl
@[simp] theorem State.modQueue_queues (s : State) (q : Nat) (f : Queue → Queue) :
    (s.modQueue q f).fe.queues = sput s.fe.queues q (f (s.queue q)) := rfl

/-- Of the front end's fields, journalling a decision changes the journal index and the kick bitmap alone (R399). -/
theorem State.journal_fe (s : State) : ∃ i k, s.journal.fe = { s.fe with jidx := i, kicks := k } := by
  unfold State.journal
  split
  · exact ⟨s.fe.jidx, s.fe.kicks, rfl⟩
  · dsimp only
    split
    · exact ⟨_, _, rfl⟩
    · exact ⟨_, _, State.put_fe ..⟩

@[simp] theorem State.journal_stamp (s : State) : s.journal.fe.stamp = s.fe.stamp := by
  obtain ⟨_, _, h⟩ := s.journal_fe
  rw [h]

@[simp] theorem State.journal_waiting (s : State) : s.journal.fe.waiting = s.fe.waiting := by
  obtain ⟨_, _, h⟩ := s.journal_fe
  rw [h]

@[simp] theorem State.journal_queues (s : State) : s.journal.fe.queues = s.fe.queues := by
  obtain ⟨_, _, h⟩ := s.journal_fe
  rw [h]

@[simp] theorem State.startHead_stamp (s : State) (q : Nat) (sig : Option Sig) (inner : Option Indirect) :
    (s.startHead q sig inner).fe.stamp = s.fe.stamp := by simp [State.startHead]

@[simp] theorem State.startHead_waiting (s : State) (q : Nat) (sig : Option Sig) (inner : Option Indirect) :
    (s.startHead q sig inner).fe.waiting = s.fe.waiting := by simp [State.startHead]

/-! ### Taking a launch (R385) -/

@[simp] theorem State.placeCrew_fe (s : State) (r : LaunchReq) (slot prio : Nat) (kiosk : W) (stream : Option Nat) (c : Nat) :
    (s.placeCrew r slot prio kiosk stream c).fe = s.fe := by
  unfold State.placeCrew
  dsimp only
  split <;> rfl

@[simp] theorem State.loadImage_fe (s : State) (launch : BitVec 32) (src : List (Nat × Nat)) (c : Nat) :
    (s.loadImage launch src c).fe = s.fe := by
  unfold State.loadImage
  split <;> simp

@[simp] theorem placeCrews_fe (r : LaunchReq) (slot prio : Nat) (kiosk : W) (stream : Option Nat) (cores : List Nat) (s : State) :
    (cores.foldl (fun (s : State) c => s.placeCrew r slot prio kiosk stream c) s).fe = s.fe :=
  foldl_fe _ (fun _ _ => State.placeCrew_fe ..) ..

@[simp] theorem loadImages_fe (launch : BitVec 32) (src : List (Nat × Nat)) (cores : List Nat) (s : State) :
    (cores.foldl (fun (s : State) c => s.loadImage launch src c) s).fe = s.fe :=
  foldl_fe _ (fun _ _ => State.loadImage_fe ..) ..

theorem State.takeLaunch_stamp (s : State) (w : Waiting) (src : List (Nat × Nat)) :
    (s.takeLaunch w src).fe.stamp = s.fe.stamp + 1 := by
  unfold State.takeLaunch
  cases w.stream <;> simp

theorem State.takeLaunch_waiting (s : State) (w : Waiting) (src : List (Nat × Nat)) :
    (s.takeLaunch w src).fe.waiting = s.fe.waiting.filter fun y => y != w := by
  unfold State.takeLaunch
  cases w.stream <;> simp

/-- A stream's launch is a start of its queue (R395). -/
theorem State.takeLaunch_queue_of_stream (s : State) {w : Waiting} {id : Nat} (src : List (Nat × Nat)) (hw : w.stream = some id) :
    (s.takeLaunch w src).queue w.queue = (s.queue w.queue).stride := by
  simp [State.takeLaunch, hw, State.queue]

/-! ### What admission takes (R385) -/

theorem sfree_some {α : Type} {m : Store α} {n k j : Nat} (h : sfree m n k = some j) : j < k + n ∧ sget m j = none := by
  induction n generalizing k with
  | zero => cases h
  | succ n ih =>
    unfold sfree at h
    split at h
    next hk =>
      cases h
      exact ⟨by omega, Option.isNone_iff_eq_none.mp hk⟩
    next =>
      obtain ⟨hj, hm⟩ := ih h
      exact ⟨by omega, hm⟩

/-- The launch that is taken fits, and no senior launch before it meets its targets. -/
theorem State.firstFit_some {s : State} {older l : List Waiting} {w : Waiting} (h : s.firstFit older l = some w) :
    ∃ pre post, l = pre ++ w :: post ∧ s.fits w = true ∧ ∀ o ∈ older ++ pre, o.senior = true → overlaps o.req w.req = false := by
  induction l generalizing older with
  | nil => cases h
  | cons v rest ih =>
    unfold State.firstFit at h
    split at h
    next hv =>
      cases h
      obtain ⟨hfit, hold⟩ := Bool.and_eq_true_iff.mp hv
      refine ⟨[], rest, rfl, hfit, fun o ho hs => ?_⟩
      simp only [Bool.not_eq_true', List.any_eq_false, Bool.and_eq_true, not_and, Bool.not_eq_true] at hold
      exact hold o (by simpa using ho) hs
    next =>
      obtain ⟨pre, post, rfl, hfit, hold⟩ := ih h
      exact ⟨v :: pre, post, rfl, hfit, by simpa using hold⟩

theorem State.admissible_some {s : State} {w : Waiting} (h : s.admissible = some w) :
    s.fe.failover = false ∧ s.fits w = true ∧
      ∃ older younger, s.fe.waiting = older ++ w :: younger ∧ ∀ o ∈ older, o.senior = true → overlaps o.req w.req = false := by
  unfold State.admissible at h
  split at h
  next => cases h
  next hf =>
    obtain ⟨pre, post, hl, hfit, hold⟩ := State.firstFit_some h
    exact ⟨by simpa using hf, hfit, pre, post, hl, by simpa using hold⟩

theorem State.fits_slot {s : State} {w : Waiting} (h : s.fits w = true) :
    ∃ slot, slot < 256 ∧ sget s.fe.launches slot = none := by
  simp only [State.fits, Bool.and_eq_true] at h
  obtain ⟨⟨⟨⟨_, hslot⟩, _⟩, _⟩, _⟩ := h
  obtain ⟨slot, hs⟩ := Option.isSome_iff_exists.mp hslot
  obtain ⟨hlt, hnone⟩ := sfree_some hs
  exact ⟨slot, by omega, hnone⟩

theorem State.fits_queue {s : State} {w : Waiting} (h : s.fits w = true) :
    (s.queue w.queue).st = 1 ∧ (w.stream ≠ none → s.canStart w.queue = true → s.pickQueue = some w.queue) := by
  simp only [State.fits, Bool.and_eq_true, beq_iff_eq] at h
  obtain ⟨⟨⟨⟨⟨⟨hturn, hst⟩, _⟩, _⟩, _⟩, _⟩, _⟩ := h
  refine ⟨hst, fun hw hc => ?_⟩
  simpa [State.launchTurn, hw, hc] using hturn

theorem State.fits_core {s : State} {w : Waiting} (h : s.fits w = true) {c : Nat} (hc : c ∈ w.req.targets) :
    (s.core c).ctxUsed + w.req.gangs ≤ 16 ∧ w.req.vregs / 8 * w.req.gangs ≤ (s.core c).poolFree ∧
      (s.pinPlace c (w.req.sram / 65536)).isSome = true := by
  simp only [State.fits, Bool.and_eq_true, List.all_eq_true] at h
  obtain ⟨_, hcores⟩ := h
  have hfit := hcores c hc
  simp only [State.crewFits, Bool.and_eq_true, decide_eq_true_eq] at hfit
  obtain ⟨⟨⟨_, hctx⟩, hpool⟩, hpin⟩ := hfit
  exact ⟨hctx, hpool, hpin⟩

/-! ### Taking up the head packet, and admission -/

/-- A head packet that is ready and of the kind asked for is taken up. -/
theorem State.takeHead_of_ready {s u : State} {q a : Nat} {bs : List Byte} (h : Safety.HeadReady s q u a bs) :
    s.takeHead q (pktKind bs) = (u, some (a, bs)) := by
  obtain ⟨hruns, hroom, haddr, hread, hgood, hturn⟩ := h
  have ht : (s.refresh.pickQueue == some q || pktKind bs == 4 || pktKind bs == 6) = true := by
    simpa [or_assoc] using hturn
  simp [State.takeHead, hruns, hroom, haddr, hread, hgood, ht]

theorem exec_packetLaunch (q : Nat) (s : State) : exec (.packetLaunch q) s = execPacketLaunch q s := rfl
theorem exec_launchAdmission (q : Nat) (s : State) : exec (.launchAdmission q) s = execLaunchAdmission q s := rfl
theorem exec_launchSenior (q : Nat) (s : State) : exec (.launchSenior q) s = execLaunchSenior q s := rfl
theorem exec_launchComplete (slot : Nat) (s : State) : exec (.launchComplete slot) s = execLaunchComplete slot s := rfl

/-- A LAUNCH packet that is taken up goes on with what its reading answers. -/
theorem packetLaunch_of_ready {s u : State} {q a : Nat} {bs : List Byte} (h : Safety.HeadReady s q u a bs) (hk : pktKind bs = 1) :
    exec (.packetLaunch q) s = match u.readLaunch q a bs with
      | (v, .error e) => .next (v.haltQueue q e (some a)).refresh
      | (v, .ok r) =>
        let w : Waiting := { queue := q, since := v.clock, req := r }
        let t := Safety.waits v q bs w
        .next (if t.admissible == some w then t.admitLaunch w else t).refresh := by
  have ht := State.takeHead_of_ready h
  rw [hk] at ht
  rw [exec_packetLaunch, execPacketLaunch, ht]
  rfl

/-- Admission of the queue of the launch that it takes admits it; that of another queue does nothing. -/
theorem launchAdmission_of_admissible {s : State} {w : Waiting} (h : s.admissible = some w) (q : Nat) :
    exec (.launchAdmission q) s = .next (if w.queue = q then (s.refresh.admitLaunch w).refresh else s) := by
  rw [exec_launchAdmission, execLaunchAdmission, h]
  dsimp only
  split <;> rfl

section
variable {s v : State} {w : Waiting}

theorem State.admitLaunch_of_runs {src : List (Nat × Nat)}
    (h : s.feRuns w.req.asid .load (w.req.simglen / 65536 + 2) w.req.simg w.req.simglen = (v, some src)) :
    s.admitLaunch w = v.takeLaunch w src := by
  rw [State.admitLaunch, h]

theorem State.admitLaunch_of_fail
    (h : (s.feRuns w.req.asid .load (w.req.simglen / 65536 + 2) w.req.simg w.req.simglen) = (v, none)) :
    s.admitLaunch w = match w.stream with
      | some id => ((v.dropWaiting w).haltQueue w.queue 4 (some w.req.pkt)).closeStream id
      | none => (v.dropWaiting w).haltQueue w.queue 4 (some w.req.pkt) := by
  rw [State.admitLaunch, h]
  rfl

end

/-! ### Accesses through BAR2 (R410) -/

theorem exec_hostApertureAccess (off n : Nat) (wr : Option (List Byte)) (s : State) :
    exec (.hostApertureAccess off n wr) s = execHostApertureAccess off n wr s := rfl

/-- A read through BAR2 that lies in the window answers what the front end reads at its address, or all ones. -/
theorem hostRead_of_inside (s : State) {off n : Nat} (h : off + n ≤ 2 ^ 38) :
    exec (.hostApertureAccess off n none) s = match s.feRead s.sys.apasid ((s.sys.apbase.toNat + off) % 2 ^ 48) n with
      | (t, some bs) => .next { t with apRead := bs }
      | (t, none) => .next { t with sys := { t.sys with aperr := t.sys.aperr + 1 }, apRead := List.replicate n 0xff } := by
  rw [exec_hostApertureAccess, execHostApertureAccess]
  dsimp only
  rw [if_neg (by omega)]
  rfl

/-- A write through BAR2 that lies in the window goes to the runs of its address, or is dropped. -/
theorem hostWrite_of_inside (s : State) {off n : Nat} {bs : List Byte} (h : off + bs.length ≤ 2 ^ 38) :
    exec (.hostApertureAccess off n (some bs)) s =
      match s.feRuns s.sys.apasid .store (bs.length / 65536 + 2) ((s.sys.apbase.toNat + off) % 2 ^ 48) bs.length with
      | (t, none) => .next { t with sys := { t.sys with aperr := t.sys.aperr + 1 } }
      | (t, some runs) =>
        .next (runs.foldl (fun (p : State × List Byte) q => (p.1.put q.1 (p.2.take q.2), p.2.drop q.2)) (t, bs)).1 := by
  rw [exec_hostApertureAccess, execHostApertureAccess]
  dsimp only
  rw [if_neg (by omega)]
  rfl

/-! ### Vectors of one value, and after a list of writes -/

theorem vget_replicate {α : Type} {n i : Nat} (x d : α) (h : i < n) : vget (Vector.replicate n x) i d = x := by
  simp [vget, h]

theorem vget_replicate_self {α : Type} (n i : Nat) (d : α) : vget (Vector.replicate n d) i d = d := by
  by_cases h : i < n <;> simp [vget, h]

/-- Place `i` after a list of numbered values has been written: the value that every entry of number `i` has, where there is one
or it stood there before. -/
theorem vget_foldl_vput {α : Type} {n : Nat} (l : List (Nat × α)) (v : Vector α n) {i : Nat} {x d : α} (hi : i < n)
    (hall : ∀ p ∈ l, p.1 = i → p.2 = x) (hone : (∃ p ∈ l, p.1 = i) ∨ vget v i d = x) :
    vget (l.foldl (fun v p => vput v p.1 p.2) v) i d = x := by
  induction l generalizing v with
  | nil => simpa using hone
  | cons p l ih =>
    rw [List.foldl_cons]
    refine ih _ (fun q hq => hall q (List.mem_cons_of_mem _ hq)) ?_
    by_cases hp : p.1 = i
    · right
      rw [hp, vget_vput_self _ _ _ _ hi, hall p List.mem_cons_self hp]
    · rw [vget_vput_of_ne _ _ _ _ _ hp]
      simpa [hp] using hone

end Sys2Proof.Machine
end

section
/-! PROOFS. The statements of launches, of device time and the host's window, and of reset, settled. -/

namespace Sys2Proof.Safety

open Sys2Proof.Machine

/-! ### Launches (R20, R108, R381, R382, R384 to R386) -/

theorem launchesComplete : LaunchesComplete := by
  refine ⟨?packet, ?admission, ?senior, ?complete⟩
  case packet =>
    intro s u v q a bs r hready hkind hread w h
    rw [packetLaunch_of_ready hready hkind, hread]
    simp only [beq_iff_eq]
    rfl
  case admission =>
    intro s v w src hadm hruns
    rw [launchAdmission_of_admissible hadm, if_pos rfl, State.admitLaunch_of_runs hruns]
  case senior =>
    intro s q
    rw [exec_launchSenior, execLaunchSenior]
    simp only [Bool.and_eq_true, decide_eq_true_eq]
    rfl
  case complete =>
    intro s slot l hl t hover hroom
    rw [exec_launchComplete, execLaunchComplete, hl]
    dsimp only
    rw [if_neg (by simp [t, hover, hroom])]
    cases l.stream <;> rfl

theorem admissionFails : AdmissionFails := by
  refine ⟨fun s u v q a e bs hready hkind hread => ?_, ?_⟩
  · rw [packetLaunch_of_ready hready hkind, hread]
  intro s w hadm t r halted
  refine ⟨?alone, ?stream, ?other⟩
  case alone =>
    intro hfail hw
    rw [launchAdmission_of_admissible hadm, if_pos rfl, State.admitLaunch_of_fail (Prod.ext rfl hfail), hw]
  case stream =>
    intro hfail id hw
    rw [launchAdmission_of_admissible hadm, if_pos rfl, State.admitLaunch_of_fail (Prod.ext rfl hfail), hw]
  case other =>
    intro q hq
    rw [launchAdmission_of_admissible hadm, if_neg hq.symm]

theorem admissionRules : AdmissionRules := by
  intro s w hadm
  obtain ⟨hfail, hfits, older, younger, hl, hold⟩ := State.admissible_some hadm
  obtain ⟨hst, hturn⟩ := State.fits_queue hfits
  exact ⟨hfail, by simp [hl], State.fits_slot hfits, hst, hturn, fun c hc => State.fits_core hfits hc, older, younger, hl, hold⟩

theorem admissionTakes : AdmissionTakes := by
  intro s w src t
  refine ⟨State.takeLaunch_stamp .., ?_, fun id hw _ => ?_⟩
  · simp [t, State.takeLaunch_waiting]
  · simp only [t, State.takeLaunch_queue_of_stream s src hw, Queue.stride]

theorem launchGoesOn : LaunchGoesOn := by
  intro s slot l hl t hstay
  rw [exec_launchComplete, execLaunchComplete, hl]
  dsimp only
  rw [if_pos (by simpa [t] using hstay)]

/-- Settles O44: the four launch instructions by their own equations, and admission by what the launch that it takes must fit. -/
theorem launches : Obligations.Launches :=
  ⟨launchesComplete, admissionFails, admissionRules, admissionTakes, launchGoesOn⟩

/-! ### Device time and the host's window (R15, R410) -/

theorem timeSources : TimeSources := by
  intro s src ns
  have hlock : exec (.timeSourceLock src ns) s = execTimeSourceLock src ns s := rfl
  have hloss : exec (.timeSourceLoss src) s = execTimeSourceLoss src s := rfl
  rw [hlock, hloss]
  refine ⟨fun h => ?notChosen, fun h hfirst => ?first, fun h hlater => ?later, ?loss⟩
  case notChosen => simp [execTimeSourceLock, h]
  case first => simp [execTimeSourceLock, h, hfirst]
  case later => simp [execTimeSourceLock, h, hlater]
  case loss =>
    unfold execTimeSourceLoss
    split <;> rfl

theorem hostWindow : HostWindow := by
  intro s off a
  refine ⟨?read, ?write⟩
  case read =>
    intro n hin r
    rw [hostRead_of_inside s hin]
    exact ⟨fun h => by rw [show s.feRead _ _ n = (r.1, none) from Prod.ext rfl h],
      fun bs h => by rw [show s.feRead _ _ n = (r.1, some bs) from Prod.ext rfl h]⟩
  case write =>
    intro n bs hin r
    rw [hostWrite_of_inside s hin]
    exact ⟨fun h => by rw [show s.feRuns _ _ _ _ bs.length = (r.1, none) from Prod.ext rfl h],
      fun runs h => by rw [show s.feRuns _ _ _ _ bs.length = (r.1, some runs) from Prod.ext rfl h]⟩

/-- Settles O48: a lock or loss by its branches, an access by what the front end's translation answers. -/
theorem timeAndHost : Obligations.TimeAndHost := ⟨timeSources, hostWindow⟩

/-! ### Reset, and the start of a gang (R15, R54, R61, R96, R378) -/

theorem atReset : AtReset := by
  have hcore (c : Nat) : State.reset.core c = {} := rfl
  have hdie (d : Nat) : State.reset.die d = {} := rfl
  have hqueue (q : Nat) : State.reset.queue q = {} := rfl
  refine ⟨rfl, rfl, rfl, rfl, rfl, rfl, fun q => ?_, fun c i hi => ?_, fun d => ?_, fun c x => ⟨rfl, rfl⟩, rfl, rfl, rfl⟩
  · simp [hqueue]
  · simp [hcore, vget_replicate _ _ hi]
  · simp [hdie]

theorem atStart : AtStart := by
  intro r g
  refine ⟨fun i => ?pcs, rfl, rfl, rfl, rfl, rfl, rfl, rfl, rfl, rfl, rfl, rfl, rfl, fun i _ => ?sregs, fun i _ => ?aregs,
    fun i hi => ?kregs, fun i _ => ?vregs, fun i hi => ⟨fun v hall hone => ?named, fun hnone => ?unnamed⟩⟩
  case pcs => simp [g, startGang]
  case sregs => simp [g, startGang, Gang.sreg, vget_replicate_self]
  case aregs => simp [g, startGang, Gang.areg, vget_replicate_self]
  case kregs => simp [g, startGang, Gang.kreg, Nat.ne_of_gt hi, vget_replicate_self]
  case vregs =>
    have hv : vget g.v i {} = {} := vget_replicate_self ..
    rw [hv]
    exact ⟨rfl, rfl, fun l hl => by simp [hl]⟩
  case named => exact vget_foldl_vput r.recs _ hi hall (.inl hone)
  case unnamed =>
    exact vget_foldl_vput r.recs _ hi (fun p hp he => absurd he (hnone p hp)) (.inr (vget_replicate_self ..))

/-- Settles O51: reset and a gang's start field by field, and the records by induction on the descriptor's entries. -/
theorem resetState : Obligations.ResetState := ⟨atReset, atStart⟩

end Sys2Proof.Safety
end

section
/-! SUPPORT. What instructions that end their run settle to, and what a noted fallback keeps of the issuing group. -/

namespace Sys2Proof.Machine

open Sys2Proof.Safety

variable {s : State} {c x : Nat}

/-! ### What a noted fallback keeps -/

theorem active_noteFallback (hs : (s.gang? c x).isSome) (fb : Bool) :
    ((noteFallback s c x fb).gang c x).active = (s.gang c x).active := by
  rw [gang_noteFallback hs]; split <;> rfl

theorem retStacks_noteFallback (hs : (s.gang? c x).isSome) (fb : Bool) :
    ((noteFallback s c x fb).gang c x).retStacks = (s.gang c x).retStacks := by
  rw [gang_noteFallback hs]; split <;> rfl

/-! ### Setting a gang from what it is -/

theorem State.setGang_gang (hs : (s.gang? c x).isSome) (f : Gang → Gang) :
    s.setGang c x (f (s.gang c x)) = s.modGang c x f := by
  obtain ⟨g, hg⟩ := Option.isSome_iff_exists.mp hs
  rw [State.modGang_of_some hg, State.gang_eq_of_gang? hg]

/-! ### Control transfers -/

theorem branchTo_eq_target {n : Nat} (pc : PC) (disp : BitVec n) : branchTo pc disp = target pc disp := by
  unfold branchTo target
  bv_omega

theorem all_sliceList (g : Gang) (p : Nat → Bool) : (sliceList g.active).all p = everySlice g p := by
  simp [sliceList, everySlice, List.all_filter]

theorem map_sliceLanes (g : Gang) (k : W) (i : Nat) :
    (sliceLanes g.lanes i).map (fun l => bit k l) = sliceBits g k i := by
  simp [sliceLanes, activeList, sliceBits, List.filter_filter, Bool.and_comm]

/-- An instruction that ends its run and leaves the gang changed by `u` settles to `endDone`, and what follows. -/
theorem settle_ends {v : State} {fb : Bool} {d : Done} {t : Trailer} (u : Gang → Gang) (hk : d.parks = none) (he : d.ends = some t)
    (hs : d.s = (noteFallback s c x fb).modGang c x u) (hv : d.val = none) (hd : d.dest = 0x7f) (hw : d.w = false)
    (ho : d.old = none) : settle v c x (.ok d) = d.post (endDone s c x fb d.size t u) := by
  rw [settle_ok hk, retire_ends he hs hv hd hw ho]

theorem settle_transfer {v : State} {fb : Bool} (u : Gang → Gang) :
    settle v c x (.ok (transfer ((noteFallback s c x fb).modGang c x u))) = endDone s c x fb 0 {} u :=
  settle_ends u rfl rfl rfl rfl rfl rfl rfl

/-- The same where the gang is set from what it is. -/
theorem settle_transfer_set {v : State} {fb : Bool} (hs : (s.gang? c x).isSome) (u : Gang → Gang) :
    settle v c x (.ok (transfer ((noteFallback s c x fb).setGang c x (u ((noteFallback s c x fb).gang c x))))) =
      endDone s c x fb 0 {} u := by
  rw [State.setGang_gang (gang?_noteFallback_isSome hs fb), settle_transfer]

/-- Retiring changes the gang first, so a change of it by `id` before makes no difference. -/
theorem retire_modGang_id (d : Done) : State.retire c x { d with s := d.s.modGang c x id } = State.retire c x d := by
  unfold State.retire
  simp only [State.modGang_modGang]
  rfl

/-- An instruction that ends its run and leaves the gang as it is settles to `endDone`, and what follows. -/
theorem settle_ends_id {v : State} {fb : Bool} (size : Nat) (t : Trailer) (post : State → State) :
    settle v c x (.ok { s := noteFallback s c x fb, size := size, ends := some t, post := post }) =
      post (endDone s c x fb size t id) := by
  rw [settle_ok rfl, ← retire_modGang_id]
  exact retire_ends rfl rfl rfl rfl rfl rfl

end Sys2Proof.Machine
end

section
/-! PROOFS. Control transfer (R66, R91 to R94). -/

namespace Sys2Proof.Safety

open Sys2Proof.Machine

variable {s : State} {c x : Nat}

theorem brNext_eq (pc : PC) (disp : BitVec 13) (taken : Bool) :
    brNext pc disp taken = if taken then target pc disp else pc + 4 := by
  rw [brNext, branchTo_eq_target]

/-- A branch with one outcome for the group. -/
theorem issueBr_of_ready {f : BR} {a b : W} (p : W → W → Bool)
    (h : Ready s c x { legal := true, fb := false, srcs := [uSrc f.a true, uSrc f.b true] } [.s a, .s b]) :
    issueBr s f p = .next (endDone s c x false 0 {} fun g =>
      g.splitTo fun _ => if p a b then target g.pc f.disp else g.pc + 4) := by
  rw [issueBr, issue_of_ready h]
  simp only [brNext_eq]
  exact congrArg _ (settle_transfer _)

/-- A branch that each slice decides by its bits of a k register. -/
theorem issueBk_of_ready {f : BR} (p : List Bool → Bool) (h : Ready s c x { legal := true, fb := brFallback f } []) :
    issueBk s f p = .next (endDone s c x (brFallback f) 0 {} fun g => g.splitTo fun i =>
      if p (sliceBits g (g.kreg (f.b.toNat % 8)) i) then target g.pc f.disp else g.pc + 4) := by
  rw [issueBk, issue_of_ready h]
  simp only [brNext_eq, map_sliceLanes]
  exact congrArg _ (settle_transfer _)

theorem not_ltS (a b : W) : (!ltS a b) = decide (b.toInt ≤ a.toInt) := by
  by_cases h : a.toInt < b.toInt
  · simp [ltS, sgn, h, Int.not_le.mpr h]
  · simp [ltS, sgn, h, Int.not_lt.mp h]

theorem not_ltU (a b : W) : (!ltU a b) = decide (b.toNat ≤ a.toNat) := by
  rw [Bool.eq_iff_iff]
  simp [ltU]

theorem exec_beq (f : BR) (s : State) : exec (.beq f) s = issueBr s f fun a b => a == b := rfl
theorem exec_bne (f : BR) (s : State) : exec (.bne f) s = issueBr s f fun a b => a != b := rfl
theorem exec_blt (f : BR) (s : State) : exec (.blt f) s = issueBr s f ltS := rfl
theorem exec_bge (f : BR) (s : State) : exec (.bge f) s = issueBr s f fun a b => !ltS a b := rfl
theorem exec_bltN (f : BR) (s : State) : exec (.bltN f) s = issueBr s f ltU := rfl
theorem exec_bgeN (f : BR) (s : State) : exec (.bgeN f) s = issueBr s f fun a b => !ltU a b := rfl
theorem exec_bkany (f : BR) (s : State) : exec (.bkany f) s = issueBk s f fun l => l.any id := rfl
theorem exec_bkall (f : BR) (s : State) : exec (.bkall f) s = issueBk s f fun l => l.all id := rfl
theorem exec_jmp (f : J) (s : State) : exec (.jmp f) s = execJmp f s := rfl
theorem exec_call (f : J) (s : State) : exec (.call f) s = execCall f s := rfl
theorem exec_ret (f : EX) (s : State) : exec (.ret f) s = execRet f s := rfl
theorem exec_jr (f : EX) (s : State) : exec (.jr f) s = execJr f s := rfl

/-- The branch of each condition. -/
theorem exec_branchOps {p : (BR → Instr) × (W → W → Bool)} (hp : p ∈ branchOps) (f : BR) (s : State) :
    exec (p.1 f) s = issueBr s f p.2 := by
  simp only [branchOps, List.mem_cons, List.not_mem_nil, or_false] at hp
  obtain rfl | rfl | rfl | rfl | rfl | rfl := hp
  · exact exec_beq f s
  · exact exec_bne f s
  · exact exec_blt f s
  · simp only [exec_bge, not_ltS]
  · exact exec_bltN f s
  · simp only [exec_bgeN, not_ltU]

theorem branches : Branches := by
  refine ⟨fun p hp f s c x a b h => ?conditions, fun f s c x h => ⟨?any, ?all⟩, fun f s c x h => ?jump⟩
  case conditions => rw [exec_branchOps hp, issueBr_of_ready p.2 h]
  case any => rw [exec_bkany, issueBk_of_ready _ h]
  case all => rw [exec_bkall, issueBk_of_ready _ h]
  case jump =>
    rw [exec_jmp, execJmp, issue_of_ready h]
    simp only [branchTo_eq_target]
    exact congrArg _ (settle_transfer _)

/-- The gang after `call`: PC + 4 is pushed on the stack of every issuing slice (R92). -/
def pushReturn (dst : PC) (g : Gang) : Gang :=
  { g with retStacks := Vector.ofFn fun i : Fin 8 => if bit g.active i.val then (g.pc + 4) :: g.retStacks[i] else g.retStacks[i] }.setPcs
    g.active dst

/-- The gang after `ret`: every issuing slice goes to what its stack's top names, which is popped (R92). -/
def popReturn (g : Gang) : Gang :=
  { (g.splitTo fun i => (vget g.retStacks i []).headD 0 &&& ~~~1) with
    retStacks := Vector.ofFn fun i : Fin 8 => if bit g.active i.val then g.retStacks[i].tail else g.retStacks[i] }

/-- Every issuing slice may push, or may pop: a noted fallback changes no stack. -/
theorem everySlice_noteFallback (hs : (s.gang? c x).isSome) (fb : Bool) (p : List PC → Bool) :
    (everySlice ((noteFallback s c x fb).gang c x) fun i => p (vget ((noteFallback s c x fb).gang c x).retStacks i [])) =
      everySlice (s.gang c x) fun i => p (vget (s.gang c x).retStacks i []) := by
  simp only [everySlice, active_noteFallback hs, retStacks_noteFallback hs]

theorem call_of_ready {f : J} (h : Ready s c x { legal := true, fb := false } []) :
    exec (.call f) s = .next (if everySlice (s.gang c x) (fun i => decide ((vget (s.gang c x).retStacks i []).length < 8)) then
      endDone s c x false 0 {} fun g => pushReturn (target g.pc f.disp) g
      else s.takeFault c x eRstk 0 0 0 0) := by
  have hs := State.issuer_gang h.issues
  rw [exec_call, execCall, issue_of_ready h, settle_need, all_sliceList,
    everySlice_noteFallback hs false fun l => decide (l.length < 8)]
  have hbody := settle_transfer_set (v := s) (fb := false) hs fun g => pushReturn (target g.pc f.disp) g
  simp only [noteFallback_false, branchTo_eq_target] at hbody ⊢
  exact congrArg _ (congrArg (ite _ · _) hbody)

theorem ret_of_ready {f : EX} (h : Ready s c x (exForm .zero .zero .zero f) []) :
    exec (.ret f) s = .next (if everySlice (s.gang c x) (fun i => !(vget (s.gang c x).retStacks i []).isEmpty) then
      endDone s c x (exFallback .zero .zero .zero f) 0 {} popReturn
      else (noteFallback s c x (exFallback .zero .zero .zero f)).takeFault c x eRstk 0 0 0 0) := by
  have hs := State.issuer_gang h.issues
  rw [exec_ret, execRet, issue_of_ready h, settle_need, all_sliceList, everySlice_noteFallback hs _ fun l => !l.isEmpty]
  exact congrArg _ (congrArg (ite _ · _) (settle_transfer_set hs popReturn))

theorem jr_of_ready {f : EX} {a : W} (h : Ready s c x (exForm .zero .read .zero f) [.s a]) :
    exec (.jr f) s = .next (if (!bit a 0) = true then
      endDone s c x (exFallback .zero .read .zero f) 0 {} fun g => g.setPcs g.active (g.pc.extractLsb' 32 16 ++ a)
      else (noteFallback s c x (exFallback .zero .read .zero f)).takeFault c x eAlign 0 0 0 0) := by
  rw [exec_jr, execJr, issue_of_ready h, settle_need]
  exact congrArg _ (congrArg (ite _ · _) (settle_transfer _))

theorem callsAndReturns : CallsAndReturns := by
  refine ⟨?call, ?ret, ?jr⟩
  case call =>
    intro f s c x h room
    exact ⟨fun hroom => (call_of_ready h).trans (congrArg _ (if_pos hroom)),
      fun hfull => (call_of_ready h).trans (congrArg _ (if_neg (Bool.eq_false_iff.mp hfull)))⟩
  case ret =>
    intro f s c x h fb some1
    exact ⟨fun hsome => (ret_of_ready h).trans (congrArg _ (if_pos hsome)),
      fun hnone => (ret_of_ready h).trans (congrArg _ (if_neg (Bool.eq_false_iff.mp hnone)))⟩
  case jr =>
    intro f s c x a h fb
    exact ⟨fun heven => (jr_of_ready h).trans (congrArg _ (if_pos (by simp [heven]))),
      fun hodd => (jr_of_ready h).trans (congrArg _ (if_neg (by simp [hodd])))⟩

/-- Settles O15: each transfer settles to `endDone` of the change that it makes, or takes its fault. -/
theorem controlFlow : Obligations.ControlFlow := ⟨branches, callsAndReturns⟩

end Sys2Proof.Safety
end

section
/-! PROOFS. Runs and groups (R64, R67, R76, R77, R83 to R86, R90, R249). -/

namespace Sys2Proof.Machine

open Sys2Proof.Safety

variable {s : State} {c x : Nat}

/-! ### What a noted fallback keeps of the accesses -/

theorem accs_noteFallback (fb : Bool) : ((noteFallback s c x fb).core c).accs = (s.core c).accs := by
  unfold noteFallback
  split
  · rw [State.core_modGang_self]
  · rfl

theorem acqPending_noteFallback (fb : Bool) : (noteFallback s c x fb).acqPending c x = s.acqPending c x := by
  unfold State.acqPending
  rw [accs_noteFallback]

/-! ### What the end of a run keeps -/

@[simp] theorem crew_freeSlot (s : State) (c x c' q : Nat) : (s.freeSlot c x).crew c' q = s.crew c' q := by
  unfold State.freeSlot State.crew
  by_cases h : c = c'
  · subst h
    rw [State.core_modCore_self]
  · rw [State.core_modCore_of_ne _ _ h]

theorem crew_endDone (fb : Bool) (size : Nat) (t : Trailer) (u : Gang → Gang) (c' q : Nat) :
    (endDone s c x fb size t u).crew c' q = s.crew c' q := by
  rw [endDone, crew_freeSlot, State.crew_modGang, crew_noteFallback]

/-! ### What the plaza may not execute (R279) -/

/-- An instruction that the plaza may not execute: its fault there, elsewhere its body. -/
theorem settle_notPlaza (v : State) (k : Unit → Except Stop Done) :
    settle v c x (notPlaza x >>= k) = if x = 64 then v.takeFault c x ePerm 0 0 0 0 else settle v c x (k ()) := by
  by_cases hx : x = 64
  · subst hx
    rfl
  · rw [notPlaza_ok hx, if_neg hx]
    rfl

end Sys2Proof.Machine

namespace Sys2Proof.Safety

open Sys2Proof.Machine

theorem exec_nop (f : EX) (s : State) : exec (.nop f) s = execNop f s := rfl
theorem exec_isync (f : EX) (s : State) : exec (.isync f) s = execIsync f s := rfl
theorem exec_yield (f : EX) (s : State) : exec (.yield f) s = execYield f s := rfl
theorem exec_endrun (f : EndrunF) (s : State) : exec (.endrun f) s = execEndrun f s := rfl
theorem exec_regang (f : EX) (s : State) : exec (.regang f) s = execRegang f s := rfl
theorem exec_exit (f : EX) (s : State) : exec (.exit f) s = execExit f s := rfl
theorem exec_contextAged (c x : Nat) (s : State) : exec (.contextAged c x) s = execContextAged c x s := rfl
theorem exec_implicitTrailer (c x : Nat) (s : State) : exec (.implicitTrailer c x) s = execImplicitTrailer c x s := rfl

variable {s : State} {c x : Nat} {f : EX}

theorem nop_of_ready (h : Ready s c x (exForm .zero .zero .zero f) []) :
    exec (.nop f) s = .next (plainDone s c x (exFallback .zero .zero .zero f)) := by
  rw [exec_nop, execNop, issue_of_ready h]
  exact congrArg _ (settle_done (State.issuer_gang h.issues) _)

theorem isync_of_ready (h : Ready s c x (exForm .zero .zero .zero f) []) :
    exec (.isync f) s = .next (if (!s.acqPending c x) = true then plainDone s c x (exFallback .zero .zero .zero f)
      else (noteFallback s c x (exFallback .zero .zero .zero f)).park c x .engine 2) := by
  rw [exec_isync, execIsync, issue_of_ready h, settle_need_park, acqPending_noteFallback]
  exact congrArg _ (congrArg (ite _ · _) (settle_done (State.issuer_gang h.issues) _))

theorem yield_of_ready (h : Ready s c x (exForm .zero .zero .zero f) []) :
    exec (.yield f) s = .next (if x = 64 then
        (noteFallback s c x (exFallback .zero .zero .zero f)).takeFault c x ePerm 0 0 0 0
      else (endDone s c x (exFallback .zero .zero .zero f) 4 {} id).modCore c fun k =>
        { k with last := vput k.last (s.crew c (x / 16)).prio x }) := by
  rw [exec_yield, execYield, issue_of_ready h, settle_notPlaza]
  refine congrArg _ (congrArg (ite _ _ ·) ((settle_ends_id 4 {} _).trans ?_))
  rw [crew_endDone]
  rfl

theorem endrunTrailer_eq (f : EndrunF) : endrunTrailer f =
    { x := f.x, y := f.y, n := if 64 ≤ f.y.toNat then 0 else BitVec.ofNat 4 (min f.n.toNat (63 - f.y.toNat)) } := by
  unfold endrunTrailer
  split <;> rfl

theorem endrun_of_ready {f : EndrunF}
    (h : Ready s c x { legal := endrunLegal f, fb := endrunFallback f,
                       names := (if f.x.toNat < 64 then [(f.x.toNat, 1)] else []) ++
                         if f.y.toNat < 64 then [(f.y.toNat, 1)] else [] } []) :
    exec (.endrun f) s = .next (endDone s c x (endrunFallback f) 4 (endrunTrailer f) id) := by
  rw [exec_endrun, execEndrun, issue_of_ready h]
  exact congrArg _ (settle_ends_id 4 _ _)

theorem runControl : RunControl := by
  refine ⟨?plain, ?endrun⟩
  case plain =>
    intro f s c x h fb
    refine ⟨nop_of_ready h, fun hfree => ?_, fun hacq => ?_, fun hx => ?_, fun hx => ?_⟩
    · exact (isync_of_ready h).trans (congrArg _ (if_pos (by simp [hfree])))
    · exact (isync_of_ready h).trans (congrArg _ (if_neg (by simp [hacq])))
    · exact (yield_of_ready h).trans (congrArg _ (if_neg hx))
    · exact (yield_of_ready h).trans (congrArg _ (if_pos hx))
  case endrun =>
    intro f s c x nm h
    rw [endrun_of_ready h, endrunTrailer_eq]

theorem regang_of_ready (h : Ready s c x (exForm .zero .zero .zero f) []) :
    exec (.regang f) s = .next ((endDone s c x (exFallback .zero .zero .zero f) 0 {} id).modGang c x fun g =>
      (g.modGroup fun q => { q with park := some (.regang, 0) }).regang) := by
  rw [exec_regang, execRegang, issue_of_ready h]
  exact congrArg _ (settle_ends_id 0 {} _)

/-- The gang after its issuing slices have ended, and the check of R76 that follows (R77). -/
def exited (g : Gang) : Gang :=
  { g with live := g.live &&& ~~~g.active, groups := g.groups.filter fun q => q.slices != g.active }.regang

theorem exit_of_ready (h : Ready s c x (exForm .zero .zero .zero f) []) :
    exec (.exit f) s = .next (if x = 64 then
        (noteFallback s c x (exFallback .zero .zero .zero f)).takeFault c x ePerm 0 0 0 0
      else
        let e := (endDone s c x (exFallback .zero .zero .zero f) 0 {} id).modGang c x exited
        if (e.gang c x).live = 0 then e.endGang c x else e) := by
  rw [exec_exit, execExit, issue_of_ready h, settle_notPlaza]
  exact congrArg _ (congrArg (ite _ _ ·) (settle_ends_id 0 {} _))

theorem regangAndExit : RegangAndExit := by
  intro f s c x h fb t e
  exact ⟨regang_of_ready h, fun hx => (exit_of_ready h).trans (congrArg _ (if_neg hx)),
    fun hx => (exit_of_ready h).trans (congrArg _ (if_pos hx))⟩

theorem runsAge : RunsAge := by
  intro s c x
  constructor
  · rw [exec_contextAged, execContextAged]
    congr 2
    funext g
    by_cases h : 256 ≤ g.age <;> simp [h]
  · rw [exec_implicitTrailer, execImplicitTrailer]
    split <;> rfl

/-- Settles O16: what ends a run settles to `endDone` and what follows it, the others to `plainDone`, a park or a fault. -/
theorem runsAndGroups : Obligations.RunsAndGroups := ⟨runControl, regangAndExit, runsAge⟩

end Sys2Proof.Safety
end

section
/-! PROOFS. The control instructions on masks, tiles, roles and control registers (R88, R89, R119 to R122, R126, R279). -/

namespace Sys2Proof.Machine

open Sys2Proof.Safety

variable {s : State} {c x : Nat}

theorem time_noteFallback (fb : Bool) : (noteFallback s c x fb).time = s.time := by
  unfold noteFallback
  split
  · rw [State.modGang_time]
  · rfl

/-- An instruction with no result that changes its gang by what neither reads nor writes what a fallback notes. -/
theorem settle_done_modGang {v : State} {fb : Bool} {u : Gang → Gang} (hs : (s.gang? c x).isSome)
    (hp : ∀ g, (u g).group.held = g.group.held) (hu : ∀ g, u g.setWmod = (u g).setWmod) :
    settle v c x (.ok (done ((noteFallback s c x fb).modGang c x u))) = plainDone (s.modGang c x u) c x fb := by
  rw [settle_done_any, plainDone, plainDone, State.modGang_modGang, State.modGang_modGang, noteFallback_modGang hs]
  refine State.modGang_congr fun g _ => ?_
  rw [← retired_noted_zero fb 4 noResult (u g), hp]
  split
  · rw [hu]
  · rfl

/-- A mask is fixed by its bits. -/
theorem eq_of_bit {n : Nat} {a b : BitVec n} (h : ∀ i < n, bit a i = bit b i) : a = b :=
  BitVec.eq_of_getLsbD_eq fun i hi => h i hi

theorem bit_or {n : Nat} (a b : BitVec n) (i : Nat) : bit (a ||| b) i = (bit a i || bit b i) := BitVec.getLsbD_or

theorem bit_and {n : Nat} (a b : BitVec n) (i : Nat) : bit (a &&& b) i = (bit a i && bit b i) := BitVec.getLsbD_and

theorem bit_not {n : Nat} (a : BitVec n) {i : Nat} (h : i < n) : bit (~~~a) i = !bit a i := by
  simp [bit, h]

/-- The bits of the issuing slices' lanes are replaced, the others kept (R88). -/
theorem Gang.setKuse_eq (g : Gang) (m : W) :
    g.setKuse m = { g with kuse := maskOf 32 fun l => if bit g.active (l / 4) then bit m l else bit g.kuse l } := by
  unfold Gang.setKuse
  congr 1
  refine eq_of_bit fun i hi => ?_
  have hl : bit (lanesOf g.active) i = bit g.active (i / 4) := by
    rw [lanesOf, bit_maskOf, decide_eq_true hi, Bool.true_and]
  rw [bit_maskOf, bit_or, bit_and, bit_and, bit_not _ hi, hl, decide_eq_true hi, Bool.true_and]
  cases bit g.active (i / 4) <;> simp

theorem ctlWritable_eq (n : Nat) : ctlWritable n = decide (n = 0 ∨ n = 4 ∨ n = 5 ∨ n = 6 ∨ n = 11) := by
  rw [Bool.eq_iff_iff]
  simp [ctlWritable, or_assoc]

theorem ptileOf_eq (code : BitVec 3) : ptileOf code = BitVec.ofNat 3 (max 1 (min 5 code.toNat)) := by
  revert code
  decide

theorem wrctl_ptile (a : W) :
    ptileOf (a.setWidth 3) = BitVec.ofNat 3 (if a.toNat % 8 = 0 then 1 else min 5 (a.toNat % 8)) := by
  rw [ptileOf_eq, BitVec.toNat_setWidth]
  congr 1
  split <;> omega

end Sys2Proof.Machine

namespace Sys2Proof.Safety

open Sys2Proof.Machine

theorem exec_setpt (f : SetptF) (s : State) : exec (.setpt f) s = execSetpt f s := rfl
theorem exec_elect (f : ElectF) (s : State) : exec (.elect f) s = execElect f s := rfl
theorem exec_rdctl (f : EX) (s : State) : exec (.rdctl f) s = execRdctl f s := rfl
theorem exec_wrctl (f : EX) (s : State) : exec (.wrctl f) s = execWrctl f s := rfl
theorem exec_kuse (f : EX) (s : State) : exec (.kuse f) s = execKuse f s := rfl

theorem setptCompletes : SetptCompletes := by
  intro f s c x h
  rw [exec_setpt, execSetpt, issue_of_ready h, ← ptileOf_eq]
  exact congrArg _ (settle_done_modGang (State.issuer_gang h.issues) (fun _ => rfl) fun _ => rfl)

theorem electCompletes : ElectCompletes := by
  intro f s c x h held
  rw [exec_elect, execElect, issue_of_ready h, settle_notPlaza, noteFallback_false]
  refine ⟨fun hx => ?outside, fun hx => ?plaza⟩
  case outside =>
    rw [if_neg hx]
    exact congrArg _ (settle_done_any _)
  case plaza => rw [if_pos hx]

theorem rdctlCompletes : RdctlCompletes := by
  intro f s c x n fb h s'
  rw [exec_rdctl, execRdctl, issue_of_ready h]
  refine congrArg _ ((settle_doneS_any _ _ _).trans ?_)
  rw [State.ns, time_noteFallback]

theorem writeCtl_gstat (g : Gang) (a : W) :
    g.writeCtl 0 a = { g with gstat := (g.gstat &&& ~~~(a.setWidth 14)) ||| g.raised } := rfl

theorem writeCtl_rmode (g : Gang) (a : W) : g.writeCtl 5 a = { g with rmode := a.setWidth 2 } := rfl

theorem writeCtl_mxc (g : Gang) (a : W) : g.writeCtl 11 a = { g with mxc := a } := rfl

/-- PTILE as `wrctl` writes it, and where that is a fallback. -/
theorem writeCtl_ptile (g : Gang) (a : W) : g.writeCtl 4 a =
    { (if a.toNat % 8 = 0 ∨ 6 ≤ a.toNat % 8 then g.setWmod else g) with
      ptile := BitVec.ofNat 3 (if a.toNat % 8 = 0 then 1 else min 5 (a.toNat % 8)) } := by
  have hc : (decide ((a.setWidth 3 : BitVec 3) = 0) || decide (6 ≤ (a.setWidth 3 : BitVec 3).toNat)) =
      decide (a.toNat % 8 = 0 ∨ 6 ≤ a.toNat % 8) := by
    rw [Bool.eq_iff_iff]
    simp [BitVec.toNat_eq]
  unfold Gang.writeCtl
  simp only [wrctl_ptile, hc, decide_eq_true_eq]

theorem wrctl_of_ready {s : State} {c x : Nat} {f : EX} {fb : Bool} {a : W}
    (hfb : fb = (exFallback .zero .read (.idx 32) f || !ctlWritable f.b.toNat))
    (h : Ready s c x { exForm .zero .read (.idx 32) f (ctlWritable f.b.toNat && f.b.toNat != 6) with fb := fb } [.s a]) :
    exec (.wrctl f) s =
      .next (plainDone ((noteFallback s c x fb).modGang c x fun g => g.writeCtl f.b.toNat a) c x false) := by
  subst hfb
  rw [exec_wrctl, execWrctl, issue_of_ready h]
  exact congrArg _ (settle_done_any _)

theorem wrctlCompletes : WrctlCompletes := by
  intro f s c x a n ok fb h
  have hw : ctlWritable n = decide ok := ctlWritable_eq n
  rw [← hw] at h
  rw [wrctl_of_ready (congrArg (_ || !·) hw).symm h]
  refine congrArg (fun u => Host.Outcome.next (plainDone (State.modGang _ c x u) c x false)) (funext fun g => ?_)
  change g.writeCtl n a = _
  clear_value n
  by_cases h0 : n = 0
  · rw [h0]; exact writeCtl_gstat g a
  by_cases h4 : n = 4
  · rw [h4]; exact writeCtl_ptile g a
  by_cases h5 : n = 5
  · rw [h5]; exact writeCtl_rmode g a
  by_cases h6 : n = 6
  · rw [h6]; exact g.setKuse_eq a
  by_cases h11 : n = 11
  · rw [h11]; exact writeCtl_mxc g a
  simp [Gang.writeCtl]

/-- Settles O17: each instruction by what its body settles to, `wrctl` by the number of its register. -/
theorem gangControl : Obligations.GangControl := ⟨setptCompletes, electCompletes, rdctlCompletes, wrctlCompletes⟩

end Sys2Proof.Safety
end

section
/-! PROOFS. Lane masks (R88). -/

namespace Sys2Proof.Safety

open Sys2Proof.Machine

variable {s : State} {c x : Nat}

theorem kuse_of_ready {f : EX} (h : Ready s c x (exForm .zero (.idx 8) .zero f) []) :
    exec (.kuse f) s = .next (plainDone (s.modGang c x fun g => g.setKuse (g.kreg f.a.toNat)) c x
      (exFallback .zero (.idx 8) .zero f)) := by
  rw [exec_kuse, execKuse, issue_of_ready h]
  exact congrArg _ (settle_done_modGang (State.issuer_gang h.issues) (fun _ => rfl) fun _ => rfl)

/-- An instruction with no result leaves its gang retired. -/
theorem gang_plainDone (hs : (s.gang? c x).isSome) (fb : Bool) :
    (plainDone s c x fb).gang c x = retired fb 0 4 noResult (s.gang c x) := State.gang_modGang_self hs _

theorem lanes_retired (fb : Bool) (fl : BitVec 14) (size : Nat) (e : WinEntry) (g : Gang) :
    (retired fb fl size e g).lanes = g.lanes := rfl

theorem kuse_retired (fb : Bool) (fl : BitVec 14) (size : Nat) (e : WinEntry) (g : Gang) :
    (retired fb fl size e g).kuse = g.kuse := rfl

theorem readCtl_kuse (s : State) (c x : Nat) : s.readCtl c x 6 = (s.gang c x).kuse := rfl

/-- An active lane is one of a live issuing slice whose KUSE bit is set (R73). -/
theorem bit_lanes (g : Gang) {l : Nat} (hl : l < 32) :
    bit g.lanes l = (bit g.active (l / 4) && bit g.live (l / 4) && bit g.kuse l) := by
  rw [Gang.lanes, bit_maskOf, decide_eq_true hl, Bool.true_and, bit_and]

/-- k0 reads all ones (R96). -/
theorem bit_kreg_zero (g : Gang) {l : Nat} (hl : l < 32) : bit (g.kreg 0) l = true := by
  rw [show g.kreg 0 = BitVec.allOnes 32 from rfl, bit, BitVec.getLsbD_allOnes, decide_eq_true hl]

theorem decode_kuse_k2 :
    decodeTableWord 32 0x00201231 = some (.kuse { d := 0, bd := 0, a := 2, ba := 0, b := 0, bb := 0 }) := rfl

/-- Settles O19: the new KUSE is a mask made bit by bit, and retiring keeps it. -/
theorem laneMasks : Obligations.LaneMasks := by
  refine ⟨?_, decode_kuse_k2⟩
  intro f s c x h new
  have hs := State.issuer_gang h.issues
  have hu : (s.modGang c x fun g => g.setKuse (g.kreg f.a.toNat)) = s.modGang c x fun g => { g with kuse := new } :=
    State.modGang_congr fun g hg => by rw [Gang.setKuse_eq, ← State.gang_eq_of_gang? hg]
  have hg : (plainDone (s.modGang c x fun g => { g with kuse := new }) c x (exFallback .zero (.idx 8) .zero f)).gang c x =
      retired (exFallback .zero (.idx 8) .zero f) 0 4 noResult { s.gang c x with kuse := new } := by
    rw [gang_plainDone (by simpa [State.gang?_modGang_self] using hs), State.gang_modGang_self hs]
  have hbit (l : Nat) (hl : l < 32) : bit new l =
      if bit (s.gang c x).active (l / 4) then bit ((s.gang c x).kreg f.a.toNat) l else bit (s.gang c x).kuse l := by
    rw [bit_maskOf, decide_eq_true hl, Bool.true_and]
  refine ⟨_, (kuse_of_ready h).trans (by rw [hu]), rfl, ?kuse, ?read, fun l hl ha => ⟨?bits, fun hz => ?ones, ?lanes⟩,
    fun l hl ha => ?others⟩
  case kuse => rw [hg, kuse_retired]
  case read => rw [readCtl_kuse, hg, kuse_retired]
  case bits => rw [hbit l hl, if_pos ha]
  case ones => rw [hbit l hl, if_pos ha, hz]; exact bit_kreg_zero _ hl
  case lanes => rw [hg, lanes_retired, bit_lanes _ hl, ha, Bool.true_and]
  case others => rw [hbit l hl, if_neg (by simp [ha])]

end Sys2Proof.Safety
end

section
/-! SUPPORT. What taking a fault leaves to read: the gangs, the issue slots, the record number, the ring and memory (R79, R401,
R402). -/

namespace Sys2Proof.Machine

open Sys2Proof.Safety

/-! ### Posting a record (R401) -/

theorem core_put (s : State) (k : Nat) (bs : List Byte) (c : Nat) : (s.put k bs).core c = s.core c := by
  rw [State.core, State.put_cores, State.core]

theorem core_sendMsi (s : State) (m : Msi) (c : Nat) : (s.sendMsi m).core c = s.core c := by
  unfold State.sendMsi
  dsimp only
  split <;> rfl

theorem mem_sendMsi (s : State) (m : Msi) : (s.sendMsi m).mem = s.mem := by
  unfold State.sendMsi
  dsimp only
  split <;> rfl

theorem msis_sendMsi (s : State) (m : Msi) : (s.sendMsi m).msis = s.msis ++ [m] := by
  unfold State.sendMsi
  dsimp only
  split <;> rfl

theorem mem_put (s : State) (k : Nat) (bs : List Byte) : (s.put k bs).mem = writeBytes s.mem k bs := rfl

theorem ring_of_core {s t : State} {c : Nat} (h : (t.core c).rings = (s.core c).rings) (q : Nat) :
    t.ring (.place c q) = s.ring (.place c q) := by
  rw [State.ring, State.ring, h]

theorem ring_setRing_place (s : State) (c : Nat) {q : Nat} (hq : q < 4) (r : Ring) :
    (s.setRing (.place c q) r).ring (.place c q) = r := by
  rw [State.ring, State.setRing, State.core_modCore_self, vget_vput_self _ _ _ _ hq]

theorem core_setRing_place (s : State) (c q : Nat) (r : Ring) :
    (s.setRing (.place c q) r).core c = { s.core c with rings := vput (s.core c).rings q r } :=
  State.core_modCore_self ..

/-- Posting a record changes the rings of its core, and no other field of it. -/
theorem core_post_place (s : State) (c q : Nat) (rc : Rec) :
    (s.post (.place c q) rc).core c = { s.core c with rings := ((s.post (.place c q) rc).core c).rings } := by
  unfold State.post
  dsimp only
  split
  · rw [core_setRing_place]
  · unfold State.postNow
    rw [core_sendMsi, core_setRing_place, core_put]

section
variable {s : State} {i : RingId} {rc : Rec}

theorem post_of_room (hf : (s.ring i).isFull = false) (hw : (s.ring i).waiting = []) : s.post i rc = s.postNow i rc := by
  simp [State.post, hf, hw]

theorem post_of_no_room (h : ¬ ((s.ring i).isFull = false ∧ (s.ring i).waiting = [])) :
    s.post i rc = s.setRing i { s.ring i with waiting := (s.ring i).waiting ++ [rc] } := by
  have hc : ((s.ring i).isFull || !(s.ring i).waiting.isEmpty) = true := by
    cases hf : (s.ring i).isFull with
    | true => rfl
    | false =>
      have hw : (s.ring i).waiting ≠ [] := fun e => h ⟨hf, e⟩
      rw [Bool.false_or, List.isEmpty_eq_false_iff.mpr hw, Bool.not_false]
  rw [State.post]
  exact if_pos hc

theorem mem_postNow (s : State) (i : RingId) (rc : Rec) : (s.postNow i rc).mem =
    writeBytes s.mem (hbmKey ((s.ring i).base.getD 0 + 32 * ((s.ring i).fqw.toNat % 64))) (recBytes rc) := by
  rw [State.postNow, mem_sendMsi, State.setRing_mem, mem_put]

theorem msis_postNow (s : State) (i : RingId) (rc : Rec) : (s.postNow i rc).msis =
    s.msis ++ [{ addr := (s.ring i).msiAddr, data := (s.ring i).msiData, mode := 1 }] := by
  rw [State.postNow, msis_sendMsi, State.setRing_msis, State.put_msis]

theorem ring_postNow_place (s : State) (c : Nat) {q : Nat} (hq : q < 4) (rc : Rec) :
    (s.postNow (.place c q) rc).ring (.place c q) = { s.ring (.place c q) with fqw := (s.ring (.place c q)).fqw + 1 } := by
  rw [State.postNow, ring_of_core (congrArg Core.rings (core_sendMsi ..)), ring_setRing_place _ _ hq]

end

/-! ### Halting a gang -/

/-- The state in which a posted record's gang halts: what its instruction waited for is dropped, and its slot is free. -/
def State.halt (s : State) (c x : Nat) (pc : PC) (rc : Rec) : State :=
  (((s.modCore c fun k => k.dropWaits x pc).dropAnswers c x pc).modGang c x fun g =>
    { g.modGroup (fun q => { q with held := none }) with halt := some rc }).freeSlot c x

section
variable {s : State} {c x : Nat} {pc : PC} {rc : Rec}

theorem gang?_freeSlot (s : State) (c x c' x' : Nat) : (s.freeSlot c x).gang? c' x' = s.gang? c' x' :=
  gang?_modCore_of_gangs _ _ _ _ _ fun _ => rfl

theorem core_dropAnswers (s : State) (c x : Nat) (pc : PC) : (s.dropAnswers c x pc).core c =
    { s.core c with kvQ := (s.core c).kvQ.filter fun m => !(m.ctx == x && m.pc == pc && m.ans.isSome) } :=
  State.core_modCore_self s c fun k => { k with kvQ := k.kvQ.filter fun m => !(m.ctx == x && m.pc == pc && m.ans.isSome) }

/-- What a faulting instruction waited for is no gang. -/
theorem gang?_dropped (s : State) (c x : Nat) (pc : PC) (y : Nat) :
    ((s.modCore c fun k => k.dropWaits x pc).dropAnswers c x pc).gang? c y = s.gang? c y := by
  rw [State.gang?, core_dropAnswers, State.core_modCore_self]
  rfl

theorem gang?_halt (s : State) (c x : Nat) (pc : PC) (rc : Rec) : (s.halt c x pc rc).gang? c x =
    (s.gang? c x).map fun g => { g.modGroup (fun q => { q with held := none }) with halt := some rc } := by
  rw [State.halt, gang?_freeSlot, State.gang?_modGang_self, gang?_dropped]

theorem gang?_halt_of_ne {y : Nat} (h : x ≠ y) : (s.halt c x pc rc).gang? c y = s.gang? c y := by
  rw [State.halt, gang?_freeSlot, State.gang?_modGang_of_ne _ _ (.inr h), gang?_dropped]

theorem seq_halt : ((s.halt c x pc rc).core c).seq = (s.core c).seq := by
  rw [State.halt, State.freeSlot, State.core_modCore_self, State.core_modGang_self, core_dropAnswers, State.core_modCore_self]
  rfl

theorem rings_halt : ((s.halt c x pc rc).core c).rings = (s.core c).rings := by
  rw [State.halt, State.freeSlot, State.core_modCore_self, State.core_modGang_self, core_dropAnswers, State.core_modCore_self]
  rfl

theorem slots_freeSlot (s : State) (c x : Nat) (i : Fin 4) : ((s.freeSlot c x).core c).slots[i] ≠ some x := by
  rw [State.freeSlot, State.core_modCore_self]
  simp

theorem mem_halt : (s.halt c x pc rc).mem = s.mem := by
  rw [State.halt, State.freeSlot_mem, State.modGang_mem]
  rfl

theorem msis_halt : (s.halt c x pc rc).msis = s.msis := by
  rw [State.halt, State.freeSlot_msis, State.modGang_msis]
  rfl

end

/-! ### Taking a fault in a crew's context -/

/-- The record of a fault in a crew's context (R402). -/
def State.crewRec (s : State) (c x : Nat) (code cause : Byte) (info : W) (aux : PC) (fl : Byte) : Rec :=
  { code := code, b1 := cause, b2 := fl, gang := BitVec.ofNat 8 x, info := info, pc := (s.gang c x).pc,
    asid := (s.crew c (x / 16)).asid, b15 := (s.gang c x).active, aux := aux, core := gidOf c, seq := (s.core c).seq }

section
variable {s : State} {c x : Nat} {code cause : Byte} {info : W} {aux : PC} {fl : Byte}

theorem gang_takeSeq (s : State) (c c' x : Nat) : (s.takeSeq c).2.gang c' x = s.gang c' x := by
  rw [State.gang_eq_gang?, gang?_takeSeq, State.gang_eq_gang?]

theorem crew_takeSeq (s : State) (c q : Nat) : (s.takeSeq c).2.crew c q = s.crew c q := by
  rw [State.crew, State.takeSeq, State.core_modCore_self, State.crew]

theorem faultRec_eq (hx : x < 64) :
    (s.takeSeq c).2.faultRec c x code cause info aux fl (s.core c).seq = s.crewRec c x code cause info aux fl := by
  have hp : isPlaza x = false := by simp [isPlaza, Nat.ne_of_lt hx]
  simp [State.faultRec, State.crewRec, hp, gang_takeSeq, gidReg, State.asidOf, crew_takeSeq, crewSlot]

/-- A gang of a crew that takes a fault uses its core's next record number, posts the record and halts. -/
theorem takeFault_eq (hx : x < 64) : s.takeFault c x code cause info aux fl =
    ((s.takeSeq c).2.post (.place c (x / 16)) (s.crewRec c x code cause info aux fl)).halt c x (s.gang c x).pc
      (s.crewRec c x code cause info aux fl) := by
  have hp : isPlaza x = false := by simp [isPlaza, Nat.ne_of_lt hx]
  have hg (rc : Rec) : (((s.takeSeq c).2.post (.place c (x / 16)) rc).modCore c fun k =>
      k.dropWaits x (s.gang c x).pc).gang c x = s.gang c x := by
    rw [State.gang_eq_gang?, gang?_dropWaits, gang?_post, gang?_takeSeq, State.gang_eq_gang?]
  rw [State.takeFault]
  simp only [hp, Bool.false_eq_true, if_false, ringOf, crewSlot, gang_takeSeq]
  rw [show (s.takeSeq c).1 = (s.core c).seq from rfl, faultRec_eq hx, hg]
  rfl

end

end Sys2Proof.Machine
end

section
/-! PROOFS. Taking a fault (R79, R401, R402), and `trap` and `brk` (R87). -/

namespace Sys2Proof.Safety

open Sys2Proof.Machine

theorem faultsTaken : FaultsTaken := by
  intro s c x code cause info aux fl hx hs t rc ring room
  have ht : t = ((s.takeSeq c).2.post (.place c (x / 16)) rc).halt c x (s.gang c x).pc rc := takeFault_eq hx
  have hring (q : Nat) : (s.takeSeq c).2.ring (.place c q) = s.ring (.place c q) :=
    ring_of_core (by rw [State.takeSeq, State.core_modCore_self]) q
  have hposted : room → (s.takeSeq c).2.post (.place c (x / 16)) rc = (s.takeSeq c).2.postNow (.place c (x / 16)) rc := by
    rintro ⟨hf, hw⟩
    exact post_of_room ((congrArg Ring.isFull (hring _)).trans hf) ((congrArg Ring.waiting (hring _)).trans hw)
  have hheld : ¬ room → (s.takeSeq c).2.post (.place c (x / 16)) rc =
      (s.takeSeq c).2.setRing (.place c (x / 16)) { ring with waiting := ring.waiting ++ [rc] } := by
    intro hroom
    rw [post_of_no_room (by rw [hring]; exact hroom), hring]
  refine ⟨?gang, fun y hy => ?others, fun i => ?slots, ?seq, fun hq hroom => ⟨?fqw, ?mem, ?msis⟩,
    fun hq hroom => ⟨?kept, ?waiting⟩⟩
  case gang =>
    obtain ⟨g, hg⟩ := Option.isSome_iff_exists.mp hs
    rw [State.gang_eq_gang?, ht, gang?_halt, gang?_post, gang?_takeSeq, hg, State.gang_eq_of_gang? hg]
    rfl
  case others => rw [ht, gang?_halt_of_ne hy.symm, gang?_post, gang?_takeSeq]
  case slots => rw [ht]; exact slots_freeSlot _ c x i
  case seq => rw [ht, seq_halt, core_post_place, State.takeSeq, State.core_modCore_self]
  case fqw => rw [ht, ring_of_core rings_halt, hposted hroom, ring_postNow_place _ _ hq, hring]
  case mem =>
    rw [ht, mem_halt, hposted hroom, mem_postNow, hring]
    rfl
  case msis =>
    rw [ht, msis_halt, hposted hroom, msis_postNow, hring]
    rfl
  case kept =>
    rw [ht, mem_halt, hheld hroom, State.setRing_mem]
    rfl
  case waiting => rw [ht, ring_of_core rings_halt, hheld hroom, ring_setRing_place _ _ hq]

/-- Settles O54: the record is posted with or without room, and then the gang halts. -/
theorem takingFaults : Obligations.TakingFaults := faultsTaken

theorem exec_trap (f : TrapF) (s : State) : exec (.trap f) s = execTrap f s := rfl
theorem exec_brk (f : EX) (s : State) : exec (.brk f) s = execBrk f s := rfl

theorem trap_of_ready {s : State} {c x : Nat} {f : TrapF} (h : Ready s c x { legal := true, fb := false } []) :
    exec (.trap f) s = .next ((noteFallback s c x false).takeFault c x 0x10 0 (f.code.setWidth 32) 0 0) := by
  rw [exec_trap, execTrap, issue_of_ready h]
  rfl

theorem brk_of_ready {s : State} {c x : Nat} {f : EX} (h : Ready s c x (exForm .zero .zero .zero f) []) :
    exec (.brk f) s = .next ((noteFallback s c x (exFallback .zero .zero .zero f)).takeFault c x 0x11 0 0 0 0) := by
  rw [exec_brk, execBrk, issue_of_ready h]
  rfl

/-- A gang that resumes from a `trap` or a `brk` goes on behind it (R87). -/
theorem resume_of_trap {g : Gang} {rc : Rec} (h : g.halt = some rc) (hc : rc.code = 0x10 ∨ rc.code = 0x11) : g.resume =
    { g with halt := none, pcs := Vector.ofFn fun k : Fin 8 => if bit g.active k.val then g.pc + 4 else g.pcs[k] } := by
  have hb : (rc.code = eTrap || rc.code = eBrk) = true := by
    rw [Bool.or_eq_true, decide_eq_true_iff, decide_eq_true_iff]
    exact hc
  simp only [Gang.resume, h, hb, if_true]
  rfl

/-- From any other fault it goes on where it halted (R79). -/
theorem resume_of_not_trap {g : Gang} {rc : Rec} (h : g.halt = some rc) (hc : ¬ (rc.code = 0x10 ∨ rc.code = 0x11)) :
    g.resume = { g with halt := none } := by
  have hb : ¬ (rc.code = eTrap || rc.code = eBrk) = true := by
    rw [Bool.or_eq_true, decide_eq_true_iff, decide_eq_true_iff]
    exact hc
  simp only [Gang.resume, h]
  rw [if_neg hb]

theorem decode_trap_2a : decodeTableWord 32 0x000a8c31 = some (.trap { code := 0x2a }) := rfl

/-- Settles O18: both take their fault, and the record that halts the gang holds the code by which `resume` steps on. -/
theorem trapAndBreak : Obligations.TrapAndBreak := by
  refine ⟨?_, decode_trap_2a⟩
  intro s c x i code info fb hx hi g
  have hfault : (s.gang? c x).isSome ∧ (code = 0x10 ∨ code = 0x11) ∧
      exec i s = .next ((noteFallback s c x fb).takeFault c x code 0 info 0 0) := by
    obtain ⟨f, rfl, rfl, rfl, rfl, h⟩ | ⟨f, rfl, rfl, rfl, rfl, h⟩ := hi
    · exact ⟨State.issuer_gang h.issues, .inl rfl, trap_of_ready h⟩
    · exact ⟨State.issuer_gang h.issues, .inr rfl, brk_of_ready h⟩
  obtain ⟨hs, hc, hexec⟩ := hfault
  obtain ⟨hgang, _⟩ := faultsTaken (noteFallback s c x fb) c x code 0 info 0 0 hx (gang?_noteFallback_isSome hs fb)
  refine ⟨_, _, hexec, rfl, hgang, rfl, rfl, rfl, pc_noteFallback hs fb, ?_⟩
  rw [hgang]
  exact resume_of_trap rfl hc

end Sys2Proof.Safety
end

section
/-! PROOFS. Crew commands, saving and pre-emption (R79, R80, R352, R404 to R407). -/

namespace Sys2Proof.Safety

open Sys2Proof.Machine

variable {s : State} {t : CCmd} {c : Nat}

theorem exec_resume (die : Nat) (t : CCmd) (s : State) : exec (.resume die t) s = execResume die t s := rfl
theorem exec_handler (die : Nat) (t : CCmd) (s : State) : exec (.handler die t) s = execHandler die t s := rfl
theorem exec_kill (die : Nat) (t : CCmd) (s : State) : exec (.kill die t) s = execKill die t s := rfl
theorem exec_save (die : Nat) (t : CCmd) (s : State) : exec (.save die t) s = execSave die t s := rfl
theorem exec_restore (die : Nat) (t : CCmd) (s : State) : exec (.restore die t) s = execRestore die t s := rfl
theorem exec_saveComplete (c : Nat) (s : State) : exec (.saveComplete c) s = execSaveComplete c s := rfl

/-- A command that its die's queue takes acts; a full queue discards it. -/
theorem crewCommand_eq (die : Nat) (s : State) (act : State → State) : crewCommand die s act = crewDone die s (act s) := by
  unfold crewCommand crewDone
  by_cases h : (s.die die).cqUsed < 32
  · rw [if_neg (Nat.not_le.mpr h), if_pos h]
  · rw [if_pos (Nat.not_lt.mp h), if_neg h]

/-! ### Letting halted gangs go (R79, R404, R405) -/

theorem faulted_iff {x : Nat} : s.faulted c x = true ↔ ∃ r, (s.gang? c x).bind (·.halt) = some r :=
  Option.isSome_iff_exists

theorem mem_gangIdx {m : BitVec 16} {g : Nat} : g ∈ gangIdx m ↔ g < 16 ∧ bit m g = true := by
  simp [gangIdx]

/-- The indices of the gangs of slot `q` that a fault halts. -/
def haltedIdx (s : State) (c q : Nat) : List Nat := (List.range 16).filter fun g => s.faulted c (q * 16 + g)

theorem mem_haltedIdx {q g : Nat} : g ∈ haltedIdx s c q ↔ g < 16 ∧ s.faulted c (q * 16 + g) = true := by
  simp [haltedIdx]

theorem letGo_of_many (f : Gang → Gang) (h : 2 ≤ (cmdSlots t).length) : s.letGo t f = s.endCrewCmd t 1 := by
  unfold State.letGo
  split
  · next e => simp [e] at h
  · next e => simp [e] at h
  · rfl

theorem letGo_of_none (f : Gang → Gang) (h : cmdSlots t = []) : s.letGo t f = s.endCrewCmd t 2 := by
  simp only [State.letGo, h]

theorem letGo_of_one (f : Gang → Gang) {q : Nat} (h : cmdSlots t = [q]) :
    s.letGo t f =
      let halted := haltedIdx s (coreOf t.core.toNat) q
      if (t.gangs = 0xffff ∧ halted = []) ∨ (t.gangs ≠ 0xffff ∧ ∃ g ∈ gangIdx t.gangs, g ∉ halted) then s.endCrewCmd t 2
      else ((if t.gangs = 0xffff then halted else gangIdx t.gangs).foldl (fun (u : State) g =>
        u.modGang (coreOf t.core.toNat) (q * 16 + g) f) s).endCrewCmd t 0 := by
  simp only [State.letGo, h, haltedIdx, Bool.or_eq_true, Bool.and_eq_true, beq_iff_eq, bne_iff_ne, List.isEmpty_iff,
    List.any_eq_true, Bool.not_eq_true', List.contains_eq_mem, decide_eq_false_iff_not]
  congr

theorem haltedIdx_eq_nil {q : Nat} : haltedIdx s c q = [] ↔ ∀ g < 16, ¬ s.faulted c (q * 16 + g) = true := by
  simp [haltedIdx]

/-- The gangs that are named are not all halted: none acts. -/
theorem letGo_not_halted (f : Gang → Gang) {q : Nat} (h : cmdSlots t = [q])
    (hn : (t.gangs = 0xffff ∧ ∀ g < 16, ¬ s.faulted (coreOf t.core.toNat) (q * 16 + g) = true) ∨
      (t.gangs ≠ 0xffff ∧ ∃ g < 16, bit t.gangs g = true ∧ ¬ s.faulted (coreOf t.core.toNat) (q * 16 + g) = true)) :
    s.letGo t f = s.endCrewCmd t 2 := by
  rw [letGo_of_one f h]
  refine if_pos ?_
  obtain ⟨hall, hnone⟩ | ⟨hsome, g, hg, hb, hf⟩ := hn
  · exact .inl ⟨hall, haltedIdx_eq_nil.mpr hnone⟩
  · exact .inr ⟨hsome, g, mem_gangIdx.mpr ⟨hg, hb⟩, fun hm => hf (mem_haltedIdx.mp hm).2⟩

theorem letGo_named (f : Gang → Gang) {q : Nat} (h : cmdSlots t = [q]) (hne : t.gangs ≠ 0xffff)
    (hall : ∀ g < 16, bit t.gangs g = true → s.faulted (coreOf t.core.toNat) (q * 16 + g) = true) :
    s.letGo t f = ((gangIdx t.gangs).foldl (fun (u : State) g =>
      u.modGang (coreOf t.core.toNat) (q * 16 + g) f) s).endCrewCmd t 0 := by
  rw [letGo_of_one f h]
  dsimp only
  rw [if_neg, if_neg hne]
  rintro (⟨he, _⟩ | ⟨_, g, hm, hn⟩)
  · exact hne he
  · obtain ⟨hg, hb⟩ := mem_gangIdx.mp hm
    exact hn (mem_haltedIdx.mpr ⟨hg, hall g hg hb⟩)

theorem letGo_all (f : Gang → Gang) {q : Nat} (h : cmdSlots t = [q]) (he : t.gangs = 0xffff)
    (hsome : ∃ g < 16, s.faulted (coreOf t.core.toNat) (q * 16 + g) = true) :
    s.letGo t f = ((haltedIdx s (coreOf t.core.toNat) q).foldl (fun (u : State) g =>
      u.modGang (coreOf t.core.toNat) (q * 16 + g) f) s).endCrewCmd t 0 := by
  rw [letGo_of_one f h]
  dsimp only
  rw [if_neg, if_pos he]
  rintro (⟨_, hnil⟩ | ⟨hne, _⟩)
  · obtain ⟨g, hg, hf⟩ := hsome
    exact haltedIdx_eq_nil.mp hnil g hg hf
  · exact hne he

/-- What RESUME and HANDLER do once their command is good. -/
theorem resume_of_good {die : Nat} (h : s.ccmdBad t = false) :
    exec (.resume die t) s = crewDone die s (s.letGo t Gang.resume) := by
  rw [exec_resume, execResume, crewCommand_eq, if_neg (by simp [h])]

theorem handler_of_good {die : Nat} (h : s.ccmdBad t = false) (ha : t.addr.toNat < 2 ^ 48) (hb : bit t.addr 0 = false) :
    exec (.handler die t) s = crewDone die s (s.letGo t fun g => g.handler (t.addr.setWidth 48)) := by
  rw [exec_handler, execHandler, crewCommand_eq, if_neg (by simpa [h, hb] using ha)]

theorem handler_of_bad {die : Nat} (h : s.ccmdBad t = true ∨ 2 ^ 48 ≤ t.addr.toNat ∨ bit t.addr 0 = true) :
    exec (.handler die t) s = crewDone die s (s.endCrewCmd t 1) := by
  rw [exec_handler, execHandler, crewCommand_eq, if_pos (by simpa [or_assoc] using h)]

theorem lettingGo : LettingGo := by
  intro s die t c halted
  refine ⟨fun hbad => ⟨?resume, ?handler, ?kill⟩, fun hgood haddr => ?address, fun p hp hgood haddr => ?letGo, fun hgood => ?kills⟩
  case resume => rw [exec_resume, execResume, crewCommand_eq, if_pos hbad]
  case handler => exact handler_of_bad (.inl hbad)
  case kill => rw [exec_kill, execKill, crewCommand_eq, if_pos hbad]
  case address => exact handler_of_bad (.inr haddr)
  case kills =>
    rw [exec_kill, execKill, crewCommand_eq, if_neg (by simp [hgood])]
    rfl
  case letGo =>
    have hexec : exec p.1 s = crewDone die s (s.letGo t p.2) := by
      simp only [List.mem_cons, List.not_mem_nil, or_false] at hp
      obtain rfl | rfl := hp
      · exact resume_of_good hgood
      · obtain ⟨ha, hb⟩ := haddr rfl
        exact handler_of_good hgood ha hb
    simp only [hexec, halted, ← faulted_iff]
    refine ⟨fun hmany => ?_, fun hnone => ?_, fun q hq => ⟨fun hn => ?_, fun hne hall => ?_, fun he hsome => ?_⟩⟩
    · rw [letGo_of_many _ hmany]
    · rw [letGo_of_none _ hnone]
    · rw [letGo_not_halted _ hq hn]
    · rw [letGo_named _ hq hne hall]; rfl
    · rw [letGo_all _ hq he hsome]; rfl

/-! ### Returns from a fault (R79, R405) -/

theorem resume_halt {g : Gang} {r : Rec} (h : g.halt = some r) : g.resume.halt = none := by
  by_cases hc : r.code = 0x10 ∨ r.code = 0x11
  · rw [resume_of_trap h hc]
  · rw [resume_of_not_trap h hc]

theorem resume_pcs {g : Gang} {r : Rec} (h : g.halt = some r) (i : Fin 8) :
    g.resume.pcs[i] = if bit g.active i.val ∧ (r.code = 0x10 ∨ r.code = 0x11) then g.pc + 4 else g.pcs[i] := by
  by_cases hc : r.code = 0x10 ∨ r.code = 0x11
  · rw [resume_of_trap h hc]
    simp only [hc, and_true, Fin.getElem_fin, Vector.getElem_ofFn]
  · rw [resume_of_not_trap h hc, if_neg fun hb => hc hb.2]

/-- A uniform register other than the one written. -/
theorem sreg_setSreg_of_ne (g : Gang) {i j : Nat} (r : SReg) (h : i ≠ j) : (g.setSreg i r).sreg j = g.sreg j := by
  by_cases hi : i = 0
  · rw [Gang.setSreg, if_pos hi]
  · rw [Gang.setSreg, if_neg hi, Gang.sreg, vget_vput_of_ne _ _ _ _ _ h, Gang.sreg]

theorem sreg_setSreg_self (g : Gang) {i : Nat} (r : SReg) (h0 : i ≠ 0) (hi : i < 32) : (g.setSreg i r).sreg i = r := by
  rw [Gang.setSreg, if_neg h0, Gang.sreg, if_neg h0, vget_vput_self _ _ _ _ hi]

/-- What a handler finds: word 0 of the record in s31 of a new run of the faulting group (R405). -/
theorem handler_eq {g : Gang} {r : Rec} (h : g.halt = some r) (pc : PC) :
    g.handler pc = { ((((g.commit 1 95).setSreg 31 { g.sreg 31 with val := recWord0 r, fe := .full }).modGroup fun q =>
      { q with park := none, held := none, trailer := {}, inRound := false }).setPcs g.active pc) with
      halt := none, window := [], runCnt := 0, run := g.active } := by
  simp only [Gang.handler, h]
  rfl

theorem returns : Returns := by
  intro g r h
  refine ⟨resume_halt h, resume_pcs h, fun pc => ?_⟩
  rw [handler_eq h]
  refine ⟨rfl, ?val, ?fe, fun d hd => ?others, rfl, rfl, rfl, fun i => ?pcs⟩
  case val => exact congrArg SReg.val (sreg_setSreg_self (g.commit 1 95) _ (by decide) (by decide))
  case fe => exact congrArg SReg.fe (sreg_setSreg_self (g.commit 1 95) _ (by decide) (by decide))
  case others => exact sreg_setSreg_of_ne (g.commit 1 95) _ (by omega)
  case pcs => simp [Gang.setPcs, Gang.modGroup, Gang.setSreg, Gang.commit]

/-! ### SAVE and RESTORE (R215, R352, R406, R407) -/

section
variable {die : Nat}

theorem save_of_bad (h : (s.ccmdBad t || !saveBaseOk t.addr) = true ∨
    ∃ q ∈ cmdSlots t, (s.crew (coreOf t.core.toNat) q).allEnded = true) :
    exec (.save die t) s = crewDone die s (s.endCrewCmd t 1) := by
  rw [exec_save, execSave, crewCommand_eq]
  refine congrArg _ (if_pos ?_)
  rwa [Bool.or_eq_true, List.any_eq_true]

/-- The crews that a command names begin to be saved, the i-th into the i-th area; the last one reports (R406). -/
def beginSave (s : State) (die : Nat) (t : CCmd) : State :=
  (((cmdSlots t).zip (List.range (cmdSlots t).length)).foldl (fun (u : State) p =>
    u.modCrew (coreOf t.core.toNat) p.1 fun w =>
      { w with saving := some { base := saveArea t.addr.toNat p.2, die := die,
                                done := if p.2 + 1 = (cmdSlots t).length then some (t.done.toNat, t.tag) else none } }) s).modDie die
    fun d => { d with cqUsed := d.cqUsed + 1 }

/-- A crew of the command is saved already, or is being saved. -/
def someSaved (s : State) (t : CCmd) : Bool :=
  (cmdSlots t).any fun q => (s.crew (coreOf t.core.toNat) q).saved.isSome || (s.crew (coreOf t.core.toNat) q).saving.isSome

theorem someSaved_iff : someSaved s t = true ↔ ∃ q ∈ cmdSlots t,
    (s.crew (coreOf t.core.toNat) q).saved ≠ none ∨ (s.crew (coreOf t.core.toNat) q).saving ≠ none := by
  simp only [someSaved, List.any_eq_true, Bool.or_eq_true, Option.isSome_iff_ne_none]

/-- What SAVE does once its command is good and none of its crews has ended. -/
theorem save_of_good (h : (s.ccmdBad t || !saveBaseOk t.addr) = false)
    (hl : ∀ q ∈ cmdSlots t, (s.crew (coreOf t.core.toNat) q).allEnded = false) :
    exec (.save die t) s = crewDone die s (if someSaved s t then s.endCrewCmd t 4
      else if (cmdSlots t).isEmpty then s.endCrewCmd t 0 else beginSave s die t) := by
  rw [exec_save, execSave, crewCommand_eq]
  refine congrArg _ (if_neg ?_)
  rw [h, Bool.false_or, List.any_eq_true]
  rintro ⟨q, hq, he⟩
  exact Bool.eq_false_iff.mp (hl q hq) he

theorem restore_of_bad (h : (s.ccmdBad t || !saveBaseOk t.addr) = true) :
    exec (.restore die t) s = crewDone die s (s.endCrewCmd t 1) := by
  rw [exec_restore, execRestore, crewCommand_eq, if_pos h]

/-- A crew of the command is not saved. -/
theorem restore_of_unsaved (h : (s.ccmdBad t || !saveBaseOk t.addr) = false)
    (hn : ∃ q ∈ cmdSlots t, (s.crew (coreOf t.core.toNat) q).saved = none) :
    exec (.restore die t) s = crewDone die s (s.endCrewCmd t 4) := by
  rw [exec_restore, execRestore, crewCommand_eq, if_neg (Bool.eq_false_iff.mp h)]
  refine congrArg _ (if_pos ?_)
  simpa only [List.any_eq_true, Option.isNone_iff_eq_none] using hn

/-- The areas of a RESTORE, by crew slot. -/
def restoreAreas (t : CCmd) : List (Nat × Nat) := (cmdSlots t).zip ((List.range 4).map (saveArea t.addr.toNat))

/-- What the areas of a RESTORE hold, as the caches show it. -/
def reloads (v : State) (c : Nat) (areas : List (Nat × Nat)) : List Reload := areas.map fun p =>
  { slot := p.1, gangs := v.areaGangs c p.1 p.2, shares := v.areaShares p.2 (v.areaGangs c p.1 p.2) (v.crew c p.1).sns }

/-- The crews are put back, and their gangs take the verdicts that came meanwhile and act on their marks (R352, R407). -/
def putBack (v : State) (c : Nat) (rs : List Reload) : State :=
  (rs.flatMap fun r => r.gangs.map (·.1)).foldl (fun (u : State) x => (u.takeVerdicts c x).actMark c x)
    (rs.foldl (fun (u : State) r => u.reload c r) v)

/-- What RESTORE does once its command is good and its crews are saved. -/
theorem restore_of_saved (h : (s.ccmdBad t || !saveBaseOk t.addr) = false)
    (hs : ∀ q ∈ cmdSlots t, (s.crew (coreOf t.core.toNat) q).saved ≠ none) :
    exec (.restore die t) s = crewDone die s (
      let c := coreOf t.core.toNat
      let v := s.seeAreas c (restoreAreas t)
      let rs := reloads v c (restoreAreas t)
      if (restoreAreas t).any (fun p => !v.areaOk c p.1 p.2) then v.endCrewCmd t 5
      else if !v.reloadFits c rs then v.endCrewCmd t 3 else (putBack v c rs).endCrewCmd t 0) := by
  rw [exec_restore, execRestore, crewCommand_eq, if_neg (Bool.eq_false_iff.mp h)]
  refine congrArg _ (if_neg ?_)
  simpa only [List.any_eq_true, Option.isNone_iff_eq_none, not_exists, not_and] using hs

end

theorem saveRestore : SaveRestore := by
  refine ⟨?commands, fun s c => exec_saveComplete c s⟩
  intro s die t c n bad
  refine ⟨fun hbad => ⟨save_of_bad (.inl hbad), restore_of_bad hbad⟩, fun hgood hend => save_of_bad (.inr hend), fun hgood hnil => ?none,
    fun hgood hlive => ⟨fun hsaved => ?saved, fun hfresh hne => ?save⟩, fun hgood => ?restore⟩
  case none =>
    rw [save_of_good hgood (by simp [hnil]), if_neg (by simp [someSaved, hnil]), if_pos (by simp [hnil])]
  case saved => rw [save_of_good hgood hlive, if_pos (someSaved_iff.mpr hsaved)]
  case save =>
    rw [save_of_good hgood hlive, if_neg, if_neg (by simpa using hne)]
    · rfl
    · rw [someSaved_iff]
      rintro ⟨q, hq, hs⟩
      obtain ⟨hsaved, hsaving⟩ := hfresh q hq
      exact hs.elim (· hsaved) (· hsaving)
  case restore =>
    intro areas v rs
    have hany : (areas.any fun p => !v.areaOk c p.1 p.2) = true ↔ ∃ p ∈ areas, v.areaOk c p.1 p.2 = false := by
      simp only [List.any_eq_true, Bool.not_eq_true']
    refine ⟨restore_of_unsaved hgood, fun hsaved => ⟨fun hbadArea => ?malformed, fun hok => ?wellFormed⟩⟩
    case malformed =>
      rw [restore_of_saved hgood hsaved]
      exact congrArg _ (if_pos (hany.mpr hbadArea))
    case wellFormed =>
      have hnone : ¬ ∃ p ∈ areas, v.areaOk c p.1 p.2 = false := fun ⟨p, hp, hbad⟩ => by simp [hok p hp] at hbad
      rw [restore_of_saved hgood hsaved]
      refine congrArg _ ((if_neg (mt hany.mp hnone)).trans ?_)
      cases hf : v.reloadFits c rs
      · exact if_pos (congrArg (!·) hf)
      · exact if_neg (Bool.eq_false_iff.mp (congrArg (!·) hf))

/-- Settles O46: each command by what it checks, RESUME and HANDLER by the gangs that are halted. -/
theorem crewCommands : Obligations.CrewCommands := ⟨lettingGo, returns, saveRestore⟩

end Sys2Proof.Safety
end

section
/-! PROOFS. How accesses and page lookups end (R94, R102, R150, R151, R191, R202, R214, R217, R218, R237, R238). -/

namespace Sys2Proof.Safety

open Sys2Proof.Machine

theorem exec_accessAck (c n i : Nat) (s : State) : exec (.accessAck c n i) s = execAccessAck c n i s := rfl
theorem exec_bridgeCountReport (c n unit : Nat) (s : State) :
    exec (.bridgeCountReport c n unit) s = execBridgeCountReport c n unit s := rfl
theorem exec_loadCompletion (c n : Nat) (s : State) : exec (.loadCompletion c n) s = execLoadCompletion c n s := rfl
theorem exec_translationLookupEnd (c x : Nat) (s : State) :
    exec (.translationLookupEnd c x) s = execTranslationLookupEnd c x s := rfl

section
variable {s : State} {c n : Nat} {a : Access}

/-! ### Acknowledgements (R237) -/

/-- The state once the unit that holds the count of a performed line has counted it off. -/
def acked (s : State) (c : Nat) (a : Access) (ln : LineAcc) : State :=
  match ln.bridge with
  | some u => s.countBridge u c a.ctx 0 ln.home (· - 1)
  | none => s.countHome c a.ctx 0 ln.home (· - 1)

/-- The access with a line acknowledged. -/
def lineDone (a : Access) (i : Nat) (ln : LineAcc) : Access := { a with lines := a.lines.set i { ln with st := .done } }

/-- Only a performed line is acknowledged. -/
theorem accessAck_of_not_performed {i : Nat} {ln : LineAcc} (h : s.acc c n = some a) (hl : a.lines[i]? = some ln)
    (hp : ln.st ≠ .performed) : exec (.accessAck c n i) s = .next s := by
  simp only [exec_accessAck, execAccessAck, h, hl]
  exact if_pos (bne_iff_ne.mpr hp)

theorem accessAck_of_performed {i : Nat} {ln : LineAcc} (h : s.acc c n = some a) (hl : a.lines[i]? = some ln)
    (hp : ln.st = .performed) : exec (.accessAck c n i) s = .next (
      if a.dst = .none ∧ (lineDone a i ln).allDone = true then
        ((acked s c a ln).modCore c fun k => { k with accs := sdel k.accs n }).reap c a.ctx
      else (acked s c a ln).setAcc c n (lineDone a i ln)) := by
  simp only [exec_accessAck, execAccessAck, h, hl]
  rw [if_neg (by simp [hp])]
  have hc : (a.dst == .none && (lineDone a i ln).allDone) = true ↔ a.dst = .none ∧ (lineDone a i ln).allDone = true := by
    rw [Bool.and_eq_true, beq_iff_eq]
  by_cases hd : a.dst = .none ∧ (lineDone a i ln).allDone = true
  · rw [if_pos hd]
    exact if_pos (hc.mpr hd)
  · rw [if_neg hd]
    exact if_neg (mt hc.mp hd)

/-! ### Reports of marked units (R238) -/

/-- An access of the gang that issued before still has a line at the unit. -/
def holdsEarlier (s : State) (c n : Nat) (a : Access) (unit : Nat) : Bool :=
  (s.core c).accs.any fun p => p.1 < n && p.2.ctx == a.ctx && p.2.op != .load &&
    p.2.lines.any fun l => l.bridge.or (s.exitUnit c l.home) == some unit && (l.st == .sent || l.st == .performed)

theorem report_of_zero {unit : Nat} (h : s.acc c n = some a) (hm : unit ∈ a.marked) (hr : unit ∉ a.reported)
    (he : holdsEarlier s c n a unit = false) (hz : ∀ sc < 5, sgetD s.bridges (bridgeKey unit c a.ctx 0 sc) 0 = 0) :
    exec (.bridgeCountReport c n unit) s = .next (s.setAcc c n { a with reported := a.reported ++ [unit] }) := by
  simp only [exec_bridgeCountReport, execBridgeCountReport, h]
  refine if_pos ?_
  have hall : ((List.range 5).all fun sc => sgetD s.bridges (bridgeKey unit c a.ctx 0 sc) 0 == 0) = true := by
    simpa using hz
  rw [hall, List.contains_iff_mem.mpr hm, show (!a.reported.contains unit) = true by simpa using hr, Bool.and_true,
    Bool.true_and, Bool.true_and]
  exact congrArg (!·) he

theorem report_of_not {unit : Nat} (h : s.acc c n = some a)
    (hn : unit ∉ a.marked ∨ unit ∈ a.reported ∨ holdsEarlier s c n a unit = true) :
    exec (.bridgeCountReport c n unit) s = .next s := by
  simp only [exec_bridgeCountReport, execBridgeCountReport, h]
  refine if_neg fun hand => ?_
  simp only [Bool.and_eq_true, Bool.not_eq_true', List.contains_iff_mem] at hand
  obtain ⟨⟨⟨hmarked, hnew⟩, hfree⟩, _⟩ := hand
  obtain hm | hr | he := hn
  · exact hm hmarked
  · exact Bool.eq_false_iff.mp hnew (List.contains_iff_mem.mpr hr)
  · exact Bool.eq_false_iff.mp hfree he

/-! ### Loads (R102, R150, R151, R191) -/

theorem loadCompletion_of_pending (h : s.acc c n = some a) (hd : a.allDone = false) :
    exec (.loadCompletion c n) s = .next s := by
  simp only [exec_loadCompletion, execLoadCompletion, h]
  split
  · exact if_neg (by simp [hd])
  · exact if_pos (by simp [hd])

/-- The destination of a load into registers, when its data have returned, is filled or poisoned (R191). -/
theorem loadCompletion_s {i : Nat} (h : s.acc c n = some a) (hd : a.allDone = true) (hc : a.cancelled = false)
    (hdst : a.dst = .s i) :
    let s' := s.modCore c fun k => { k with accs := sdel k.accs n }
    exec (.loadCompletion c n) s = .next ((if a.poison then s'.poisonS c a.ctx i 3
      else s'.fillS c a.ctx i ((a.lanes.head?.map fun l => loadValue a.conv a.width l.data).getD 0)).reap c a.ctx) := by
  intro s'
  simp only [exec_loadCompletion, execLoadCompletion, h, hdst, hd, hc, Access.awaited]
  cases a.lanes <;> rfl

theorem loadCompletion_v {v : Nat} (h : s.acc c n = some a) (hd : a.allDone = true) (hc : a.cancelled = false)
    (hdst : a.dst = .v v 1) :
    let s' := s.modCore c fun k => { k with accs := sdel k.accs n }
    exec (.loadCompletion c n) s = .next ((if a.poison then s'.poisonV c a.ctx a.binds v 3
      else s'.fillV c a.ctx a.binds v a.oob (Lanes.splat 0) a.tag).reap c a.ctx) := by
  intro s'
  simp only [exec_loadCompletion, execLoadCompletion, h, hdst, hd, hc, Access.awaited]
  rfl

theorem loadCompletion_cb {i : Nat} {l : LaneAcc} (h : s.acc c n = some a) (hdst : a.dst = .cb i) (hd : a.allDone = true)
    (hg : a.given = false) (hp : a.poison = false) (hf : s.cbFirst c a.ctx n i = true) (hl : a.lanes = [l]) :
    exec (.loadCompletion c n) s = .next ((s.setAcc c n { a with given := true }).writeCb c a.ctx i l.data) := by
  simp only [exec_loadCompletion, execLoadCompletion, h, hdst, hd, hg, hp, hf, hl]
  rfl

theorem accessCompletes : AccessCompletes := by
  intro s c n a h
  refine ⟨fun i ln hl => ?ack, fun unit => ?report, fun hd => loadCompletion_of_pending h hd, fun hd hc => ?registers,
    fun i hdst hd hg hp hf l hl => loadCompletion_cb h hdst hd hg hp hf hl⟩
  case ack =>
    intro s' b
    refine ⟨accessAck_of_not_performed h hl, fun hp hmore => ?_, fun hp hnone hall => ?_⟩
    · rw [accessAck_of_performed h hl hp]
      refine congrArg _ (if_neg ?_)
      rintro ⟨hnone, hall⟩
      exact hmore.elim (· hnone) fun hn => Bool.eq_false_iff.mp hn hall
    · rw [accessAck_of_performed h hl hp]
      exact congrArg _ (if_pos ⟨hnone, hall⟩)
  case report =>
    intro holds
    exact ⟨fun hm hr he hz => report_of_zero h hm hr he hz, fun hn => report_of_not h hn⟩
  case registers =>
    intro s'
    exact ⟨fun i hdst => loadCompletion_s h hd hc hdst, fun v hdst => loadCompletion_v h hd hc hdst⟩

end

/-! ### Lookups (R94, R202, R214, R217, R218) -/

theorem lookupsEnd : LookupsEnd := by
  intro s c x
  refine ⟨fun h => ?idle, fun h t r hr => ?fetch, fun n a t unf fs h ha ht => ?access⟩
  case idle => rw [exec_translationLookupEnd, execTranslationLookupEnd, h]
  case fetch =>
    rw [exec_translationLookupEnd, execTranslationLookupEnd, h]
    cases r <;> simp only [State.endLookup, hr]
  case access =>
    rw [exec_translationLookupEnd, execTranslationLookupEnd, h]
    cases fs with
    | nil => simp only [State.endLookup, ha, ht, if_true]
    | cons f fs => simp only [State.endLookup, ha, ht, List.cons_ne_nil, if_false]

/-- Settles O22: each step of an access by the state of its line or its destination, a lookup by what it finds. -/
theorem accessesEnd : Obligations.AccessesEnd := ⟨accessCompletes, lookupsEnd⟩

end Sys2Proof.Safety
end

section
/-! SUPPORT. What each lane instruction and compare issues, in the terms of the tables of lane operations (R128 to R136, R153). -/

namespace Sys2Proof.Machine

open Sys2Proof.Safety

variable {s : State} {c x : Nat}

/-! ### Lane functions as the tables write them -/

theorem ltS_iff (a b : W) : ltS a b = true ↔ a.toInt < b.toInt := decide_eq_true_iff

theorem ltU_iff (a b : W) : ltU a b = true ↔ a.toNat < b.toNat := decide_eq_true_iff

theorem opMinI_eq (a b : W) : opMinI a b = (if b.toInt < a.toInt then b else a, 0) := by
  simp only [opMinI, minS, ltS_iff, plain]

theorem opMaxI_eq (a b : W) : opMaxI a b = (if a.toInt < b.toInt then b else a, 0) := by
  simp only [opMaxI, maxS, ltS_iff, plain]

theorem opMinN_eq (a b : W) : opMinN a b = (if b.toNat < a.toNat then b else a, 0) := by
  simp only [opMinN, minU, ltU_iff, plain]

theorem opMaxN_eq (a b : W) : opMaxN a b = (if a.toNat < b.toNat then b else a, 0) := by
  simp only [opMaxN, maxU, ltU_iff, plain]

/-- The model adds the accumulator in front of the products, `dot` behind them. -/
theorem dotTotal_eq_dot (n : Nat) (p q : W → Nat → Int) (d : Int) (a b : W) : dotTotal n p q d a b = dot n p q d a b :=
  Int.add_comm ..

theorem cmpI_not_ltS (a b : W) : cmpI (fun a b => !ltS a b) a b = (decide (b.toInt ≤ a.toInt), 0) :=
  congrArg (·, 0) (not_ltS a b)

theorem cmpI_not_ltU (a b : W) : cmpI (fun a b => !ltU a b) a b = (decide (b.toNat ≤ a.toNat), 0) :=
  congrArg (·, 0) (not_ltU a b)

theorem int_beq_eq_decide (i j : Int) : (i == j) = decide (i = j) := rfl

theorem int_bne_eq_decide (i j : Int) : (i != j) = decide (i ≠ j) := by
  rw [bne, int_beq_eq_decide, decide_not]

/-- A floating compare is decided by its condition on ordered values. -/
theorem cmpF_eq_fcmp {p p' : Int → Int → Bool} (h : ∀ i j, p i j = p' i j) (u q : Bool) : cmpF p u q = fcmp p' u q := by
  rw [show p = p' from funext fun i => funext (h i)]
  rfl

/-! ### What a row of a table says that its instruction issues -/

/-- The rounding mode is that of the issuing gang. -/
theorem State.rnd_of_issuer (h : s.issuer = some (c, x)) : s.rnd = (s.gang c x).rnd := by
  simp only [State.rnd, State.issuer_cur h]

/-- The instruction of a row is issued with the row's formats, tag and operation, in the rounding mode at issue. -/
def IssuesV2 (p : Lane2) : Prop :=
  ∀ (f : T3) (s : State), exec (p.1 f) s = issueV2 s f p.2.1 (fun _ => p.2.2.1) (p.2.2.2 s.rnd)

/-- The same of one source. -/
def IssuesV1 (p : Lane1) : Prop :=
  ∀ (f : T3) (s : State), exec (p.1 f) s = issueV1 s f p.2.1 (fun _ => p.2.2.1) (p.2.2.2 s.rnd)

/-- The same with the accumulator D. -/
def IssuesV3 (p : Lane3) : Prop :=
  ∀ (f : T3) (s : State), exec (p.1 f) s = issueV3 s f p.2.1 p.2.2.1 p.2.2.2.1 (p.2.2.2.2 s.rnd)

/-- The same of a compare. -/
def IssuesCmp (p : LaneC) : Prop := ∀ (f : T3) (s : State), exec (p.1 f) s = issueCmp s f p.2.1 p.2.2

/-! ### Two sources -/

/-- All but the four that select by a comparison are the model's operation as it stands. -/
theorem intPlain_issues : ∀ p ∈ intPlain, IssuesV2 p := by
  simp only [intPlain, List.forall_mem_cons]
  refine ⟨?add, ?sub, ?mulLo, ?mulhI, ?mulhN, ?minI, ?maxI, ?minN, ?maxN, ?and, ?or, ?xor, ?andn, ?shl, ?shr, ?sra, ?rol, nofun⟩
  case minI => exact fun f s => congrArg (issueV2 s f fmtRaw rawTag) (funext fun a => funext (opMinI_eq a))
  case maxI => exact fun f s => congrArg (issueV2 s f fmtRaw rawTag) (funext fun a => funext (opMaxI_eq a))
  case minN => exact fun f s => congrArg (issueV2 s f fmtRaw rawTag) (funext fun a => funext (opMinN_eq a))
  case maxN => exact fun f s => congrArg (issueV2 s f fmtRaw rawTag) (funext fun a => funext (opMaxN_eq a))
  all_goals exact fun _ _ => rfl

theorem intSat_issues : ∀ p ∈ intSat, IssuesV2 p := by
  simp only [intSat, List.forall_mem_cons]
  exact ⟨fun _ _ => rfl, fun _ _ => rfl, nofun⟩

theorem fpLanes_issues : ∀ p ∈ fpLanes, IssuesV2 p := by
  simp only [fpLanes, List.forall_mem_cons]
  exact ⟨fun _ _ => rfl, fun _ _ => rfl, fun _ _ => rfl, fun _ _ => rfl, fun _ _ => rfl, fun _ _ => rfl, nofun⟩

theorem twoLanes_issues : ∀ p ∈ intLanes ++ fpLanes, IssuesV2 p :=
  List.forall_mem_append.mpr ⟨List.forall_mem_append.mpr ⟨intPlain_issues, intSat_issues⟩, fpLanes_issues⟩

/-! ### One source -/

theorem onePlain_issues : ∀ p ∈ onePlain, IssuesV1 p := by
  simp only [onePlain, List.forall_mem_cons]
  exact ⟨fun _ _ => rfl, fun _ _ => rfl, fun _ _ => rfl, fun _ _ => rfl, fun _ _ => rfl, nofun⟩

theorem oneConv_issues : ∀ p ∈ oneConv, IssuesV1 p := by
  simp only [oneConv, List.forall_mem_cons]
  exact ⟨fun _ _ => rfl, fun _ _ => rfl, fun _ _ => rfl, fun _ _ => rfl, nofun⟩

theorem oneLanes_issues : ∀ p ∈ oneLanes, IssuesV1 p := List.forall_mem_append.mpr ⟨onePlain_issues, oneConv_issues⟩

theorem exec_vmov (f : T3) (s : State) : exec (.vmov f) s = issueV1 s f fmtAny moveTag opMov := rfl

/-! ### Accumulators -/

/-- A dot product whose total `k` brings into range. -/
theorem issueV3_dot (s : State) (f : T3) (fmt : List Nat) (k : Int → W × BitVec 14) (n : Nat)
    (p q : W → Nat → Int) (v : W → Int) :
    issueV3 s f fmt fmtRaw tagRaw (fun a b d => k (dotTotal n p q (v d) a b)) =
      issueV3 s f fmt fmtRaw tagRaw fun a b d => k (dot n p q (v d) a b) := by
  simp only [dotTotal_eq_dot]

theorem accPlain_issues : ∀ p ∈ accPlain, IssuesV3 p := by
  simp only [accPlain, List.forall_mem_cons]
  exact ⟨fun _ _ => rfl, fun f s => issueV3_dot s f _ (fun t => plain (wrap32 t)) .., nofun⟩

theorem accSat_issues : ∀ p ∈ accSat, IssuesV3 p := by
  simp only [accSat, List.forall_mem_cons]
  exact ⟨fun f s => issueV3_dot s f _ sat32 .., fun f s => issueV3_dot s f _ satn32 .., fun f s => issueV3_dot s f _ sat32 ..,
    fun f s => issueV3_dot s f _ sat32 .., nofun⟩

theorem accFp_issues : ∀ p ∈ accFp, IssuesV3 p := by
  simp only [accFp, List.forall_mem_cons]
  exact ⟨fun _ _ => rfl, fun _ _ => rfl, fun _ _ => rfl, fun _ _ => rfl, fun _ _ => rfl, fun _ _ => rfl, fun _ _ => rfl,
    fun _ _ => rfl, nofun⟩

theorem accLanes_issues : ∀ p ∈ accLanes, IssuesV3 p :=
  List.forall_mem_append.mpr ⟨List.forall_mem_append.mpr ⟨accPlain_issues, accSat_issues⟩, accFp_issues⟩

/-! ### Compares -/

/-- `ge` is the negation of `lt`, and the equalities on ordered values are decided. -/
theorem cmpLanes_issues : ∀ p ∈ cmpLanes, IssuesCmp p := by
  simp only [cmpLanes, List.forall_mem_cons]
  refine ⟨?eq, ?ne, ?ltI, ?geI, ?ltN, ?geN, ?tst, ?feq, ?fne, ?flt, ?fle, ?fgt, ?fge, ?unordered, ?ordered, nofun⟩
  case geI => exact fun f s => congrArg (issueCmp s f fmtRaw) (funext fun a => funext (cmpI_not_ltS a))
  case geN => exact fun f s => congrArg (issueCmp s f fmtRaw) (funext fun a => funext (cmpI_not_ltU a))
  case feq => exact fun f s => congrArg (issueCmp s f fmtF32) (cmpF_eq_fcmp int_beq_eq_decide ..)
  case fne => exact fun f s => congrArg (issueCmp s f fmtF32) (cmpF_eq_fcmp int_bne_eq_decide ..)
  all_goals exact fun _ _ => rfl

end Sys2Proof.Machine
end

section
/-! PROOFS. Lane arithmetic (R97, R124, R125, R128 to R136, R153). -/

namespace Sys2Proof.Safety

open Sys2Proof.Machine

/-- Settles O1: a row's instruction issues its operation, and `issueV2_of_ready` says what that leaves. -/
theorem laneTwoSources : Obligations.LaneTwoSources := by
  intro p hp f s c x a b h ha hb
  rw [twoLanes_issues p hp, issueV2_of_ready h ha hb, State.rnd_of_issuer h.issues]

/-- Settles O2: as O1 for the table; the tag of `vmov` by whether its source is varying. -/
theorem laneOneSource : Obligations.LaneOneSource := by
  refine ⟨fun p hp f s c x a h ha => ?table, fun f s c x a h ha => ?move⟩
  case table => rw [oneLanes_issues p hp, issueV1_of_ready h ha, State.rnd_of_issuer h.issues]
  case move =>
    rw [exec_vmov, issueV1_of_ready h ha]
    cases a <;> rfl

/-- Settles O3: with W = 0 the accumulator is the third value read, with W = 1 there is none and it counts as zero. -/
theorem laneAccumulate : Obligations.LaneAccumulate := by
  intro p hp f s c x a b ha hb
  refine ⟨fun d h hd => ?reads, fun _ h => ?window⟩
  case reads => rw [accLanes_issues p hp, issueV3_of_ready h ha hb hd, State.rnd_of_issuer h.issues]
  case window => rw [accLanes_issues p hp, issueV3_of_ready_two h ha hb, State.rnd_of_issuer h.issues]

/-- Settles O4: a row's compare issues its condition, and `issueCmp_of_ready` says what that leaves. -/
theorem laneCompare : Obligations.LaneCompare := by
  intro p hp f s c x a b h ha hb
  rw [cmpLanes_issues p hp, issueCmp_of_ready h ha hb]

end Sys2Proof.Safety
end

section
/-! SUPPORT. What the tiles of a core hold after some are set, and the elements of a filled tile (R161, R299, R300). -/

namespace Sys2Proof.Machine

/-! ### Keyed tables made of parts -/

theorem sget_append {α : Type} (l r : Store α) (k : Nat) : sget (l ++ r) k = (sget l k).or (sget r k) := by
  induction l with
  | nil => rfl
  | cons p l ih =>
    by_cases h : p.1 = k
    · simp [sget, h]
    · simp [sget, h, ih]

theorem sget_filter_key {α : Type} (m : Store α) (q : Nat → Bool) (k : Nat) :
    sget (m.filter fun p => q p.1) k = if q k then sget m k else none := by
  induction m with
  | nil => simp [sget]
  | cons p m ih =>
    by_cases hk : p.1 = k
    · subst hk
      cases hq : q p.1 <;> simp [hq, sget, ih]
    · cases hq : q p.1 <;> simp [hq, sget, ih, hk]

/-- The table of the values at the keys of a list that are not zero. -/
def nonzeros (g : Nat → W) (ks : List Nat) : Store W := ks.filterMap fun i => if g i = 0 then none else some (i, g i)

theorem nonzeros_cons_of_zero {g : Nat → W} {i : Nat} (h : g i = 0) (ks : List Nat) :
    nonzeros g (i :: ks) = nonzeros g ks := List.filterMap_cons_none (if_pos h)

theorem nonzeros_cons_of_ne_zero {g : Nat → W} {i : Nat} (h : g i ≠ 0) (ks : List Nat) :
    nonzeros g (i :: ks) = (i, g i) :: nonzeros g ks := List.filterMap_cons_some (if_neg h)

theorem sget_nonzeros (g : Nat → W) (ks : List Nat) (k : Nat) :
    sget (nonzeros g ks) k = if k ∈ ks ∧ g k ≠ 0 then some (g k) else none := by
  induction ks with
  | nil => rfl
  | cons i ks ih =>
    by_cases hz : g i = 0
    · rw [nonzeros_cons_of_zero hz, ih]
      refine ite_congr (propext ⟨fun h => ⟨List.mem_cons_of_mem _ h.1, h.2⟩, fun h => ⟨?_, h.2⟩⟩) (fun _ => rfl) fun _ => rfl
      exact (List.mem_cons.mp h.1).resolve_left fun e => h.2 (e ▸ hz)
    · rw [nonzeros_cons_of_ne_zero hz, sget]
      by_cases hk : i = k
      · subst hk; rw [if_pos rfl, if_pos ⟨List.mem_cons_self, hz⟩]
      · simp [hk, Ne.symm hk, ih]

theorem getD_sget_nonzeros {g : Nat → W} {ks : List Nat} {k : Nat} (h : k ∈ ks) :
    (sget (nonzeros g ks) k).getD 0 = g k := by
  rw [sget_nonzeros]
  by_cases hz : g k = 0
  · rw [if_neg fun hk => hk.2 hz, hz]; rfl
  · rw [if_pos ⟨h, hz⟩]; rfl

/-! ### Elements of a filled tile -/

/-- Filling the rows below `n` sets their elements and leaves those of the other rows. -/
theorem Tile.at_fill {old new : Tile} {n : Nat} {f : Nat → Nat → W} (hc : new.cells = old.fill n f)
    (row : Nat) {col : Nat} (h : col < 128) : new.at row col = if row < n then f row col else old.at row col := by
  have hdiv : (row * 128 + col) / 128 = row := by omega
  have hmod : (row * 128 + col) % 128 = col := by omega
  have hlt : row * 128 + col < n * 128 ↔ row < n := by omega
  have hcells : new.cells = nonzeros (fun i => f (i / 128) (i % 128)) (List.range (n * 128)) ++
      old.cells.filter fun p => decide (n * 128 ≤ p.1) := hc
  unfold Tile.at sgetD
  rw [hcells, sget_append, sget_filter_key _ (fun k => decide (n * 128 ≤ k))]
  by_cases hr : row < n
  · rw [if_pos hr, if_neg (by simpa using hlt.mpr hr), Option.or_none,
      getD_sget_nonzeros (List.mem_range.mpr (hlt.mpr hr)), hdiv, hmod]
  · rw [if_neg hr, if_pos (by simpa using mt hlt.mp hr), sget_nonzeros, if_neg fun h => hr (hlt.mp (List.mem_range.mp h.1)),
      Option.none_or]

/-! ### Setting tiles -/

theorem State.tile_setTile_self (s : State) (c : Nat) {t : Nat} (x : Tile) (h : t < 8) : (s.setTile c t x).tile c t = x := by
  simp [State.tile, State.setTile, State.mx, State.modMx, h]

theorem State.tile_setTile_of_ne (s : State) {c t c' t' : Nat} (x : Tile) (h : c ≠ c' ∨ t ≠ t') :
    (s.setTile c t x).tile c' t' = s.tile c' t' := by
  unfold State.tile State.setTile State.mx State.modMx
  by_cases hc : c = c'
  · subst hc
    rw [State.core_modCore_self, vget_vput_of_ne _ _ _ _ _ (h.resolve_left fun hne => hne rfl)]
  · rw [State.core_modCore_of_ne _ _ hc]

/-- The tiles from `t` on, `n` of them, each changed by its number and what it holds. -/
def State.mapTiles (s : State) (c t n : Nat) (g : Nat → Tile → Tile) : State :=
  (List.range n).foldl (fun s i => s.setTile c (t + i) (g i (s.tile c (t + i)))) s

theorem State.mapTiles_succ (s : State) (c t n : Nat) (g : Nat → Tile → Tile) :
    s.mapTiles c t (n + 1) g = (s.mapTiles c t n g).setTile c (t + n) (g n ((s.mapTiles c t n g).tile c (t + n))) := by
  simp [State.mapTiles, List.range_succ]

theorem State.tile_mapTiles (s : State) (c t : Nat) {n : Nat} (g : Nat → Tile → Tile) (h : t + n ≤ 8) (j : Nat) :
    (s.mapTiles c t n g).tile c j = if t ≤ j ∧ j < t + n then g (j - t) (s.tile c j) else s.tile c j := by
  induction n generalizing j with
  | zero => rw [if_neg (by omega)]; rfl
  | succ n ih =>
    rw [State.mapTiles_succ]
    by_cases hj : j = t + n
    · subst hj
      rw [State.tile_setTile_self _ _ _ (by omega), ih (by omega), if_neg (by omega), if_pos (by omega),
        Nat.add_sub_cancel_left]
    · rw [State.tile_setTile_of_ne _ _ (.inr (Ne.symm hj)), ih (by omega)]
      exact ite_congr (propext (by omega)) (fun _ => rfl) fun _ => rfl

theorem State.core_mapTiles_of_ne (s : State) {c c' : Nat} (t n : Nat) (g : Nat → Tile → Tile) (h : c ≠ c') :
    (s.mapTiles c t n g).core c' = s.core c' := by
  induction n with
  | zero => rfl
  | succ n ih => rw [State.mapTiles_succ, State.setTile, State.modMx, State.core_modCore_of_ne _ _ h, ih]

theorem State.mapTiles_mem (s : State) (c t n : Nat) (g : Nat → Tile → Tile) : (s.mapTiles c t n g).mem = s.mem := by
  induction n with
  | zero => rfl
  | succ n ih => rw [State.mapTiles_succ, ← ih]; rfl

end Sys2Proof.Machine
end

section
/-! PROOFS. The matrix multiply, alone and as a pair (R161, R300, R301, R303). -/

namespace Sys2Proof.Safety

open Sys2Proof.Machine

theorem pairMate_ne (c : Nat) : c ≠ pairMate c := by
  unfold pairMate
  split <;> omega

section
variable {t : Nat} {ov : Bool} {cls : MxClass} {fa : Nat} {cb : List (BitVec 16)} {rows : List Nat}

/-- What a multiply does to the tiles of one core: the rows of A are accumulated into the elements, and the other rows and
tiles stay (R300, R301). -/
def Accumulated (t : Nat) (ov : Bool) (cls : MxClass) (fa : Nat) (cb : List (BitVec 16)) (rows : List Nat) (op : WSlot)
    (old new : Nat → Tile) : Prop :=
  (∀ r < rows.length, ∀ n < 128, (new (t + r / 128)).at (r % 128) n =
    accElem cls fa op.fmt.toNat cb (rows.getD r 0) (leNat ((op.bytes.drop (n * cls.bytes)).take cls.bytes))
      (if ov then 0 else (old (t + r / 128)).at (r % 128) n)) ∧
  (∀ r, rows.length ≤ r → r < 128 * tileCount rows.length → ∀ n < 128,
    (new (t + r / 128)).at (r % 128) n = (old (t + r / 128)).at (r % 128) n) ∧
  (∀ i < 8, (i < t ∨ t + tileCount rows.length ≤ i) → new i = old i)

/-- Element (r, n) of a tile after the multiply, where `rs` are the rows of A that meet the tile. -/
def mmaElem (ov : Bool) (cls : MxClass) (fa : Nat) (cb : List (BitVec 16)) (op : WSlot) (rs : List Nat) (old : Tile)
    (r n : Nat) : W :=
  let cols := (List.range 128).map fun n => leNat ((op.bytes.drop (n * cls.bytes)).take cls.bytes)
  accElem cls fa op.fmt.toNat cb (rs.getD r 0) (cols.getD n 0) (if ov then 0 else old.at r n)

/-- Tile number `i` of those that A reaches, after the multiply. -/
def mmaTile (ov : Bool) (cls : MxClass) (fa : Nat) (cb : List (BitVec 16)) (rows : List Nat) (op : WSlot) (i : Nat)
    (old : Tile) : Tile :=
  let rs := (rows.drop (128 * i)).take 128
  { cells := old.fill rs.length (mmaElem ov cls fa cb op rs old), tag := if ov then cls.tag else old.tag,
    poison := !ov && old.poison }

theorem mmaHalf_eq_mapTiles (s : State) (c : Nat) (op : WSlot) :
    s.mmaHalf c t ov cls fa op cb rows = s.mapTiles c t (tileCount rows.length) (mmaTile ov cls fa cb rows op) := rfl

/-- Row `r` of A meets row `r % 128` of its tile; a row past A's keeps its elements. -/
theorem mmaTile_at (op : WSlot) (old : Tile) (r : Nat) {n : Nat} (hn : n < 128) :
    (mmaTile ov cls fa cb rows op (r / 128) old).at (r % 128) n =
      if r < rows.length then accElem cls fa op.fmt.toNat cb (rows.getD r 0)
        (leNat ((op.bytes.drop (n * cls.bytes)).take cls.bytes)) (if ov then 0 else old.at (r % 128) n)
      else old.at (r % 128) n := by
  have hrow : 128 * (r / 128) + r % 128 = r := Nat.div_add_mod r 128
  have hreached : r % 128 < ((rows.drop (128 * (r / 128))).take 128).length ↔ r < rows.length := by
    rw [List.length_take, List.length_drop]
    omega
  have hrowA : ((rows.drop (128 * (r / 128))).take 128).getD (r % 128) 0 = rows.getD r 0 := by
    rw [List.getD_eq_getElem?_getD, List.getElem?_take_of_lt (Nat.mod_lt r (by decide)), List.getElem?_drop, hrow,
      List.getD_eq_getElem?_getD]
  rw [Tile.at_fill (f := mmaElem ov cls fa cb op ((rows.drop (128 * (r / 128))).take 128) old) rfl _ hn, mmaElem, hrowA]
  refine ite_congr (propext hreached) (fun _ => ?_) fun _ => rfl
  simp only [List.getD_eq_getElem?_getD, List.getElem?_map, List.getElem?_range hn, Option.map_some, Option.getD_some]

theorem mmaHalf_accumulated (s : State) (c : Nat) (op : WSlot) (h : t + tileCount rows.length ≤ 8) :
    Accumulated t ov cls fa cb rows op (s.tile c) ((s.mmaHalf c t ov cls fa op cb rows).tile c) := by
  have hreach : ∀ r, r < 128 * tileCount rows.length → (s.mmaHalf c t ov cls fa op cb rows).tile c (t + r / 128) =
      mmaTile ov cls fa cb rows op (r / 128) (s.tile c (t + r / 128)) := by
    intro r hr
    rw [mmaHalf_eq_mapTiles, State.tile_mapTiles _ _ _ _ h, if_pos (by omega), Nat.add_sub_cancel_left]
  refine ⟨fun r hr n hn => ?inA, fun r hr hlast n hn => ?pastA, fun i _ hi => ?otherTiles⟩
  case inA => rw [hreach r (by unfold tileCount; omega), mmaTile_at op _ r hn, if_pos hr]
  case pastA => rw [hreach r hlast, mmaTile_at op _ r hn, if_neg (by omega)]
  case otherTiles => rw [mmaHalf_eq_mapTiles, State.tile_mapTiles _ _ _ _ h, if_neg (by omega)]

theorem core_mmaHalf_of_ne (s : State) {c c' : Nat} (op : WSlot) (h : c ≠ c') :
    (s.mmaHalf c t ov cls fa op cb rows).core c' = s.core c' := by
  rw [mmaHalf_eq_mapTiles, State.core_mapTiles_of_ne s _ _ _ h]

theorem tile_mmaHalf_of_ne (s : State) {c c' : Nat} (op : WSlot) (h : c ≠ c') :
    (s.mmaHalf c t ov cls fa op cb rows).tile c' = s.tile c' := by
  funext i
  rw [State.tile, State.mx, core_mmaHalf_of_ne s op h]
  rfl

theorem mmaHalf_mem (s : State) (c : Nat) (op : WSlot) : (s.mmaHalf c t ov cls fa op cb rows).mem = s.mem := by
  rw [mmaHalf_eq_mapTiles, State.mapTiles_mem]

/-- The halves of a pair: neither touches the tiles of the other core. -/
theorem mmaPair_accumulated (s : State) {c d : Nat} (hne : c ≠ d) (op op2 : WSlot) (h : t + tileCount rows.length ≤ 8) :
    let u := (s.mmaHalf c t ov cls fa op cb rows).mmaHalf d t ov cls fa op2 cb rows
    Accumulated t ov cls fa cb rows op (s.tile c) (u.tile c) ∧
      Accumulated t ov cls fa cb rows op2 (s.tile d) (u.tile d) := by
  refine ⟨?leader, ?follower⟩
  case leader =>
    rw [tile_mmaHalf_of_ne _ op2 hne.symm]
    exact mmaHalf_accumulated s c op h
  case follower =>
    have hd := mmaHalf_accumulated (ov := ov) (cls := cls) (fa := fa) (cb := cb) (s.mmaHalf c t ov cls fa op cb rows) d op2 h
    rwa [tile_mmaHalf_of_ne s op hne] at hd

end

/-! ### Running the command -/

section
variable {s : State} {m : MxCmd} {rc : BitVec 128} {slot t : Nat} {ov : Bool} {cb : List (BitVec 16)} {cls : MxClass}
  {op : WSlot} {rows : List Nat}
variable (hop : m.op = .mma rc slot t ov cb) (hcls : classA (fmtOf (recFmt rc)) = some cls)
  (hslot : sget (s.mx m.core).slots slot = some op) (hrows : s.loadA m rc cls = .ok rows)
include hop hcls hslot hrows

theorem runMx_mma_single (hpair : m.pair = false) :
    s.runMx m = (s.mmaHalf m.core t ov cls (fmtOf (recFmt rc)) op cb rows, none) := by
  simp [State.runMx, hop, hcls, hslot, hrows, hpair]

theorem runMx_mma_pair {op2 : WSlot} (hpair : m.pair = true) (hslot2 : sget (s.mx (pairMate m.core)).slots slot = some op2) :
    s.runMx m = ((s.mmaHalf m.core t ov cls (fmtOf (recFmt rc)) op cb rows).mmaHalf (pairMate m.core) t ov cls
      (fmtOf (recFmt rc)) op2 cb rows, none) := by
  have hkept : (s.mmaHalf m.core t ov cls (fmtOf (recFmt rc)) op cb rows).mx (pairMate m.core) = s.mx (pairMate m.core) := by
    rw [State.mx, core_mmaHalf_of_ne s op (pairMate_ne m.core), State.mx]
  simp [State.runMx, hop, hcls, hslot, hrows, hpair, hkept, hslot2]

end

/-- Settles O30: each core's half accumulates its own tiles (`mmaHalf_accumulated`), and neither half changes the tiles
or the operands of the other core. -/
theorem matrixMultiply : Obligations.MatrixMultiply := by
  intro s m rc slot t ov cb cls op rows hop hcls hfmt hslot hrows htiles half
  have hfa : fmtOf (recFmt rc) = (recFmt rc).toNat := Nat.mod_eq_of_lt hfmt
  rw [← hfa] at hcls
  refine ⟨fun hpair => ?single, fun hpair op2 hslot2 => ?pair⟩
  case single =>
    refine ⟨_, runMx_mma_single hop hcls hslot hrows hpair, mmaHalf_mem .., ?_⟩
    rw [hfa]
    exact mmaHalf_accumulated s m.core op htiles
  case pair =>
    refine ⟨_, runMx_mma_pair hop hcls hslot hrows hpair hslot2, by rw [mmaHalf_mem, mmaHalf_mem], ?_⟩
    rw [hfa]
    exact mmaPair_accumulated s (pairMate_ne m.core) op op2 htiles

end Sys2Proof.Safety
end

section
/-! PROOFS. Conversions that pack and unpack (R155, R157 to R159). -/

namespace Sys2Proof.Safety

open Sys2Proof.Machine

section
variable {s : State} {c x : Nat}

/-! ### Packing (R155, R157, R159) -/

/-- The bits of a packed lane, summed element by element. -/
theorem packedBits_eq (n width : Nat) (el : Nat → Nat) :
    (((List.range n).map el).zip (List.range ((List.range n).map el).length)).foldl
        (fun acc p => acc + p.1 * 2 ^ (width * p.2)) 0 =
      (List.range n).foldl (fun acc j => acc + el j * 2 ^ (width * j)) 0 := by
  have hzip : ((List.range n).map el).zip (List.range n) = (List.range n).map fun j => (el j, j) := by
    simpa using List.zip_map' (f := el) (g := id) (l := List.range n)
  rw [List.length_map, List.length_range, hzip, List.foldl_map]

/-- A packed lane as the conversion computes it: the whole lane, or the half of it that `half` names. -/
def packWord (n width : Nat) (half : Option Nat) (el : Nat → Nat) (old : W) : W :=
  let bits := (List.range n).foldl (fun acc j => acc + el j * 2 ^ (width * j)) 0
  match half with
  | none => BitVec.ofNat 32 bits
  | some h => (if h = 0 then old &&& 0xffff0000 else old &&& 0x0000ffff) ||| BitVec.ofNat 32 (bits * 2 ^ (16 * h))

theorem packWord_eq_packLane {half : Option Nat} (hh : ∀ h, half = some h → h < 2) (n width : Nat) (el : Nat → Nat)
    (old : W) :
    packWord n width half el old = packLane width half ((List.range n).map el) old := by
  unfold packLane packWord
  rw [packedBits_eq]
  match half, hh with
  | none, _ => rfl
  | some 0, _ => simp only [if_true, Nat.mul_zero, Nat.pow_zero, Nat.mul_one]
  | some 1, _ => rfl
  | some (h + 2), hh => exact absurd (hh _ rfl) (by omega)

/-- Only a half target looks at what the lane held. -/
theorem packLane_old {half : Option Nat} (width : Nat) (els : List Nat) {old old' : W} (h : half.isSome → old = old') :
    packLane width half els old = packLane width half els old' := by
  cases half with
  | none => rfl
  | some k => rw [h rfl]

/-- A source register's elements and flags, in lane order (R157). -/
def packRun (el : W → Fp → Nat × BitVec 14 × Fp) (m : W) (vs : List Val) (j : Nat) : List Nat × BitVec 14 :=
  convRun el m (srcLanes vs j) (List.range 32) (.fin false 0 0)

theorem map_convRun_eq (el : W → Fp → Nat × BitVec 14 × Fp) (m : W) (vs : List Val) :
    (vs.map fun v => convRun el m v.lanes (List.range 32) (.fin false 0 0)) =
      (List.range vs.length).map (packRun el m vs) := by
  apply List.ext_getElem (by simp)
  intro j hj _
  have hvs : j < vs.length := by simpa using hj
  simp [packRun, srcLanes, hvs]

theorem needTags_replicate {fmt : List Nat} {vs : List Val} (h : ∀ v ∈ vs, tagOk fmt v = true) :
    needTags (List.replicate vs.length fmt) vs = .ok () := by
  have hall : ((vs.zip (List.replicate vs.length fmt)).all fun p => tagOk p.2 p.1) = true := by
    rw [List.all_eq_true]
    intro p hp
    obtain ⟨hv, hf⟩ := List.of_mem_zip hp
    rw [(List.mem_replicate.mp hf).2]
    exact h p.1 hv
  rw [needTags, hall, need_true]

/-- How a conversion packs its sources: the width of an element, the half that is written, the tag, and one element. -/
abbrev Packing := Nat × Option Nat × Byte × (W → Fp → Nat × BitVec 14 × Fp)

/-- Sources of FP32 in front of `rest` are packed by the runs of their elements. -/
theorem convPack_eq (s : State) (c x : Nat) (f : T3) (pk : Packing) {vs rest : List Val}
    (htags : ∀ v ∈ vs, tagOk [1] v = true) :
    convPack f vs.length pk.1 pk.2.1 pk.2.2.1 pk.2.2.2 s c x (vs ++ rest) =
      let runs := (List.range vs.length).map (packRun pk.2.2.2 (s.gang c x).lanes vs)
      .ok (giveV s c x f (s.gang c x).lanes
        (Lanes.of fun l => packWord vs.length pk.1 pk.2.1 (fun j => (runs.getD j ([], 0)).1.getD l 0)
          ((srcLanes (vs ++ rest) vs.length).lane l), runs.foldl (fun a r => a ||| r.2) 0) pk.2.2.1) := by
  unfold convPack
  rw [List.take_left, fmtF32, needTags_replicate htags, ← map_convRun_eq]
  rfl

/-- What lane `l` is packed of: its element in each run. -/
theorem elements_of_runs (n : Nat) (run : Nat → List Nat × BitVec 14) (l : Nat) :
    ((List.range n).map fun j => (((List.range n).map run).getD j ([], 0)).1.getD l 0) =
      (List.range n).map fun j => (run j).1.getD l 0 :=
  List.map_congr_left fun j hj => by simp [List.getD_eq_getElem?_getD, List.mem_range.mp hj]

/-- Packing the sources `vs`, of FP32, in front of the old value of D where that is read. -/
theorem settle_convPack (hs : (s.gang? c x).isSome) (f : T3) (fb : Bool) (pk : Packing) {vs rest : List Val}
    (hhalf : ∀ h, pk.2.1 = some h → h < 2) (htags : ∀ v ∈ vs, tagOk [1] v = true) :
    settle (noteFallback s c x fb) c x
        (convPack f vs.length pk.1 pk.2.1 pk.2.2.1 pk.2.2.2 (noteFallback s c x fb) c x (vs ++ rest)) =
      laneWrite s c x f fb 4 pk.2.2.1
        (fun l => packLane pk.1 pk.2.1
          ((List.range vs.length).map fun j => (packRun pk.2.2.2 (s.gang c x).lanes vs j).1.getD l 0)
          ((srcLanes (vs ++ rest) vs.length).lane l))
        ((List.range vs.length).foldl (fun acc j => acc ||| (packRun pk.2.2.2 (s.gang c x).lanes vs j).2) 0) := by
  rw [convPack_eq _ c x f pk htags]
  simp only [lanes_noteFallback hs, List.foldl_map, packWord_eq_packLane hhalf, elements_of_runs]
  exact settle_giveV hs f fb _ _ _ _ fun l hl _ => Lanes.lane_of _ _ hl

/-- What D held counts where half of each lane is kept, and D is read last for it (R125). -/
theorem keptLane (vs : List Val) (old : Val) (keep : Bool) (f : T3) {l : Nat} (hl : l < 32) (hkeep : keep = true) :
    (srcLanes (vs ++ if keep ∧ f.w = 0 then [old] else []) vs.length).lane l =
      if f.w = 0 then old.lanes.lane l else 0 := by
  by_cases hw : f.w = 0
  · rw [if_pos ⟨hkeep, hw⟩, if_pos hw]
    simp [srcLanes]
  · rw [if_neg fun h => hw h.2, if_neg hw]
    simp [srcLanes, hl]

/-- A conversion of `n` sources that packs as `pk` says. -/
theorem issue_packs {n : Nat} {f : T3} {fm : Form} {pk : Packing} {vs : List Val} {old : Val}
    {body : State → Nat → Nat → List Val → Except Stop Done} (hlen : vs.length = n)
    (hready : Ready s c x fm (vs ++ if pk.2.1.isSome ∧ f.w = 0 then [old] else []))
    (hbody : body (noteFallback s c x fm.fb) c x = convPack f n pk.1 pk.2.1 pk.2.2.1 pk.2.2.2 (noteFallback s c x fm.fb) c x)
    (hhalf : ∀ h, pk.2.1 = some h → h < 2) (htags : ∀ v ∈ vs, tagOk [1] v = true) :
    issue s fm body = .next (laneWrite s c x f fm.fb 4 pk.2.2.1
      (fun l => packLane pk.1 pk.2.1
        ((List.range n).map fun j => (packRun pk.2.2.2 (s.gang c x).lanes vs j).1.getD l 0)
        (if f.w = 0 then old.lanes.lane l else 0))
      ((List.range n).foldl (fun acc j => acc ||| (packRun pk.2.2.2 (s.gang c x).lanes vs j).2) 0)) := by
  subst hlen
  rw [issue_of_ready hready, hbody, settle_convPack (State.issuer_gang hready.issues) f _ pk hhalf htags]
  exact congrArg _ (laneWrite_congr fun l hl _ => packLane_old _ _ fun hkeep => keptLane vs old _ f hl hkeep)

/-- A conversion writes the whole lane, or the half that bit 5 of the mode byte names. -/
theorem packs_half (n : Nat) (mode : BitVec 7) (cb : Nat → List (BitVec 16)) :
    (packs n mode cb).2.1 = none ∨ (packs n mode cb).2.1 = some (mode.toNat / 32 % 2) := by
  unfold packs
  split <;> simp

theorem packs_half_lt {n : Nat} {mode : BitVec 7} {cb : Nat → List (BitVec 16)} :
    ∀ h, (packs n mode cb).2.1 = some h → h < 2 := by
  intro h hh
  obtain hwhole | hhalf := packs_half n mode cb
  · rw [hwhole] at hh; cases hh
  · rw [hhalf] at hh
    cases hh
    exact Nat.mod_lt _ (by decide)

/-- The packing of `vcvp2` by its target (R155). -/
theorem exec_vcvp2 (f : T3) (s : State) (cb : Nat → List (BitVec 16)) :
    exec (.vcvp2 f) s = issue s (convForm .mode2 2 (packs 2 f.b cb).2.1.isSome f) fun s c x =>
      convPack f 2 (packs 2 f.b cb).1 (packs 2 f.b cb).2.1 (packs 2 f.b cb).2.2.1 (packs 2 f.b cb).2.2.2 s c x := by
  have htarget : f.b.toNat / 8 % 4 < 4 := Nat.mod_lt _ (by decide)
  show execVcvp2 f s = _
  unfold execVcvp2 packs modeTgt
  generalize f.b.toNat / 8 % 4 = k at htarget
  match k, htarget with
  | 0, _ => rfl
  | 1, _ => rfl
  | 2, _ => rfl
  | 3, _ => rfl

/-- The packing of `vcvp4` by its target, of which there are three (R155). -/
theorem exec_vcvp4 {f : T3} (s : State) (cb : Nat → List (BitVec 16)) (h : f.b.toNat / 8 % 4 ≠ 3) :
    exec (.vcvp4 f) s = issue s (convForm .mode4 4 (packs 4 f.b cb).2.1.isSome f) fun s c x =>
      convPack f 4 (packs 4 f.b cb).1 (packs 4 f.b cb).2.1 (packs 4 f.b cb).2.2.1 (packs 4 f.b cb).2.2.2 s c x := by
  have htarget : f.b.toNat / 8 % 4 < 4 := Nat.mod_lt _ (by decide)
  show execVcvp4 f s = _
  unfold execVcvp4 packs modeTgt
  generalize f.b.toNat / 8 % 4 = k at htarget h
  match k, htarget, h with
  | 0, _, _ => rfl
  | 1, _, _ => rfl
  | 2, _, _ => rfl
  | 3, _, h => exact absurd rfl h

/-- `vcvq` packs with a codebook of the issuing context (R159). -/
theorem exec_vcvq (f : T3) (s : State) :
    exec (.vcvq f) s = issue s (convForm .modeq 4 true f) fun s c x =>
      convPack f 4 4 (some (modeHalf f.b)) (packs 0 f.b (s.codebook c x)).2.2.1 (packs 0 f.b (s.codebook c x)).2.2.2 s c x :=
  rfl

theorem codebook_noteFallback (fb : Bool) : (noteFallback s c x fb).codebook c x = s.codebook c x := by
  funext k
  rw [State.codebook, State.codebook, tick_noteFallback, crew_noteFallback]

theorem mode4_target {f : T3} (h : t3Legal .v .vt .mode4 f = true) : f.b.toNat / 8 % 4 ≠ 3 := by
  simp only [t3Legal, srcLegal, Bool.and_eq_true, bne_iff_ne] at h
  exact h.2

theorem packConversions : PackConversions := by
  refine List.forall_mem_cons.mpr ⟨?vcvp2, List.forall_mem_cons.mpr ⟨?vcvp4,
    List.forall_mem_cons.mpr ⟨?vcvq, nofun⟩⟩⟩
  all_goals
    intro f s c x vs old
    simp only [reduceCtorEq, if_true, if_false]
    intro _ hlen hready htags
  case vcvp2 =>
    rw [exec_vcvp2 f s (s.codebook c x)]
    exact issue_packs hlen hready rfl packs_half_lt htags
  case vcvp4 =>
    rw [exec_vcvp4 s (s.codebook c x) (mode4_target hready.legal)]
    exact issue_packs hlen hready rfl packs_half_lt htags
  case vcvq =>
    rw [exec_vcvq]
    exact issue_packs (pk := packs 0 f.b (s.codebook c x)) hlen hready (by rw [codebook_noteFallback]; rfl)
      packs_half_lt htags

/-! ### Unpacking (R158) -/

/-- The format that `vunpk` settles on, of a source with a tag and of one without. -/
theorem unpkFmt_eq_some {a : Val} {sel fm : Nat} (h : match a with
      | .v _ t => fm = fmtOf t ∧ 2 ≤ fm ∧ (sel = 0 ∨ sel = fm)
      | _ => fm = if sel = 0 then 2 else sel) : unpkFmt sel a = some fm := by
  cases a with
  | v y t =>
    obtain ⟨rfl, htwo, hsel⟩ := h
    refine if_neg ?_
    simp only [Bool.or_eq_true, Bool.and_eq_true, decide_eq_true_eq, bne_iff_ne]
    omega
  | s w => exact congrArg some h.symm
  | a b st => exact congrArg some h.symm
  | k m => exact congrArg some h.symm

theorem exec_vunpk (f : T3) (s : State) : exec (.vunpk f) s = execVunpk f s := rfl

/-- A source without a tag decodes with codebook 0. -/
theorem codebookNumber_untagged {a : Val} (h : srcTag a = 0) : (srcTag a).toNat / 16 % 8 = 0 := by
  rw [h]; decide

theorem unpack : Unpack := by
  intro f s c x a fm hready hj hfm
  have hs := State.issuer_gang hready.issues
  rw [exec_vunpk, execVunpk, issue_of_ready hready]
  simp only [List.headD_cons, unpkFmt_eq_some hfm, decide_eq_true hj, need_true, bind, Except.bind, pure, Except.pure,
    lanes_noteFallback hs, codebook_noteFallback, settle_runLanes hs, Bool.or_eq_true, decide_eq_true_eq, or_assoc]
  cases a with
  | v y t => rfl
  | s w => rw [codebookNumber_untagged (a := .s w) rfl]; rfl
  | a b st => rw [codebookNumber_untagged (a := .a b st) rfl]; rfl
  | k m => rw [codebookNumber_untagged (a := .k m) rfl]; rfl

end

/-- Settles O9: each conversion packs as its mode byte says (`issue_packs`), and `vunpk` settles on the one format that
its tag and F allow. -/
theorem conversions : Obligations.Conversions := ⟨packConversions, unpack⟩

end Sys2Proof.Safety
end

section
/-! PROOFS. Fences, buffer records, codebooks and parameter windows (R150, R194, R195, R202 to R204, R239, R240, R392). -/

namespace Sys2Proof.Safety

open Sys2Proof.Machine

section
variable {s : State} {c x : Nat}

/-! ### Fences (R239, R240) -/

theorem issueFence_of_ready {fb : Bool} (h : Ready s c x { legal := true, fb := fb } []) (paths : BitVec 6)
    (scope : BitVec 3) :
    let s' := noteFallback s c x fb
    issueFence s fb paths scope = .next (if s'.fenceDone c x paths (min scope.toNat 4) then plainDone s' c x false
      else s'.park c x .fence 0) := by
  intro s'
  rw [issueFence, issue_of_ready h, settle_need_park]
  exact congrArg _ (ite_congr rfl (fun _ => settle_done_any s') fun _ => rfl)

theorem fences : Fences :=
  ⟨fun f _ _ _ h => issueFence_of_ready h 1 f.scope, fun f _ _ _ h => issueFence_of_ready h f.setA f.scope⟩

/-! ### `brset` (R195) -/

/-- Putting `v` in `n` bits of a word from bit `lo` on. -/
def setField (r : BitVec 128) (lo n v : Nat) : BitVec 128 :=
  (r &&& ~~~(BitVec.ofNat 128 ((2 ^ n - 1) * 2 ^ lo))) ||| BitVec.ofNat 128 (v % 2 ^ n * 2 ^ lo)

/-- A field replaced, and the other bits kept, as numbers. -/
theorem setField_eq (r : BitVec 128) (lo n v : Nat) :
    setField r lo n v = BitVec.ofNat 128 (r.toNat - r.toNat / 2 ^ lo % 2 ^ n * 2 ^ lo + v % 2 ^ n * 2 ^ lo) := by
  have hparts : r.toNat - r.toNat / 2 ^ lo % 2 ^ n * 2 ^ lo + v % 2 ^ n * 2 ^ lo =
      2 ^ lo * (2 ^ n * (r.toNat / 2 ^ lo / 2 ^ n) + v % 2 ^ n) + r.toNat % 2 ^ lo := by
    have hlow := Nat.div_add_mod r.toNat (2 ^ lo)
    have hfield := Nat.div_add_mod (r.toNat / 2 ^ lo) (2 ^ n)
    generalize r.toNat % 2 ^ lo = low at hlow ⊢
    rw [← hfield, Nat.mul_add] at hlow
    rw [Nat.mul_comm (r.toNat / 2 ^ lo % 2 ^ n), Nat.mul_comm (v % 2 ^ n), Nat.mul_add]
    omega
  apply BitVec.eq_of_getLsbD_eq
  intro i hi
  rw [hparts, BitVec.getLsbD_ofNat, Nat.testBit_two_pow_mul_add _ (Nat.mod_lt _ (Nat.two_pow_pos lo)),
    Nat.testBit_mod_two_pow, Nat.testBit_two_pow_mul_add _ (Nat.mod_lt _ (Nat.two_pow_pos n)), Nat.testBit_mod_two_pow, Nat.testBit_div_two_pow,
    Nat.testBit_div_two_pow]
  simp only [setField, BitVec.getLsbD_or, BitVec.getLsbD_and, BitVec.getLsbD_not, BitVec.getLsbD_ofNat,
    Nat.testBit_mul_two_pow, Nat.testBit_two_pow_sub_one, Nat.testBit_mod_two_pow, BitVec.testBit_toNat, hi, decide_true, Bool.true_and]
  by_cases hbelow : i < lo
  · simp [hbelow, Nat.not_le.mpr hbelow]
  · by_cases hin : i - lo < n
    · simp [hbelow, Nat.not_lt.mp hbelow, hin]
    · have hsame : i - lo - n + n + lo = i := by omega
      simp [hbelow, hin, hsame]

/-- The value that `brset` puts in a field: A, or for selector 7 BASE plus A. -/
def brsetValue (r : BitVec 128) (sel : Nat) (a : W) : Nat :=
  if sel = 7 then (r.setWidth 48 + a.signExtend 48).toNat else a.toNat

theorem brsetField_eq_setField (r : BitVec 128) {sel : Nat} (a : W) (h : sel < 8) :
    brsetField r sel a = setField r (recField sel).1 (recField sel).2 (brsetValue r sel a) := by
  match sel, h with
  | 0, _ => rfl
  | 1, _ => rfl
  | 2, _ => rfl
  | 3, _ => rfl
  | 4, _ => rfl
  | 5, _ => rfl
  | 6, _ => rfl
  | 7, _ => rw [brsetValue, if_pos rfl, BitVec.setWidth_eq_extractLsb' (by decide)]; rfl

/-- The value as a number of the width of a record. -/
theorem brsetValue_eq (r : BitVec 128) (sel : BitVec 5) (a : W) :
    brsetValue r sel.toNat a =
      (if sel = 7 then BitVec.ofNat 128 (r.setWidth 48 + a.signExtend 48).toNat else a.setWidth 128).toNat := by
  have hsel : sel.toNat = 7 ↔ sel = 7 := (BitVec.toNat_inj (x := sel) (y := 7))
  unfold brsetValue
  by_cases h : sel = 7
  · rw [if_pos (hsel.mpr h), if_pos h, BitVec.toNat_ofNat, Nat.mod_eq_of_lt (by omega)]
  · rw [if_neg (mt hsel.mp h), if_neg h, BitVec.toNat_setWidth, Nat.mod_eq_of_lt (by omega)]

theorem exec_brset (f : EX) (s : State) : exec (.brset f) s = execBrset f s := rfl

/-- `brset` puts the new record in the place of the old one. -/
theorem brset_of_ready {f : EX} {a : W} (h : Ready s c x (exForm (.low 4) .read (.idx 8) f) [.s a]) :
    let n := f.d.toNat % 16
    let r := vget (s.gang c x).recs n 0
    exec (.brset f) s = .next (plainDone ((noteFallback s c x (exForm (.low 4) .read (.idx 8) f).fb).modGang c x fun g =>
      { g with recs := vput g.recs n (brsetField r f.b.toNat a) }) c x false) := by
  intro n r
  have hs := State.issuer_gang h.issues
  have hrecs := recs_noteFallback hs (exForm (.low 4) .read (.idx 8) f).fb
  rw [exec_brset, execBrset, issue_of_ready h]
  refine congrArg _ ((settle_done_any _).trans ?_)
  congr 1
  refine State.modGang_congr fun g hg => ?_
  rw [show g.recs = (s.gang c x).recs by rw [← hrecs, State.gang_eq_of_gang? hg]]
  rfl

/-! ### `brld` and `cbld` (R150, R194) -/

/-- The read that `brld` and `cbld` send. -/
def sramRead (s : State) (c x size : Nat) (dst : AccDst) (a : W) : Access :=
  { ctx := x, pc := (s.gang c x).pc, op := .load, dev := false, width := size, dst := dst
    lanes := [{ lane := 0, addr := a.toNat }], lines := [] }

section
variable {u : State} {size : Nat} {dst : AccDst} {ready : Access → Bool} {put : State → Nat → State} {a : W}

/-- The first issue checks the address, and sends the read where the memory unit takes it. -/
theorem settle_readSram_first (h : u.awaited c x = none) :
    settle u c x (readSram size dst ready put u c x a) =
      if a.toNat % size = 0 then
        if (sramExists a.toNat && u.regionFor c x a.toNat) = true then
          if u.mayIssueMem c x (sramRead u c x size dst a) then
            (u.send c x (sramRead u c x size dst a)).s.park c x .engine 3
          else u.park c x .engine 2
        else u.takeFault c x ePerm 0 0 0 0
      else u.takeFault c x eAlign 0 0 0 0 := by
  simp only [readSram, h, settle_need, settle_need_park, beq_iff_eq]
  rfl

/-- A check whose fault is written out, in front of a body. -/
theorem settle_need_fault (v : State) (b : Bool) (e cause : Byte) (info : W) (aux : PC) (fl : Byte)
    (k : Unit → Except Stop Done) : settle v c x (need b (.fault e cause info aux fl) >>= k) =
      if b = true then settle v c x (k ()) else v.takeFault c x e cause info aux fl := by
  cases b <;> rfl

/-- A later issue waits until the read is complete and of use; one that is poisoned faults. -/
theorem settle_readSram_later {k : Nat} {acc : Access} (h : u.awaited c x = some (k, acc)) :
    settle u c x (readSram size dst ready put u c x a) =
      if (acc.allDone && (acc.poison || ready acc)) = true then
        if (!acc.poison) = true then plainDone (put (u.modCore c fun q => { q with accs := sdel q.accs k })
          (acc.lanes.headD { lane := 0, addr := 0 }).data) c x false
        else u.takeFault c x ePoison 3 0 0 0
      else u.park c x .engine 3 := by
  simp only [readSram, h, settle_need_park, settle_need_fault]
  exact ite_congr rfl (fun _ => ite_congr rfl (fun _ => settle_done_any _) fun _ => rfl) fun _ => rfl

end

/-- What an instruction that reads SRAM into a record or a codebook does, from its first issue to its last. -/
def ReadsSram (s : State) (c x : Nat) (a : W) (fm : Form) (i : Instr) (size : Nat) (dst : AccDst) (ready : Access → Bool)
    (put : State → Nat → State) : Prop :=
  Ready s c x fm [.s a] →
  let s' := noteFallback s c x fm.fb
  (s'.awaited c x = none →
    (a.toNat % size ≠ 0 → exec i s = .next (s'.takeFault c x eAlign 0 0 0 0)) ∧
    (a.toNat % size = 0 → (sramExists a.toNat && s'.regionFor c x a.toNat) = false →
      exec i s = .next (s'.takeFault c x ePerm 0 0 0 0)) ∧
    (a.toNat % size = 0 → (sramExists a.toNat && s'.regionFor c x a.toNat) = true →
      exec i s = .next (if s'.mayIssueMem c x (sramRead s c x size dst a) then
        (s'.send c x (sramRead s c x size dst a)).s.park c x .engine 3 else s'.park c x .engine 2))) ∧
  (∀ k acc, s'.awaited c x = some (k, acc) →
    (acc.allDone = false ∨ (acc.poison = false ∧ ready acc = false) → exec i s = .next (s'.park c x .engine 3)) ∧
    (acc.allDone = true → acc.poison = true → exec i s = .next (s'.takeFault c x ePoison 3 0 0 0)) ∧
    (acc.allDone = true → ready acc = true → acc.poison = false → ∀ l, acc.lanes = [l] →
      exec i s = .next (plainDone (put (s'.modCore c fun q => { q with accs := sdel q.accs k }) l.data) c x false)))

theorem sramRead_noteFallback (hs : (s.gang? c x).isSome) (fb : Bool) (size : Nat) (dst : AccDst) (a : W) :
    sramRead (noteFallback s c x fb) c x size dst a = sramRead s c x size dst a := by
  rw [sramRead, pc_noteFallback hs]
  rfl

/-- Every instruction whose body is `readSram` does so. -/
theorem readsSram_of_exec {a : W} {fm : Form} {i : Instr} {size : Nat} {dst : AccDst} {ready : Access → Bool}
    {put : Nat → Nat → State → Nat → State}
    (hexec : exec i s = issue s fm fun s c x vs => readSram size dst ready (put c x) s c x (uVal vs 0)) :
    ReadsSram s c x a fm i size dst ready (put c x) := by
  intro h s'
  have hrun : exec i s = .next (settle s' c x (readSram size dst ready (put c x) s' c x a)) := by
    rw [hexec, issue_of_ready h]; rfl
  rw [hrun]
  refine ⟨fun hnone => ?first, fun k acc hsome => ?later⟩
  case first =>
    rw [settle_readSram_first hnone, sramRead_noteFallback (State.issuer_gang h.issues)]
    refine ⟨fun hmis => ?_, fun hal hno => ?_, fun hal hyes => ?_⟩
    · rw [if_neg hmis]
    · rw [if_pos hal, hno]; rfl
    · rw [if_pos hal, if_pos hyes]
  case later =>
    rw [settle_readSram_later hsome]
    refine ⟨fun hwait => ?_, fun hdone hbad => ?_, fun hdone hready hgood l hl => ?_⟩
    · obtain hopen | ⟨hgood, hnot⟩ := hwait
      · rw [hopen]; rfl
      · rw [hgood, hnot, Bool.or_false, Bool.and_false]; rfl
    · rw [hdone, hbad]; rfl
    · rw [hdone, hready, hgood, hl]; rfl

/-- `brld` writes record `n` of its gang. -/
def putRecord (n c x : Nat) (s : State) (v : Nat) : State :=
  s.modGang c x fun g => { g with recs := vput g.recs n (BitVec.ofNat 128 v) }

theorem brld_readsSram (f : EX) (a : W) :
    ReadsSram s c x a (exForm (.low 4) .read .zero f) (.brld f) 16 (.buf (f.d.toNat % 16)) (fun _ => true)
      (putRecord (f.d.toNat % 16) c x) :=
  readsSram_of_exec (put := putRecord (f.d.toNat % 16)) rfl

theorem cbld_readsSram (f : EX) (a : W) :
    ReadsSram s c x a (exForm (.low 3) .read .zero f) (.cbld f) 32 (.cb (f.d.toNat % 8)) (·.given) (fun s _ => s) :=
  readsSram_of_exec (put := fun _ _ s _ => s) rfl

theorem recordsAndCodebooks : RecordsAndCodebooks := by
  refine ⟨fun f s c x a h => ?brset, fun f s c x a => ?reads⟩
  case brset =>
    intro n r q new
    have hsel : f.b.toNat < 8 := by
      have hlegal := h.legal
      simp only [exForm, exLegal, exFieldLegal, Bool.and_eq_true, decide_eq_true_eq] at hlegal
      exact hlegal.2
    rw [brset_of_ready h, brsetField_eq_setField _ a hsel, setField_eq, brsetValue_eq]
  case reads =>
    intro go
    exact ⟨brld_readsSram f a, cbld_readsSram f a⟩

/-! ### Parameter windows (R202 to R204, R392) -/

theorem exec_prm (f : EX) (s : State) : exec (.prm f) s = execPrm f s := rfl
theorem exec_paramLineFill (c x : Nat) (s : State) : exec (.paramLineFill c x) s = execParamLineFill c x s := rfl

/-- The read that fills a parameter line. -/
def lineRead (s : State) (c x : Nat) (pc : PC) (line : Nat) : Access :=
  { ctx := x, pc := pc, op := .load, dev := true, width := 64, dst := .prm line
    lanes := [{ lane := 0, addr := s.lineVa c x line }], lines := [] }

/-- A result that parks its group. -/
theorem settle_parked {v : State} (d : Done) (p : ParkKind × Byte) :
    settle v c x (.ok { d with parks := some p }) = d.s.park c x p.1 p.2 := rfl

/-- A missing line is asked for once, where the memory unit takes the read, and the group parks. -/
theorem settle_askLine (u : State) (c x line : Nat) :
    let rd := lineRead u c x (u.gang c x).pc line
    settle u c x (askLine u c x line) =
      if (!u.fillOf c x line) = true then
        if u.mayIssueMem c x rd then
          (u.send c x rd).s.park c x ((u.send c x rd).parks.getD (.engine, 4)).1 ((u.send c x rd).parks.getD (.engine, 4)).2
        else u.park c x .engine 2
      else u.park c x .engine 4 := by
  intro rd
  simp only [askLine, settle_need_park]
  exact ite_congr rfl (fun _ => ite_congr rfl (fun _ => settle_parked _ _) fun _ => rfl) fun _ => rfl

section
variable {f : EX} {a : W} {u : State} (h : Ready s c x (exForm .dest (.idx 4) .read f) [.s a])
  (hu : noteFallback s c x (exForm .dest (.idx 4) .read f).fb = u)
include h hu

/-- `prm` in an issuing context, by the window, the stream and the cache (R204, R392). -/
theorem prm_of_ready :
    exec (.prm f) s = .next (
      if u.winSize c x f.a.toNat = 0 then uniDone (u.modGang c x fun g => g.raise fPwunb) c x f.d.toNat false 0
      else if u.winSize c x f.a.toNat < 4 * a.toNat + 4 then
        uniDone (u.modGang c x fun g => g.raise fPwoob) c x f.d.toNat false 0
      else match (if f.a.toNat = 0 ∧ a = 0 then (u.crew c (crewSlot x)).stream else none) with
        | some id => uniDone u c x f.d.toNat false id
        | none => match (u.core c).pline ((u.crew c (crewSlot x)).launch.setWidth 8) f.a.toNat (a.toNat / 16) with
          | some l => uniDone (u.modCore c fun k => { k with pcache := plinePut k.pcache l }) c x f.d.toNat false
              (BitVec.ofNat 32 (leNat ((l.bytes.drop (4 * (a.toNat % 16))).take 4)))
          | none => settle u c x (askLine u c x (f.a.toNat * 1024 + a.toNat / 16))) := by
  have hline : 4 * a.toNat / 64 = a.toNat / 16 := by omega
  have hbyte : 4 * a.toNat % 64 = 4 * (a.toNat % 16) := by omega
  have hword : 4 * a.toNat = 0 ↔ a = 0 := by
    rw [← BitVec.toNat_inj, show (0 : W).toNat = 0 from rfl]
    omega
  rw [exec_prm, execPrm, issue_of_ready h, hu]
  simp only [show uVal [Val.s a] 0 = a from rfl, hline, hbyte, hword, Bool.and_eq_true, decide_eq_true_eq,
    apply_ite (settle _ c x)]
  refine congrArg _ (ite_congr rfl (fun _ => settle_doneS_any ..) fun _ =>
    ite_congr rfl (fun _ => settle_doneS_any ..) fun _ => ?_)
  cases (if f.a.toNat = 0 ∧ a = 0 then (u.crew c (crewSlot x)).stream else none) with
  | some id => exact settle_doneS_any ..
  | none =>
    cases (u.core c).pline ((u.crew c (crewSlot x)).launch.setWidth 8) f.a.toNat (a.toNat / 16) with
    | some l => exact settle_doneS_any ..
    | none => rfl

variable (hin : 4 * a.toNat + 4 ≤ u.winSize c x f.a.toNat)
include hin

theorem prm_stream_of_ready {id : W} (hn : f.a.toNat = 0) (ha : a = 0) (hid : (u.crew c (crewSlot x)).stream = some id) :
    exec (.prm f) s = .next (uniDone u c x f.d.toNat false id) := by
  rw [prm_of_ready h hu, if_neg (by omega), if_neg (by omega), if_pos ⟨hn, ha⟩, hid]

variable (hplain : f.a.toNat ≠ 0 ∨ a ≠ 0 ∨ (u.crew c (crewSlot x)).stream = none)
include hplain

/-- A word inside its window that is no stream id is looked for in the cache. -/
theorem prm_word_of_ready :
    exec (.prm f) s = .next (
      match (u.core c).pline ((u.crew c (crewSlot x)).launch.setWidth 8) f.a.toNat (a.toNat / 16) with
      | some l => uniDone (u.modCore c fun k => { k with pcache := plinePut k.pcache l }) c x f.d.toNat false
          (BitVec.ofNat 32 (leNat ((l.bytes.drop (4 * (a.toNat % 16))).take 4)))
      | none => settle u c x (askLine u c x (f.a.toNat * 1024 + a.toNat / 16))) := by
  have hnoId : (if f.a.toNat = 0 ∧ a = 0 then (u.crew c (crewSlot x)).stream else none) = none := by
    by_cases hfirst : f.a.toNat = 0 ∧ a = 0
    · rw [if_pos hfirst]
      exact (hplain.resolve_left fun hn => hn hfirst.1).resolve_left fun ha => ha hfirst.2
    · rw [if_neg hfirst]
  rw [prm_of_ready h hu, if_neg (by omega), if_neg (by omega), hnoId]

theorem prm_cached_of_ready {l : PLine}
    (hl : (u.core c).pline ((u.crew c (crewSlot x)).launch.setWidth 8) f.a.toNat (a.toNat / 16) = some l) :
    exec (.prm f) s = .next (uniDone (u.modCore c fun k => { k with pcache := plinePut k.pcache l }) c x f.d.toNat false
      (BitVec.ofNat 32 (leNat ((l.bytes.drop (4 * (a.toNat % 16))).take 4)))) := by
  rw [prm_word_of_ready h hu hin hplain, hl]

theorem prm_missing_of_ready
    (hl : (u.core c).pline ((u.crew c (crewSlot x)).launch.setWidth 8) f.a.toNat (a.toNat / 16) = none) :
    let line := f.a.toNat * 1024 + a.toNat / 16
    let rd := lineRead u c x (s.gang c x).pc line
    (u.fillOf c x line = true → exec (.prm f) s = .next (u.park c x .engine 4)) ∧
    (u.fillOf c x line = false → u.mayIssueMem c x rd = false → exec (.prm f) s = .next (u.park c x .engine 2)) ∧
    (u.fillOf c x line = false → u.mayIssueMem c x rd = true → exec (.prm f) s = .next
      ((u.send c x rd).s.park c x ((u.send c x rd).parks.getD (.engine, 4)).1
        ((u.send c x rd).parks.getD (.engine, 4)).2)) := by
  intro line rd
  have hpc : (u.gang c x).pc = (s.gang c x).pc := by rw [← hu, pc_noteFallback (State.issuer_gang h.issues)]
  rw [prm_word_of_ready h hu hin hplain, hl]
  simp only [settle_askLine, hpc]
  refine ⟨fun hasked => ?_, fun hnew hfull => ?_, fun hnew hroom => ?_⟩
  · rw [if_neg (by rw [hasked]; decide)]
  · rw [if_pos (by rw [hnew]; decide), if_neg (by rw [hfull]; decide)]
  · rw [if_pos (by rw [hnew]; decide), if_pos hroom]

end

/-- A change of a core that keeps its crews keeps the launch of each context. -/
theorem launchOf_modCore {f : Core → Core} (h : ∀ k, (f k).crews = k.crews) :
    (s.modCore c f).launchOf c x = s.launchOf c x := by
  rw [State.launchOf, State.crew, State.core_modCore_self, h]
  rfl

theorem parameters : Parameters := by
  refine ⟨fun f s c x a h => ?prm, fun s c x => ⟨fun hnone => ?nothing, fun n line acc harr => ?arrived⟩⟩
  case prm =>
    intro s' n size w put
    refine ⟨fun hunbound => ?unbound, fun hbound hpast => ?past, fun hin =>
      ⟨fun id hn ha hid => prm_stream_of_ready h rfl hin hn ha hid, fun hplain =>
        ⟨fun l hl => prm_cached_of_ready h rfl hin hplain hl, fun hl => prm_missing_of_ready h rfl hin hplain hl⟩⟩⟩
    case unbound => exact (prm_of_ready h rfl).trans (congrArg _ (if_pos hunbound))
    case past => exact (prm_of_ready h rfl).trans (congrArg _ ((if_neg hbound).trans (if_pos hpast)))
  case nothing => rw [exec_paramLineFill, execParamLineFill, hnone]
  case arrived =>
    intro t
    have hlaunch : t.launchOf c x = s.launchOf c x := launchOf_modCore fun _ => rfl
    rw [exec_paramLineFill, execParamLineFill, harr]
    refine ⟨fun hbad => if_pos hbad, fun hgood l hl => (if_neg (by simp [hgood])).trans ?_⟩
    rw [hl, ← hlaunch]
    rfl

end

/-- Settles O23: fences by the counts they look at, `brset` by the field it replaces (`setField_eq`), the reads of SRAM by
whether their data have come, and `prm` by where the word lies. -/
theorem fencesAndRecords : Obligations.FencesAndRecords := ⟨fences, recordsAndCodebooks, parameters⟩

end Sys2Proof.Safety
end

section
/-! SUPPORT. Tiles: which active lanes a tile has, and the place of a lane among them (R162 to R164, R175). -/

namespace Sys2Proof.Machine

open Sys2Proof.Safety

/-! ### The lanes of a tile -/

theorem Gang.tileW_eq (g : Gang) : g.tileW = 2 ^ g.ptile.toNat := rfl

theorem Gang.tileW_pos (g : Gang) : 0 < g.tileW := Nat.two_pow_pos _

/-- Lanes share a tile where they have the same first lane, or the same quotient by the width. -/
theorem tileBase_beq {w : Nat} (hw : 0 < w) (k l : Nat) : (tileBase w k == tileBase w l) = (k / w == l / w) := by
  have base (j : Nat) : tileBase w j = w * (j / w) := Nat.sub_eq_of_eq_add (Nat.div_add_mod j w).symm
  rw [base, base, Bool.eq_iff_iff, beq_iff_eq, beq_iff_eq, Nat.mul_left_cancel_iff hw]

theorem tileAct_eq_acts {w : Nat} (hw : 0 < w) (m : W) (l : Nat) : tileAct w m l = acts w m l := by
  simp only [tileAct, acts, activeList, List.filter_filter, tileBase_beq hw, Bool.and_comm]

theorem tileParam_eq_param {w : Nat} (hw : 0 < w) (m : W) (b : Lanes) (l : Nat) : tileParam w m b l = param w m b.lane l := by
  rw [tileParam, param, tileAct_eq_acts hw]

theorem acts_ascend (w : Nat) (m : W) (l : Nat) : (acts w m l).Pairwise (· < ·) := List.pairwise_lt_range.filter _

theorem mem_acts_self {w : Nat} {m : W} {l : Nat} (hl : l < 32) (hm : bit m l = true) : l ∈ acts w m l := by
  simp [acts, hl, hm]

/-! ### Places -/

/-- In an ascending list, the elements in front of `l` are those below it. -/
theorem posOf_eq_length_filter {l : Nat} {ls : List Nat} (h : ls.Pairwise (· < ·)) (hl : l ∈ ls) :
    posOf l ls = (ls.filter fun k => decide (k < l)).length := by
  unfold posOf
  induction ls with
  | nil => exact absurd hl List.not_mem_nil
  | cons k t ih =>
    obtain ⟨hk, ht⟩ := List.pairwise_cons.mp h
    rcases List.mem_cons.mp hl with rfl | hlt
    · have hnone : (t.filter fun k => decide (k < l)) = [] :=
        List.filter_eq_nil_iff.mpr fun j hj => by simpa using Nat.le_of_lt (hk j hj)
      simp [hnone]
    · have hkl := hk l hlt
      simp [hkl, Nat.ne_of_lt hkl, ih ht hlt]

theorem posOf_acts {w : Nat} {m : W} {l : Nat} (hl : l < 32) (hm : bit m l = true) : posOf l (acts w m l) = place w m l :=
  posOf_eq_length_filter (acts_ascend w m l) (mem_acts_self hl hm)

/-- An index result of an active lane. -/
theorem indexAt_acts {w : Nat} {m : W} {l : Nat} (hl : l < 32) (hm : bit m l = true) (order : List Nat) :
    indexAt w (acts w m l) order l = indexOf w m order l := by
  rw [indexAt, indexOf, posOf_acts hl hm]
  rfl

end Sys2Proof.Machine
end

section
/-! SUPPORT. Ranking: inserting lanes one after another, in ascending order, ranks them (R176). -/

namespace Sys2Proof.Machine

open Sys2Proof.Safety

variable {r : Nat → Int}

/-- Lane `i` comes before lane `j` in a ranking by `r`: the order of `Ranked`. -/
def Outranks (r : Nat → Int) (i j : Nat) : Prop := r j < r i ∨ (r i = r j ∧ i < j)

theorem ranked_iff (r : Nat → Int) (ls order : List Nat) :
    Ranked r ls order ↔ order.Perm ls ∧ order.Pairwise (Outranks r) := Iff.rfl

theorem Outranks.trans {i j k : Nat} (h : Outranks r i j) (h' : Outranks r j k) : Outranks r i k := by
  unfold Outranks at *
  omega

theorem insRank_perm (r : Nat → Int) (l : Nat) (ls : List Nat) : (insRank r l ls).Perm (l :: ls) := by
  induction ls with
  | nil => exact .refl _
  | cons k t ih =>
    unfold insRank
    split
    · exact .refl _
    · exact (ih.cons k).trans (.swap l k t)

/-- A lane above all that are ranked goes behind those of its rank. -/
theorem insRank_pairwise {l : Nat} {ls : List Nat} (h : ls.Pairwise (Outranks r)) (hl : ∀ k ∈ ls, k < l) :
    (insRank r l ls).Pairwise (Outranks r) := by
  induction ls with
  | nil => exact List.pairwise_singleton ..
  | cons k t ih =>
    obtain ⟨hk, ht⟩ := List.pairwise_cons.mp h
    obtain ⟨hkl, htl⟩ := List.forall_mem_cons.mp hl
    unfold insRank
    split
    case isTrue hlt =>
      have hlk : Outranks r l k := .inl hlt
      exact List.pairwise_cons.mpr ⟨List.forall_mem_cons.mpr ⟨hlk, fun j hj => hlk.trans (hk j hj)⟩, h⟩
    case isFalse hge =>
      have hkl' : Outranks r k l := by unfold Outranks; omega
      refine List.pairwise_cons.mpr ⟨fun j hj => ?_, ih ht htl⟩
      rcases List.mem_cons.mp ((insRank_perm r l t).mem_iff.mp hj) with rfl | hjt
      · exact hkl'
      · exact hk j hjt

theorem insRank_ranked {l : Nat} {ls order : List Nat} (h : Ranked r ls order) (hl : ∀ k ∈ ls, k < l) :
    Ranked r (ls ++ [l]) (insRank r l order) := by
  obtain ⟨hperm, hpair⟩ := (ranked_iff ..).mp h
  refine (ranked_iff ..).mpr ⟨?perm, insRank_pairwise hpair fun k hk => hl k (hperm.mem_iff.mp hk)⟩
  exact ((insRank_perm r l order).trans (hperm.cons l)).trans (List.perm_append_singleton l ls).symm

/-- Inserting the lanes of `ls` in a ranking of the lanes below them. -/
theorem foldl_insRank_ranked {below ls order : List Nat} (h : Ranked r below order) (hls : (below ++ ls).Pairwise (· < ·)) :
    Ranked r (below ++ ls) (ls.foldl (fun acc l => insRank r l acc) order) := by
  induction ls generalizing below order with
  | nil => rwa [List.append_nil]
  | cons l t ih =>
    obtain ⟨-, -, habove⟩ := List.pairwise_append.mp hls
    rw [List.append_cons] at hls ⊢
    exact ih (insRank_ranked h fun k hk => habove k hk l List.mem_cons_self) hls

theorem byRank_ranked {ls : List Nat} (h : ls.Pairwise (· < ·)) : Ranked r ls (byRank r ls) :=
  foldl_insRank_ranked (below := []) ((ranked_iff ..).mpr ⟨.refl _, .nil⟩) h

/-- The rank of a lane of A, by A's tag. -/
theorem rankOf_isF32Src (a : Val) (vs : List Val) (w : W) : rankOf (isF32Src (a :: vs)) w = rankIn a w := by
  cases a with
  | v lanes t => simp only [rankOf, isF32Src, rankIn, beq_iff_eq]; rfl
  | _ => rfl

end Sys2Proof.Machine
end

section
/-! SUPPORT. What the issue of a cross-lane instruction does where it is ready and its tags are accepted (R165). -/

namespace Sys2Proof.Machine

open Sys2Proof.Safety

variable {s : State} {c x : Nat} {f : T3}

theorem needTags_one {fa fb : List Nat} {a : Val} (ha : tagOk fa a = true) : needTags [fa, fb] [a] = .ok () := by
  simp [needTags, need, ha]

theorem needTags_two {fa fb : List Nat} {a b : Val} (ha : tagOk fa a = true) (hb : tagOk fb b = true) :
    needTags [fa, fb] [a, b] = .ok () := by
  simp [needTags, need, ha, hb]

theorem tileW_noteFallback (hs : (s.gang? c x).isSome) (fb : Bool) :
    ((noteFallback s c x fb).gang c x).tileW = (s.gang c x).tileW := by
  rw [gang_noteFallback hs]
  split <;> rfl

/-- The effect of a cross-lane instruction whose tags are accepted. -/
theorem settle_crossV (hs : (s.gang? c x).isSome) {fa fb : List Nat} {vs : List Val} (ht : needTags [fa, fb] vs = .ok ())
    (note : Bool) (tag : List Val → Byte) (op : Nat → W → Lanes → Lanes → Nat → W × BitVec 14) :
    settle (noteFallback s c x note) c x (crossV f fa fb tag op (noteFallback s c x note) c x vs) =
      laneDone s c x f note 4 (tag vs) (op (s.gang c x).tileW (s.gang c x).lanes (srcLanes vs 0) (srcLanes vs 1)) := by
  simp only [crossV, ht, bind, Except.bind, lanes_noteFallback hs, tileW_noteFallback hs, pure, Except.pure]
  exact settle_runLanes hs f _ _ _

theorem issueX2_of_ready {fa fb : List Nat} {tag : List Val → Byte} {op : Nat → W → Lanes → Lanes → Nat → W × BitVec 14}
    {a b : Val} (h : Ready s c x (t3Form .v .any .any f) [a, b]) (ha : tagOk fa a = true) (hb : tagOk fb b = true) :
    issueX2 s f fa fb tag op = .next (laneDone s c x f (t3Form .v .any .any f).fb 4 (tag [a, b])
      (op (s.gang c x).tileW (s.gang c x).lanes a.lanes b.lanes)) := by
  rw [issueX2, issue_of_ready h, settle_crossV (State.issuer_gang h.issues) (needTags_two ha hb)]
  rfl

/-! ### Shuffles, ballot, broadcast and selection -/

/-- The instruction of a row is issued with the row's tags, and gives each active lane the row's value without a flag. -/
def IssuesCross (p : Cross) (tag : List Val → Byte) (op : Nat → W → Lanes → Lanes → Nat → W × BitVec 14) : Prop :=
  (∀ (f : T3) (s : State), exec (p.1 f) s = issueX2 s f p.2.1 fmtAny tag op) ∧ (∀ a b : Val, tag [a, b] = p.2.2.1 a) ∧
    ∀ (w : Nat) (m : W) (a b : Lanes) (l : Nat), 0 < w → l < 32 → bit m l = true →
      op w m a b l = (p.2.2.2 w m a.lane b.lane l, 0)

theorem moveTag_eq_srcTag (a : Val) (vs : List Val) : moveTag (a :: vs) = srcTag a := by cases a <;> rfl

theorem opBcast_eq {w : Nat} (hw : 0 < w) (m : W) (a b : Lanes) (l : Nat) :
    opBcast w m a b l = (a.lane (l - l % w + cnt (param w m b.lane l) % w), 0) := by
  rw [opBcast, tileParam_eq_param hw]
  rfl

theorem opComp_eq {w : Nat} (hw : 0 < w) {m : W} (a b : Lanes) {l : Nat} (hl : l < 32) (hm : bit m l = true) :
    opComp w m a b l = ((((acts w m l).filter fun k => b.lane k != 0).map a.lane).getD (place w m l) 0, 0) := by
  simp only [opComp, tileAct_eq_acts hw, posOf_acts hl hm, plain]

/-- Only the broadcast and the compaction look at the active lanes of the tile; the others are the model's operation as it
stands. -/
theorem crossLanes_issue : ∀ p ∈ crossLanes, ∃ tag op, IssuesCross p tag op := by
  simp only [crossLanes, List.forall_mem_cons]
  refine ⟨?shfl, ?xor, ?up, ?dn, ?ballot, ?bcast, ?sel, ?comp, nofun⟩
  case ballot => exact ⟨rawTag, opBallot, fun _ _ => rfl, fun _ _ => rfl, fun _ _ _ _ _ _ _ _ => rfl⟩
  case bcast =>
    exact ⟨moveTag, opBcast, fun _ _ => rfl, fun a b => moveTag_eq_srcTag a [b],
      fun _ m a b l hw _ _ => opBcast_eq hw m a b l⟩
  case comp =>
    exact ⟨moveTag, opComp, fun _ _ => rfl, fun a b => moveTag_eq_srcTag a [b],
      fun _ _ a b _ hw hl hm => opComp_eq hw a b hl hm⟩
  all_goals exact ⟨moveTag, _, fun _ _ => rfl, fun a b => moveTag_eq_srcTag a [b], fun _ _ _ _ _ _ _ _ => rfl⟩

/-! ### Reductions and scans -/

theorem maxS_eq (a b : W) : maxS a b = if a.toInt < b.toInt then b else a := by simp only [maxS, ltS_iff]

theorem minS_eq (a b : W) : minS a b = if b.toInt < a.toInt then b else a := by simp only [minS, ltS_iff]

theorem reduce_eq_redOp (rm : Rnd) {code : Nat} (h : code < 8) (xs : List W) : reduce rm code xs = redOp rm code xs := by
  match code, h with
  | 2, _ => exact congrArg (fun op => plain (xs.foldl op 0x80000000)) (funext fun a => funext (maxS_eq a))
  | 4, _ => exact congrArg (fun op => plain (xs.foldl op 0x7fffffff)) (funext fun a => funext (minS_eq a))
  | 0, _ | 1, _ | 3, _ | 5, _ | 6, _ | 7, _ => rfl

/-- The tags that a reduction accepts, as R165 lists them. -/
theorem redFmt_eq {code : Nat} (h : code < 8) :
    redFmt code = if code = 1 ∨ code = 3 ∨ code = 5 then [1] else if code = 6 ∨ code = 7 then fmtNoMx else [0] := by
  match code, h with
  | 0, _ | 1, _ | 2, _ | 3, _ | 4, _ | 5, _ | 6, _ | 7, _ => rfl

theorem redTag_eq (code : Nat) : redTag code = if code = 1 ∨ code = 3 ∨ code = 5 then 1 else 0 := by
  simp [redTag, tagF32, tagRaw, or_assoc]

/-- A reduction of code `code` over the lanes of A that `pick` names for each lane. -/
theorem issue_reduce_of_ready {a : Val} {n code : Nat} (h : Ready s c x (t3Form .v .any (.code n) f) [a]) (hcode : code < 8)
    (ha : tagOk (redFmt code) a = true) (pick : Nat → W → Nat → List Nat) :
    issue s (t3Form .v .any (.code n) f) (crossV f (redFmt code) fmtAny (fun _ => redTag code)
        fun w m a _ l => reduce s.rnd code ((pick w m l).map a.lane)) =
      .next (laneDone s c x f (t3Form .v .any (.code n) f).fb 4 (redTag code)
        fun l => redOp (s.gang c x).rnd code ((pick (s.gang c x).tileW (s.gang c x).lanes l).map a.lanes.lane)) := by
  rw [issue_of_ready h, settle_crossV (State.issuer_gang h.issues) (needTags_one ha), State.rnd_of_issuer h.issues]
  simp only [reduce_eq_redOp _ hcode]
  rfl

theorem exec_vred (f : T3) (s : State) : exec (.vred f) s = execVred f s := rfl

theorem exec_vscan (f : T3) (s : State) : exec (.vscan f) s = execVscan f s := rfl

/-- The lanes that a scan takes: those of the tile up to its own, or below it where bit 3 of the code is set. -/
def scanPick (code : BitVec 7) (w : Nat) (m : W) (l : Nat) : List Nat :=
  (tileAct w m l).filter fun k => if code.toNat / 8 % 2 = 1 then decide (k < l) else decide (k ≤ l)

theorem execVscan_eq (f : T3) (s : State) :
    execVscan f s = issue s (t3Form .v .any (.code 16) f)
      (crossV f (redFmt (f.b.toNat % 8)) fmtAny (fun _ => redTag (f.b.toNat % 8))
        fun w m a _ l => reduce s.rnd (f.b.toNat % 8) ((scanPick f.b w m l).map a.lane)) := rfl

theorem scanPick_eq {w : Nat} (hw : 0 < w) (code : BitVec 7) (m : W) (l : Nat) :
    scanPick code w m l = (acts w m l).filter fun k => if code.toNat / 8 % 2 = 1 then decide (k < l) else decide (k ≤ l) := by
  rw [scanPick, tileAct_eq_acts hw]

/-! ### Ranking -/

theorem exec_vselgt (f : T3) (s : State) : exec (.vselgt f) s = execVselgt f s := rfl

theorem exec_vtopk (f : T3) (s : State) : exec (.vtopk f) s = execVtopk f s := rfl

theorem exec_vsort (f : T3) (s : State) : exec (.vsort f) s = execVsort f s := rfl

theorem lanes_setWmod_if (hs : (s.gang? c x).isSome) (p : Prop) [Decidable p] :
    ((if p then s.modGang c x Gang.setWmod else s).gang c x).lanes = (s.gang c x).lanes := by
  split
  · rw [State.gang_modGang_self hs]; rfl
  · rfl

/-- WMOD set as the instruction executes, after the fallback of its word was noted (R40), comes to the same before it. -/
theorem noteFallback_setWmod_if (hs : (s.gang? c x).isSome) (fb : Bool) (p : Prop) [Decidable p] :
    noteFallback (if p then s.modGang c x Gang.setWmod else s) c x fb =
      if p then (noteFallback s c x fb).modGang c x Gang.setWmod else noteFallback s c x fb := by
  split
  · have held : ((s.modGang c x Gang.setWmod).gang c x).group.held = (s.gang c x).group.held := by
      rw [State.gang_modGang_self hs]; rfl
    unfold noteFallback
    rw [held]
    split <;> rfl
  · rfl

/-- A ranking instruction leaves `laneDone` of the state `s'` in which WMOD is set where `wmod` asks for it (R178). -/
theorem issueRank_of_ready {tag : State → W → Nat → Lanes → List Val → Byte} {op : Bool → Nat → W → Lanes → Lanes → Nat → W}
    {wmod : Nat → W → Lanes → Bool} {a b : Val} {s' : State} {r : Nat → W}
    (h : Ready s c x (t3Form .v .any .any f) [a, b]) (ha : tagOk [0, 1] a = true) (hb : tagOk fmtAny b = true)
    (hs' : s' = if wmod (s.gang c x).tileW (s.gang c x).lanes b.lanes = true then s.modGang c x Gang.setWmod else s)
    (hr : ∀ l < 32, bit (s.gang c x).lanes l = true →
      op (isF32Src [a, b]) (s.gang c x).tileW (s.gang c x).lanes a.lanes b.lanes l = r l) :
    issueRank s f tag op wmod = .next (laneDone s' c x f (t3Form .v .any .any f).fb 4
      (tag (noteFallback s' c x (t3Form .v .any .any f).fb) (s.gang c x).lanes (s.gang c x).tileW b.lanes [a, b])
      fun l => (r l, 0)) := by
  have hs := State.issuer_gang h.issues
  have hlanes : (s'.gang c x).lanes = (s.gang c x).lanes := hs' ▸ lanes_setWmod_if hs _
  have hsome : (s'.gang? c x).isSome := by
    rw [hs']
    split
    · simpa [State.gang?_modGang_self] using hs
    · exact hs
  rw [issueRank, issue_of_ready h]
  simp only [needTags_two ha hb, bind, Except.bind, lanes_noteFallback hs, tileW_noteFallback hs, pure, Except.pure]
  rw [show srcLanes [a, b] 1 = b.lanes from rfl, ← noteFallback_setWmod_if hs, ← hs']
  rw [← hlanes] at hr ⊢
  exact congrArg _ ((settle_runLanes hsome f _ _ _).trans (laneDone_congr fun l hl hm => congrArg plain (hr l hl hm)))

end Sys2Proof.Machine
end

section
/-! PROOFS. Shuffles, reductions, scans and ranking within partition tiles (R165 to R168, R170, R171, R174 to R179). -/

namespace Sys2Proof.Safety

open Sys2Proof.Machine

/-- Settles O6: a row's instruction issues its operation, and `issueX2_of_ready` says what that leaves in the active lanes. -/
theorem crossLane : Obligations.CrossLane := by
  intro p hp f s c x a b h ha hb
  obtain ⟨tag, op, hexec, htag, hop⟩ := crossLanes_issue p hp
  rw [hexec, issueX2_of_ready h ha hb, htag]
  exact congrArg _ (laneDone_congr fun l hl hm => hop _ _ _ _ l (Gang.tileW_pos _) hl hm)

/-- Settles O7: both issue the model's `reduce`, of the active lanes of the tile or of those that `scanPick` leaves. -/
theorem reduceScan : Obligations.ReduceScan := by
  intro f s c x a code fmts tag w m ha
  have hcode : code < 8 := Nat.mod_lt _ (by decide)
  have hfmt : tagOk (redFmt code) a = true := by rw [redFmt_eq hcode]; exact ha
  have htag : redTag code = tag := redTag_eq code
  have hred : tileAct w m = acts w m := funext fun l => tileAct_eq_acts (Gang.tileW_pos _) m l
  have hscan := funext fun l => scanPick_eq (Gang.tileW_pos (s.gang c x)) f.b m l
  refine ⟨fun h => ?red, fun h => ?scan⟩
  case red => rw [exec_vred, execVred, issue_reduce_of_ready h hcode hfmt, htag, Gang.tileW_eq, hred]
  case scan => rw [exec_vscan, execVscan_eq, issue_reduce_of_ready h hcode hfmt, htag, hscan, Gang.tileW_eq]

/-! ### Ranking (R176 to R179) -/

section
variable {s : State} {c x : Nat} {f : T3} {a b : Val}

/-- The rank of a lane of A. -/
def laneRank (a : Val) (l : Nat) : Int := rankIn a (a.lanes.lane l)

/-- The rank of a lane of A for `vsort`, whose control word is `ctl`: an ascending sort ranks the lowest first (R179). -/
def sortRank (ctl : W) (a : Val) (l : Nat) : Int := if bit ctl 0 then -(laneRank a l) else laneRank a l

/-- Some active lane asks for more lanes than a tile has (R178). -/
def asksTooMany (w : Nat) (m : W) (b : Val) : Bool :=
  (List.range 32).any fun l => bit m l && decide (w < (param w m b.lanes.lane l).toNat)

theorem opSelgt_eq {w : Nat} (hw : 0 < w) {m : W} (a b : Val) {l : Nat} (hl : l < 32) (hm : bit m l = true) :
    opSelgt (isF32Src [a, b]) w m a.lanes b.lanes l =
      indexOf w m ((acts w m l).filter fun k => decide (rankIn a (param w m b.lanes.lane l) < laneRank a k)) l := by
  simp only [opSelgt, tileAct_eq_acts hw, tileParam_eq_param hw, rankOf_isF32Src, indexAt_acts hl hm]
  rfl

theorem opTopk_eq {w : Nat} (hw : 0 < w) {m : W} (a b : Val) {l : Nat} (hl : l < 32) (hm : bit m l = true) :
    opTopk (isF32Src [a, b]) w m a.lanes b.lanes l =
      indexOf w m ((byRank (laneRank a) (acts w m l)).take (param w m b.lanes.lane l).toNat) l := by
  simp only [opTopk, tileAct_eq_acts hw, tileParam_eq_param hw, rankOf_isF32Src, indexAt_acts hl hm]
  rfl

theorem opSort_eq {w : Nat} (hw : 0 < w) {m : W} (a b : Val) {l : Nat} (hl : l < 32) (hm : bit m l = true) :
    opSort (isF32Src [a, b]) w m a.lanes b.lanes l =
      let k := (byRank (sortRank (param w m b.lanes.lane l) a) (acts w m l)).getD (place w m l) l
      if bit (param w m b.lanes.lane l) 1 then BitVec.ofNat 32 (k % w) else a.lanes.lane k := by
  simp only [opSort, tileAct_eq_acts hw, tileParam_eq_param hw, rankOf_isF32Src, posOf_acts hl hm]
  rfl

theorem asksTooMany_eq {w : Nat} (hw : 0 < w) (m : W) (b : Val) :
    ((activeList m).any fun l => decide (w < (tileParam w m b.lanes l).toNat)) = asksTooMany w m b := by
  simp only [activeList, List.any_filter, tileParam_eq_param hw, asksTooMany]

theorem exec_vselgt_of_ready (h : Ready s c x (t3Form .v .any .any f) [a, b]) (ha : tagOk [0, 1] a = true)
    (hb : tagOk fmtAny b = true) :
    let w := (s.gang c x).tileW
    let m := (s.gang c x).lanes
    exec (.vselgt f) s = .next (laneDone s c x f (t3Form .v .any .any f).fb 4 0 fun l =>
      (indexOf w m ((acts w m l).filter fun k => decide (rankIn a (param w m b.lanes.lane l) < laneRank a k)) l, 0)) := by
  rw [exec_vselgt, execVselgt]
  exact issueRank_of_ready h ha hb (if_neg Bool.false_ne_true).symm fun _ hl hm => opSelgt_eq (Gang.tileW_pos _) a b hl hm

theorem exec_vtopk_of_ready (h : Ready s c x (t3Form .v .any .any f) [a, b]) (ha : tagOk [0, 1] a = true)
    (hb : tagOk fmtAny b = true) :
    let w := (s.gang c x).tileW
    let m := (s.gang c x).lanes
    exec (.vtopk f) s = .next (laneDone (if asksTooMany w m b = true then s.modGang c x Gang.setWmod else s) c x f
      (t3Form .v .any .any f).fb 4 0 fun l =>
        (indexOf w m ((byRank (laneRank a) (acts w m l)).take (param w m b.lanes.lane l).toNat) l, 0)) := by
  intro w m
  rw [exec_vtopk, execVtopk, ← asksTooMany_eq (Gang.tileW_pos _)]
  exact issueRank_of_ready h ha hb rfl fun _ hl hm => opTopk_eq (Gang.tileW_pos _) a b hl hm

theorem exec_vsort_of_ready (h : Ready s c x (t3Form .v .any .any f) [a, b]) (ha : tagOk [0, 1] a = true)
    (hb : tagOk fmtAny b = true) :
    let w := (s.gang c x).tileW
    let m := (s.gang c x).lanes
    let fb := (t3Form .v .any .any f).fb
    exec (.vsort f) s = .next (laneDone s c x f fb 4 (sortTag (noteFallback s c x fb) m w b.lanes [a, b]) fun l =>
      (let k := (byRank (sortRank (param w m b.lanes.lane l) a) (acts w m l)).getD (place w m l) l
       if bit (param w m b.lanes.lane l) 1 then BitVec.ofNat 32 (k % w) else a.lanes.lane k, 0)) := by
  rw [exec_vsort, execVsort]
  exact issueRank_of_ready h ha hb (if_neg Bool.false_ne_true).symm fun _ hl hm => opSort_eq (Gang.tileW_pos _) a b hl hm

/-! ### The tag of `vsort` (R179) -/

theorem sortTag_cases (t : State) (m : W) (w : Nat) (b : Lanes) (vs : List Val) :
    sortTag t m w b (a :: vs) = 0 ∨ sortTag t m w b (a :: vs) = srcTag a := by
  rw [← moveTag_eq_srcTag a vs]
  unfold sortTag
  dsimp only
  split
  · exact .inl rfl
  · split
    · exact .inl rfl
    · exact .inr rfl

/-- Where every tile wants indices the tag is RAW. -/
theorem sortTag_indices (t : State) {m : W} {w : Nat} (hw : 0 < w) {b : Lanes} (vs : List Val)
    (hall : ∀ l < 32, bit m l = true → bit (param w m b.lane l) 1 = true) (hsome : ∃ l < 32, bit m l = true) :
    sortTag t m w b vs = 0 := by
  have hidx : ∀ l ∈ activeList m, bit (tileParam w m b l) 1 = true := fun l hl => by
    rw [tileParam_eq_param hw]
    exact hall l (mem_activeList.mp hl).1 (mem_activeList.mp hl).2
  obtain ⟨l, hl, hm⟩ := hsome
  have hmem : l ∈ activeList m := mem_activeList.mpr ⟨hl, hm⟩
  have hany : ((activeList m).any fun l => bit (tileParam w m b l) 1) = true := List.any_eq_true.mpr ⟨l, hmem, hidx l hmem⟩
  simp only [sortTag, List.all_eq_true.mpr hidx, hany, Bool.and_self, if_true]
  rfl

/-- Where every tile wants values the tag is A's. -/
theorem sortTag_values (t : State) {m : W} {w : Nat} (hw : 0 < w) {b : Lanes} (vs : List Val)
    (hall : ∀ l < 32, bit m l = true → bit (param w m b.lane l) 1 = false) :
    sortTag t m w b (a :: vs) = srcTag a := by
  have hnone : ((activeList m).any fun l => bit (tileParam w m b l) 1) = false := List.any_eq_false.mpr fun l hl => by
    rw [tileParam_eq_param hw, hall l (mem_activeList.mp hl).1 (mem_activeList.mp hl).2]
    exact Bool.false_ne_true
  simp only [sortTag, hnone, Bool.and_false, Bool.false_and, Bool.false_eq_true, if_false, moveTag_eq_srcTag]

end

/-- Settles O8: the order that `vtopk` and `vsort` follow is the model's `byRank` of the tile's active lanes, which is a
ranking (`byRank_ranked`); `vselgt` filters them as they stand. -/
theorem ranking : Obligations.Ranking := by
  intro f s c x a b w m fb rk h ha hb
  have hw : 0 < w := Nat.two_pow_pos _
  have hranked (r : Nat → Int) (l : Nat) : Ranked r (acts w m l) (byRank r (acts w m l)) := byRank_ranked (acts_ascend w m l)
  refine ⟨exec_vselgt_of_ready h ha hb, ?topk, ?sort⟩
  case topk => exact ⟨fun l => byRank (laneRank a) (acts w m l), hranked (laneRank a), exec_vtopk_of_ready h ha hb⟩
  case sort =>
    refine ⟨fun l => byRank (sortRank (param w m b.lanes.lane l) a) (acts w m l), fun l => hranked _ l,
      sortTag (noteFallback s c x fb) m w b.lanes [a, b], sortTag_cases .., sortTag_indices _ hw _, sortTag_values _ hw _, ?_⟩
    exact exec_vsort_of_ready h ha hb

end Sys2Proof.Safety
end

section
/-! SUPPORT. What a list of checks, a refused operand, a new node and a result that ends its run settle to, and what raising a
flag leaves. -/

namespace Sys2Proof.Machine

open Sys2Proof.Safety

variable {s : State} {c x : Nat}

/-! ### Checks -/

/-- A body behind a list of checks, each with the fault of the one that is refused. -/
def passing : List (Bool × Byte) → Except Stop Done → Except Stop Done
  | [], r => r
  | p :: l, r => need (!p.1) (.code p.2) >>= fun _ => passing l r

theorem firstFault_cons (b : Bool) (e : Byte) (l : List (Bool × Byte)) :
    firstFault ((b, e) :: l) = if b = true then some e else firstFault l := by
  cases b <;> rfl

/-- The first check that fails decides; behind all of them stands the body. -/
theorem settle_passing (v : State) (l : List (Bool × Byte)) (r : Except Stop Done) :
    settle v c x (passing l r) = (firstFault l).elim (settle v c x r) fun e => v.takeFault c x e 0 0 0 0 := by
  induction l with
  | nil => rfl
  | cons p l ih =>
    obtain ⟨b, e⟩ := p
    rw [passing, settle_need, firstFault_cons, ih]
    cases b <;> rfl

theorem settle_pure (v : State) (d : Done) : settle v c x (pure d) = settle v c x (.ok d) := rfl

/-- A body that goes on with what a check answers. -/
theorem settle_bind_of_error {α : Type} {r : Except Stop α} {e : Stop} (hr : r = .error e) (v : State)
    (k : α → Except Stop Done) : settle v c x (r >>= k) = settle v c x (.error e) := by
  rw [hr]
  rfl

theorem settle_bind_of_ok {α : Type} {r : Except Stop α} {y : α} (hr : r = .ok y) (v : State) (k : α → Except Stop Done) :
    settle v c x (r >>= k) = settle v c x (k y) := by
  rw [hr]
  rfl

/-- A check of a value that an operand holds: E_RES with the operand's code (R402). -/
theorem settle_need_res (v : State) (b : Bool) (i : BitVec 5) (k : Unit → Except Stop Done) :
    settle v c x (need b (.res i) >>= k) =
      if b = true then settle v c x (k ()) else v.takeFault c x eRes 0 (resInfo i) 0 0 :=
  settle_need_fault ..

/-! ### The end of a run behind a result -/

/-- An instruction with a uniform result that ends its run. -/
theorem settle_doneS_ends (t : State) (d : Nat) (w : W) (tr : Trailer) {v : State} :
    settle v c x (.ok { doneS t c x d w with ends := some tr }) = (uniDone t c x d false w).endRun c x tr := by
  rw [← settle_doneS_any (v := v)]
  rfl

/-! ### What a change of a gang leaves -/

theorem State.nodes_modGang (s : State) (c x : Nat) (f : Gang → Gang) (c' q : Nat) :
    (s.modGang c x f).nodes c' q = s.nodes c' q := by
  unfold State.nodes
  rw [State.crew_modGang]
  by_cases h : c = c'
  · subst h
    rw [State.core_modGang_self]
  · rw [State.core_modGang_of_ne s x f h]

/-- A change of a gang that keeps its wave keeps the address space of its accesses. -/
theorem State.asidOf_modGang {g : Gang → Gang} (hs : (s.gang? c x).isSome) (hw : ∀ q, (g q).wave = q.wave) :
    (s.modGang c x g).asidOf c x = s.asidOf c x := by
  simp only [State.asidOf, State.crew_modGang, State.gang_modGang_self hs, hw]

/-! A flag that is raised or not. -/

section
variable (o : Bool) (fl : BitVec 14)

theorem tick_raise_if : (if o = true then s.modGang c x fun g => g.raise fl else s).tick = s.tick := by
  cases o
  · rfl
  · exact State.modGang_tick ..

theorem nodes_raise_if (c' q : Nat) :
    (if o = true then s.modGang c x fun g => g.raise fl else s).nodes c' q = s.nodes c' q := by
  cases o
  · rfl
  · exact State.nodes_modGang ..

theorem asidOf_raise_if (hs : (s.gang? c x).isSome) :
    (if o = true then s.modGang c x fun g => g.raise fl else s).asidOf c x = s.asidOf c x := by
  cases o
  · rfl
  · exact State.asidOf_modGang hs fun _ => rfl

end

theorem overruns_noteFallback (fb : Bool) (r : BitVec 128) (n : Nat) :
    overruns (noteFallback s c x fb) c x r n = overruns s c x r n := by
  unfold overruns
  rw [pinOf_noteFallback]

/-! ### Graphs (R315, R323) -/

theorem graphSize_eq (q : Nat) : graphSize q = graphLen q := rfl

theorem finished_iff (n : Node) : n.finished = true ↔ n.st = .done ∨ n.st = .killed := by
  simp [Node.finished]

theorem built_or_finished_iff (n : Node) : (n.st == .built || n.finished) = true ↔ ¬(n.st = .armed ∨ n.st = .running) := by
  cases h : n.st <;> simp [Node.finished, h]

theorem graphOf_eq (x : Nat) : graphOf x = graphNo x := by
  simp [graphOf, graphNo, isPlaza, crewSlot]

/-- A new node, or none free. -/
theorem settle_newNode (t : State) (d : Nat) (kind : NodeKind) {v : State} :
    settle v c x (.ok (newNode t c x d kind)) = built t c x d kind := by
  simp only [newNode, built, graphOf_eq, graphSize_eq]
  cases sfree (t.nodes c (graphNo x)) (graphLen (graphNo x)) 0 <;> exact settle_doneS_any ..

theorem built_of_free {t : State} {d id : Nat} {kind : NodeKind}
    (hfree : sfree (t.nodes c (graphNo x)) (graphLen (graphNo x)) 0 = some id) : built t c x d kind =
      uniDone (t.setNodes c (graphNo x) (sput (t.nodes c (graphNo x)) id { kind := kind })) c x d false (BitVec.ofNat 32 id) := by
  rw [built, hfree]

/-- The operand of a graph instruction names a node, or is refused. -/
theorem settle_nodeOk (v : State) (i : BitVec 5) (id : W) (k : Node → Except Stop Done) :
    settle v c x (nodeOk s c (graphNo x) i id >>= k) = (nodeAt s c x id).elim
      (v.takeFault c x eRes 0 (resInfo i) 0 0) fun n => settle v c x (k n) := by
  have hop : nodeOk s c (graphNo x) i id = match nodeAt s c x id with
      | some n => .ok n
      | none => .error (.res i) := rfl
  rw [hop]
  cases nodeAt s c x id <;> rfl

end Sys2Proof.Machine
end

section
/-! PROOFS. The graph instructions (R240, R244, R316 to R320, R323, R324). -/

namespace Sys2Proof.Safety

open Sys2Proof.Machine

variable {s : State} {c x : Nat} {f : EX}

theorem exec_gnCp (f : EX) (s : State) : exec (.gnCp f) s = execGnCp f s := rfl
theorem exec_gnWk (f : EX) (s : State) : exec (.gnWk f) s = execGnWk f s := rfl
theorem exec_gnMx (f : EX) (s : State) : exec (.gnMx f) s = execGnMx f s := rfl
theorem exec_gnEdge (f : EX) (s : State) : exec (.gnEdge f) s = execGnEdge f s := rfl
theorem exec_gnArm (f : EX) (s : State) : exec (.gnArm f) s = execGnArm f s := rfl
theorem exec_gnWait (f : EX) (s : State) : exec (.gnWait f) s = execGnWait f s := rfl
theorem exec_gnKill (f : EX) (s : State) : exec (.gnKill f) s = execGnKill f s := rfl
theorem exec_gnFree (f : EX) (s : State) : exec (.gnFree f) s = execGnFree f s := rfl

/-! ### Building nodes -/

/-- The checks of `gn.cp`, in their order (R320). -/
def copyChecks (s : State) (c x : Nat) (src dst : BitVec 128) (n : Nat) : List (Bool × Byte) :=
  [(recBad src || recBad dst, eRec), (recEsize src != recEsize dst, eFmt), (recRo dst, ePerm),
    ((recStrict src && shortOf src n) || (recStrict dst && shortOf dst n), eBnd),
    (overruns s c x src n || overruns s c x dst n, ePerm)]

theorem gnCp_of_ready {a b : W} (h : Ready s c x (exForm .dest .read .read f) [.s a, .s b]) :
    let s' := noteFallback s c x (exFallback .dest .read .read f)
    let g := s.gang c x
    let src := vget g.recs (a.toNat % 16) 0
    let dst := vget g.recs (a.toNat / 16 % 16) 0
    let n := b.toNat
    exec (.gnCp f) s = .next ((firstFault (copyChecks s c x src dst n)).elim
      (built (if shortOf src n || shortOf dst n then s'.modGang c x fun g => g.raise fOob else s') c x f.d.toNat
        (.copy { src := src, dst := dst, n := n, pc := g.pc, ctx := x, asid := s.asidOf c x, down := Config.copyDown s.tick }))
      fun e => s'.takeFault c x e 0 0 0 0) := by
  intro s' g src dst n
  have hs := State.issuer_gang h.issues
  rw [exec_gnCp, execGnCp, issue_of_ready h, ← settle_newNode (v := s'), ← settle_passing]
  refine congrArg _ (congrArg (settle s' c x) ?_)
  have hasid (o : Bool) : (if o = true then s'.modGang c x fun g => g.raise fOob else s').asidOf c x = s.asidOf c x :=
    (asidOf_raise_if o fOob (gang?_noteFallback_isSome hs _)).trans (asidOf_noteFallback hs _)
  have htick (o : Bool) : (if o = true then s'.modGang c x fun g => g.raise fOob else s').tick = s.tick :=
    (tick_raise_if o fOob).trans (tick_noteFallback _)
  rw [← hasid (shortOf src n || shortOf dst n), ← htick (shortOf src n || shortOf dst n)]
  simp only [passing, copyChecks, Bool.not_or, bne, Bool.not_not, recs_noteFallback hs, overruns_noteFallback, pc_noteFallback hs]
  rfl

theorem gnWk_of_ready (h : Ready s c x { exForm .dest (.idx 32) .zero f with
      legal := (exForm .dest (.idx 32) .zero f).legal && f.a != 0 && f.a != f.d,
      dests := sDest f.a ++ (exForm .dest (.idx 32) .zero f).dests } []) :
    let s' := noteFallback s c x (exFallback .dest (.idx 32) .zero f)
    let full := (sfree (s.nodes c (graphNo x)) (graphLen (graphNo x)) 0).isNone
    exec (.gnWk f) s = .next (built (if full then s' else s'.emptyS c x f.a.toNat) c x f.d.toNat (.wake x f.a.toNat)) := by
  intro s' full
  rw [exec_gnWk, execGnWk]
  refine (issue_of_ready h _).trans (congrArg _ ?_)
  simp only [graphOf_eq, nodes_noteFallback]
  exact settle_newNode ..

section
variable {a : W} (hx : x ≠ 64) (h : Ready s c x (exForm .dest .read .zero f) [.s a])
include hx h

theorem gnMx_of_error {e : Stop} (hm : mxOfWord (noteFallback s c x (exFallback .dest .read .zero f)) c x a = .error e) :
    exec (.gnMx f) s = .next (settle (noteFallback s c x (exFallback .dest .read .zero f)) c x (.error e)) := by
  rw [exec_gnMx, execGnMx, issue_of_ready h, settle_notPlaza, if_neg hx]
  exact congrArg _ (settle_bind_of_error hm ..)

theorem gnMx_of_ok {m : MxCmd} {oob : Bool}
    (hm : mxOfWord (noteFallback s c x (exFallback .dest .read .zero f)) c x a = .ok (m, oob)) :
    let s' := noteFallback s c x (exFallback .dest .read .zero f)
    exec (.gnMx f) s = .next ((sfree (s.nodes c (graphNo x)) (graphLen (graphNo x)) 0).elim
      (uniDone s' c x f.d.toNat false 0xffffffff) fun id =>
        built (if oob then s'.modGang c x fun g => g.raise fOob else s') c x f.d.toNat (.matrix { m with node := some id })) := by
  intro s'
  rw [exec_gnMx, execGnMx, issue_of_ready h, settle_notPlaza, if_neg hx]
  refine congrArg _ ((settle_bind_of_ok hm ..).trans ?_)
  simp only [graphOf_eq, graphSize_eq, nodes_noteFallback]
  cases hfree : sfree (s.nodes c (graphNo x)) (graphLen (graphNo x)) 0 with
  | none => exact settle_doneS_any ..
  | some id =>
    have hnodes : (if oob = true then s'.modGang c x fun g => g.raise fOob else s').nodes c (graphNo x) = s.nodes c (graphNo x) :=
      (nodes_raise_if oob fOob ..).trans (nodes_noteFallback ..)
    exact (settle_doneS_any ..).trans (built_of_free (hnodes ▸ hfree)).symm

end

/-! ### Edges, and what is done with a node -/

/-- A node may have B as a successor: it has room, and the edge closes no cycle (R316). -/
theorem mayFollow_iff (k : Nat) (a b : W) (r : Bool) :
    (k < 8 && a.toNat != b.toNat && !r) = true ↔ k < 8 ∧ a ≠ b ∧ r = false := by
  simp [and_assoc, BitVec.toNat_inj]

section
variable {a b : W} (h : Ready s c x (exForm .zero .read .read f) [.s a, .s b])
include h

/-- `gn.edge`: both operands name nodes, B is BUILT, and A may have B as a successor (R316, R323). -/
theorem gnEdge_of_ready :
    let s' := noteFallback s c x (exFallback .zero .read .read f)
    let q := graphNo x
    let bad := fun i => s'.takeFault c x eRes 0 (resInfo i) 0 0
    exec (.gnEdge f) s = .next ((nodeAt s' c x a).elim (bad f.a) fun m => (nodeAt s' c x b).elim (bad f.b) fun n =>
      if n.st = .built then
        if m.succ.length < 8 ∧ a ≠ b ∧ reaches (s'.nodes c q) a.toNat 64 [b.toNat] = false then
          let t := s'.modNode c q a.toNat fun d => { d with succ := d.succ ++ [b.toNat] }
          plainDone (if m.st = .done ∨ m.st = .killed then (t.lowerNode c q m.status [] b.toNat).1 else t) c x false
        else bad f.a
      else bad f.b) := by
  intro s' q bad
  rw [exec_gnEdge, execGnEdge, issue_of_ready h]
  simp only [settle_nodeOk, settle_need_res, settle_pure, settle_done_any, graphOf_eq, beq_iff_eq, finished_iff]
  refine congrArg _ (congrArg _ (funext fun m => congrArg _ (funext fun n => ?_)))
  exact ite_congr rfl (fun _ => ite_congr (propext (mayFollow_iff ..)) (fun _ => rfl) fun _ => rfl) fun _ => rfl

/-- `gn.arm`: the operand names a BUILT node, the count is at most 64, and the LS path is done (R317, R324). -/
theorem gnArm_of_ready :
    let s' := noteFallback s c x (exFallback .zero .read .read f)
    let bad := fun i => s'.takeFault c x eRes 0 (resInfo i) 0 0
    exec (.gnArm f) s = .next ((nodeAt s' c x a).elim (bad f.a) fun n =>
      if n.st = .built then
        if b.toNat ≤ 64 then
          if s'.fenceDone c x 1 4 then
            plainDone ((s'.armNode c (graphNo x) a.toNat b.toNat).reap c x) c x false
          else s'.park c x .fence 0
        else bad f.b
      else bad f.a) := by
  intro s' bad
  rw [exec_gnArm, execGnArm, issue_of_ready h]
  simp only [settle_nodeOk, settle_need_res, settle_need_park, settle_pure, settle_done_any, graphOf_eq, beq_iff_eq,
    decide_eq_true_eq]
  rfl

end

section
variable {a : W}

theorem gnWait_of_ready (h : Ready s c x (exForm .dest .read .zero f) [.s a]) :
    let s' := noteFallback s c x (exFallback .dest .read .zero f)
    let bad := s'.takeFault c x eRes 0 (resInfo f.a) 0 0
    exec (.gnWait f) s = .next ((nodeAt s' c x a).elim bad fun n =>
      if n.st ≠ .built then
        if n.st = .done ∨ n.st = .killed then (uniDone s' c x f.d.toNat false (BitVec.ofNat 32 n.status)).endRun c x {}
        else s'.park c x .node (BitVec.ofNat 8 a.toNat)
      else bad) := by
  intro s' bad
  rw [exec_gnWait, execGnWait, issue_of_ready h]
  simp only [settle_nodeOk, settle_need_res, settle_need_park, graphOf_eq, bne_iff_ne, finished_iff]
  refine congrArg _ (congrArg _ (funext fun n => ?_))
  exact ite_congr rfl (fun _ => ite_congr rfl (fun _ => settle_doneS_ends ..) fun _ => rfl) fun _ => rfl

variable (h : Ready s c x (exForm .zero .read .zero f) [.s a])
include h

theorem gnKill_of_ready :
    let s' := noteFallback s c x (exFallback .zero .read .zero f)
    exec (.gnKill f) s = .next ((nodeAt s' c x a).elim (s'.takeFault c x eRes 0 (resInfo f.a) 0 0) fun _ =>
      plainDone ((s'.killNodes c (graphNo x) 1024 [a.toNat]).reap c x) c x false) := by
  intro s'
  rw [exec_gnKill, execGnKill, issue_of_ready h]
  simp only [settle_nodeOk, graphOf_eq]
  exact congrArg _ (congrArg _ (funext fun _ => settle_done_any _))

theorem gnFree_of_ready :
    let s' := noteFallback s c x (exFallback .zero .read .zero f)
    let q := graphNo x
    let bad := s'.takeFault c x eRes 0 (resInfo f.a) 0 0
    exec (.gnFree f) s = .next ((nodeAt s' c x a).elim bad fun n =>
      if n.st = .armed ∨ n.st = .running then bad
      else plainDone (s'.setNodes c q ((sdel (s'.nodes c q) a.toNat).map fun p =>
        (p.1, { p.2 with succ := p.2.succ.filter fun m => m != a.toNat }))) c x false) := by
  intro s' q bad
  rw [exec_gnFree, execGnFree, issue_of_ready h]
  simp only [settle_nodeOk, settle_need_res, graphOf_eq, built_or_finished_iff, ite_not]
  exact congrArg _ (congrArg _ (funext fun _ => ite_congr rfl (fun _ => rfl) fun _ => settle_done_any _))

end

theorem graphNodes : GraphNodes := by
  refine ⟨fun f s c x a b h => ?copy, fun f s c x _ _ h => gnWk_of_ready h, fun f s c x a hx h => ?matrix,
    fun f s c x a b m n h => ?edge⟩
  case copy =>
    intro s' g src dst n short bad
    refine ⟨fun e he => (gnCp_of_ready h).trans ?_, fun hnone => (gnCp_of_ready h).trans ?_⟩
    · exact congrArg _ (congrArg (Option.elim · _ _) he)
    · exact congrArg _ (congrArg (Option.elim · _ _) hnone)
  case matrix =>
    intro s'
    refine ⟨fun e he => gnMx_of_error hx h he, fun m oob hm => ⟨fun id hfree => ?_, fun hfull => ?_⟩⟩
    · rw [gnMx_of_ok hx h hm, hfree]
      rfl
    · rw [gnMx_of_ok hx h hm, hfull]
      rfl
  case edge =>
    intro s' q ha
    refine ⟨fun hb => ?_, fun hb => ?_⟩
    · rw [gnEdge_of_ready h, ha, hb]
      rfl
    · rw [gnEdge_of_ready h, ha, hb]
      refine congrArg _ ?_
      by_cases hbuilt : n.st = .built
      · have hboth (p : Prop) : p = (n.st = .built ∧ p) := propext ⟨fun hp => ⟨hbuilt, hp⟩, fun hand => hand.2⟩
        exact (if_pos hbuilt).trans (ite_congr (hboth _) (fun _ => rfl) fun _ => by rw [if_pos hbuilt])
      · exact (if_neg hbuilt).trans ((if_neg fun hand => hbuilt hand.1).trans (by rw [if_neg hbuilt])).symm

theorem graphControl : GraphControl := by
  intro s c x q
  refine ⟨fun f a b h => ?arm, fun f a h => ?wait, fun f a h => ?killAndFree⟩
  case arm =>
    intro s' bad
    refine ⟨fun hnone => ⟨?_, ?_⟩, fun n hn => ⟨fun hst => ?_, fun hst hb => ?_, fun hst hb => ?_⟩⟩
    · rw [gnArm_of_ready h, hnone]; rfl
    · rw [gnEdge_of_ready h, hnone]; rfl
    all_goals rw [gnArm_of_ready h, hn]; refine congrArg _ ?_
    · exact if_neg hst
    · exact (if_pos hst).trans (if_neg (Nat.not_le.mpr hb))
    · exact (if_pos hst).trans (if_pos hb)
  case wait =>
    intro s' bad
    have hwait := gnWait_of_ready h
    refine ⟨fun hnone => hwait.trans ?_, fun n hn => ⟨fun hst => hwait.trans ?_, fun hst => hwait.trans ?_,
      fun hst => hwait.trans ?_⟩⟩
    · rw [hnone]; rfl
    all_goals rw [hn]; refine congrArg _ ?_
    · exact if_neg fun hne => hne hst
    · obtain hst | hst := hst <;> exact (if_pos (by simp [hst])).trans (if_neg (by simp [hst]))
    · obtain hst | hst := hst <;> exact (if_pos (by simp [hst])).trans (if_pos (by simp [hst]))
  case killAndFree =>
    intro s' bad
    refine ⟨fun hnone => ⟨?_, ?_⟩, fun n hn => ⟨?_, ?_⟩⟩
    · rw [gnKill_of_ready h, hnone]; rfl
    · rw [gnFree_of_ready h, hnone]; rfl
    · rw [gnKill_of_ready h, hn]; rfl
    · rw [gnFree_of_ready h, hn]; rfl

/-- Settles O34: each instruction by its checks in order and then its body; a checked operand is the node that it names, or
the fault. -/
theorem graphs : Obligations.Graphs := ⟨graphNodes, graphControl⟩

end Sys2Proof.Safety
end

section
/-! SUPPORT. What message buffers, the pieces of a payload and what a destination does with a message come to. -/

namespace Sys2Proof.Machine

open Sys2Proof.Safety

variable {s : State} {c x : Nat}

/-- The checks of a buffer (R263, R264), in front of a body. -/
theorem settle_bufferCheck (v : State) (a : W) (n : Nat) (k : Unit → Except Stop Done) :
    settle v c x (bufferCheck s c x a n >>= k) =
      (bufferFault s c x a n).elim (settle v c x (k ())) fun e => v.takeFault c x e 0 0 0 0 := by
  rw [bufferFault, ← settle_passing]
  refine congrArg _ ?_
  simp only [bufferCheck, passing, bind_assoc, coreOfAddr, bne, Bool.not_or, Bool.not_not, ← decide_not, Nat.not_lt]

theorem hdrLen_eq (h : W) : hdrLen h = 16 * (h.toNat / 2 ^ 16 % 16 + 1) := rfl

theorem Msg.pieces_eq (m : Msg) : m.pieces = m.hdr.toNat / 2 ^ 16 % 16 + 1 := by
  rw [Msg.pieces, hdrLen_eq, Nat.mul_div_cancel_left _ (by decide)]

/-! ### What counts leave (R237) -/

@[simp] theorem State.modCount_msgs (s : State) (c x i : Nat) (f : Nat → Nat) : (s.modCount c x i f).msgs = s.msgs := by
  unfold State.modCount
  split
  · exact State.modGang_msgs ..
  · exact State.putArea_msgs ..

@[simp] theorem State.countHome_msgs (s : State) (c x p home : Nat) (f : Nat → Nat) :
    (s.countHome c x p home f).msgs = s.msgs := by
  refine List.foldlRecOn (motive := fun t : State => t.msgs = s.msgs) _ _ rfl fun t ht sc _ => ?_
  split
  · rw [State.modCount_msgs, ht]
  · exact ht

/-! ### A message at its destination (R259, R260) -/

section
variable {m : Msg} {bytes : List Byte}

theorem takeMsg_of_no_crew (hcrew : s.crewOf m.dst m.launch = none) : s.takeMsg m bytes = (s, 3) := by
  simp only [State.takeMsg, hcrew]

variable {q : Nat} (hcrew : s.crewOf m.dst m.launch = some q)
include hcrew

theorem takeMsg_of_receive {r : Receive}
    (hit : ((s.core m.dst).receives.find? fun r => r.launch == m.launch && selMatches r.sel (hdrFrom m.hdr m.src)) = some r) :
    s.takeMsg m bytes = ((s.modCore m.dst fun k => { k with receives := k.receives.erase r }).deliver m.dst r.ctx r.creg r.addr
      (hdrFrom m.hdr m.src) bytes m.bad, 0) := by
  simp only [State.takeMsg, hcrew, hit]

variable (hit : ((s.core m.dst).receives.find? fun r => r.launch == m.launch && selMatches r.sel (hdrFrom m.hdr m.src)) = none)
include hit

theorem takeMsg_of_room (hroom : (s.core m.dst).layby.length < 32) :
    s.takeMsg m bytes = (s.modCore m.dst fun k =>
      let e : Layby := { hdr := hdrFrom m.hdr m.src, payload := bytes, bad := m.bad, launch := m.launch }
      { k with layby := k.layby ++ [e] }, 1) := by
  simp only [State.takeMsg, hcrew, hit, if_pos hroom]

theorem takeMsg_of_full (hfull : 32 ≤ (s.core m.dst).layby.length) :
    s.takeMsg m bytes = (s.overflow m.dst q (hdrFrom m.hdr m.src), 2) := by
  simp only [State.takeMsg, hcrew, hit, if_neg (Nat.not_lt.mpr hfull)]

end

end Sys2Proof.Machine
end

section
/-! PROOFS. Messages and routers (R237, R256 to R260, R263 to R267). -/

namespace Sys2Proof.Safety

open Sys2Proof.Machine

variable {s : State} {c x : Nat} {f : EX}

theorem exec_msend (f : EX) (s : State) : exec (.msend f) s = execMsend f s := rfl
theorem exec_mrecv (f : EX) (s : State) : exec (.mrecv f) s = execMrecv f s := rfl
theorem exec_mcancel (f : EX) (s : State) : exec (.mcancel f) s = execMcancel f s := rfl
theorem exec_mprobe (f : EX) (s : State) : exec (.mprobe f) s = execMprobe f s := rfl
theorem exec_messageArrival (n : Nat) (s : State) : exec (.messageArrival n) s = execMessageArrival n s := rfl
theorem exec_msendStatus (n : Nat) (s : State) : exec (.msendStatus n) s = execMsendStatus n s := rfl
theorem exec_routerPowerDown (n : Nat) (s : State) : exec (.routerPowerDown n) s = execRouterPowerDown n s := rfl
theorem exec_routerWakeSignal (n : Nat) (s : State) : exec (.routerWakeSignal n) s = execRouterWakeSignal n s := rfl
theorem exec_routerWakeDone (n : Nat) (s : State) : exec (.routerWakeDone n) s = execRouterWakeDone n s := rfl

/-! ### The message instructions (R263 to R266) -/

/-- The gang retires with s`d` empty: its value comes later. -/
def closed (c x d : Nat) (t : State) : State :=
  t.modGang c x (retired false 0 4 { val := none, dest := BitVec.ofNat 8 (64 + d), w := false })

/-- The message leaves the gang, counted at its own core and at the destination's (R237, R263). -/
def sent (s : State) (c x d : Nat) (a h : W) : State :=
  let m : Msg := { src := c, ctx := x, creg := d, addr := a.toNat, dst := hdrCore h, hdr := h, launch := s.launchOf c x }
  ((({ s with msgs := sput s.msgs s.nextId m, nextId := s.nextId + 1 }.countHome c x 4 c (· + 1)).countHome c x 4
    (hdrCore h) (· + 1)).emptyS c x d)

/-- The receive takes a message of the lay-by, or is posted, or is refused where 64 are (R264). -/
def received (t : State) (c x d : Nat) (a sel : W) : State :=
  match t.laybyMatch c (t.launchOf c x) sel with
  | some l => ((t.modCore c fun k => { k with layby := k.layby.erase l }).clearOvf c).deliver c x d a.toNat l.hdr l.payload l.bad
  | none =>
    if (t.core c).receives.length < 64 then t.modCore c fun k =>
      { k with receives := k.receives ++ [{ ctx := x, sel := sel, addr := a.toNat, creg := d, launch := t.launchOf c x }] }
    else t.fillS c x d 0xfffffffe

theorem received_of_some {t : State} {d : Nat} {a sel : W} {l : Layby} (hl : t.laybyMatch c (t.launchOf c x) sel = some l) :
    received t c x d a sel = ((t.modCore c fun k => { k with layby := k.layby.erase l }).clearOvf c).deliver c x d a.toNat l.hdr
      l.payload l.bad := by
  rw [received, hl]

theorem received_of_none {t : State} {d : Nat} {a sel : W} (hnone : t.laybyMatch c (t.launchOf c x) sel = none) :
    received t c x d a sel = if (t.core c).receives.length < 64 then t.modCore c fun k =>
        { k with receives := k.receives ++ [{ ctx := x, sel := sel, addr := a.toNat, creg := d, launch := t.launchOf c x }] }
      else t.fillS c x d 0xfffffffe := by
  rw [received, hnone]

section
variable {a h : W} {u : State} (hx : x ≠ 64) (hr : Ready s c x (exForm .dest .read .read f) [.s a, .s h])
  (hu : noteFallback s c x (exForm .dest .read .read f).fb = u)
include hx hr hu

theorem msend_of_ready :
    exec (.msend f) s = .next ((bufferFault u c x a (hdrLen h)).elim
      (if hdrCore h < 1536 then closed c x f.d.toNat (sent u c x f.d.toNat a h) else u.takeFault c x ePerm 0 0 0 0)
      fun e => u.takeFault c x e 0 0 0 0) := by
  rw [exec_msend, execMsend, issue_of_ready hr, settle_notPlaza, if_neg hx, hu]
  simp only [settle_bufferCheck, settle_need_prop]
  exact congrArg _ (congrArg (Option.elim _ · _) (ite_congr rfl (fun _ => settle_later ..) fun _ => rfl))

theorem mrecv_of_ready :
    let t := u.emptyS c x f.d.toNat
    exec (.mrecv f) s = .next ((bufferFault u c x a 256).elim (closed c x f.d.toNat (received t c x f.d.toNat a h))
      fun e => u.takeFault c x e 0 0 0 0) := by
  intro t
  rw [exec_mrecv, execMrecv, issue_of_ready hr, settle_notPlaza, if_neg hx, hu]
  simp only [settle_bufferCheck, show uVal [Val.s a, .s h] 0 = a from rfl, show uVal [Val.s a, .s h] 1 = h from rfl]
  refine congrArg _ (congrArg (Option.elim _ · _) ?_)
  change _ = closed c x f.d.toNat (received (u.emptyS c x f.d.toNat) c x f.d.toNat a h)
  rw [received]
  cases (u.emptyS c x f.d.toNat).laybyMatch c ((u.emptyS c x f.d.toNat).launchOf c x) h with
  | some l => exact settle_later ..
  | none => exact (apply_ite ..).trans ((ite_congr rfl (fun _ => settle_later ..) fun _ => settle_later ..).trans
      (apply_ite (closed c x f.d.toNat) ..).symm)

end

theorem mcancel_of_ready (hr : Ready s c x { exForm .dest .zero .zero f with dests := [] } []) :
    let s' := noteFallback s c x (exFallback .dest .zero .zero f)
    exec (.mcancel f) s = .next (plainDone
      (((s'.core c).receives.find? fun r => r.ctx == x && r.creg == f.d.toNat).elim s' fun r =>
        (s'.modCore c fun k => { k with receives := k.receives.erase r }).fillS c x f.d.toNat 0xffffffff) c x false) := by
  intro s'
  rw [exec_mcancel, execMcancel, issue_of_ready hr]
  refine congrArg _ ?_
  change settle s' c x (match (s'.core c).receives.find? _ with | some r => _ | none => _) = _
  cases (s'.core c).receives.find? fun r => r.ctx == x && r.creg == f.d.toNat with
  | some r => exact settle_done_any _
  | none => exact settle_done_any _

theorem mprobe_of_ready {a : W} (hr : Ready s c x (exForm .dest .zero .read f) [.s a]) :
    let s' := noteFallback s c x (exFallback .dest .zero .read f)
    exec (.mprobe f) s = .next (uniDone s' c x f.d.toNat false
      (((s'.laybyMatch c (s'.launchOf c x) a).map (·.hdr)).getD 0xffffffff)) := by
  intro s'
  rw [exec_mprobe, execMprobe, issue_of_ready hr]
  refine congrArg _ ((settle_doneS_any ..).trans ?_)
  change uniDone s' c x f.d.toNat false (match s'.laybyMatch c (s'.launchOf c x) a with | some l => _ | none => _) = _
  cases s'.laybyMatch c (s'.launchOf c x) a <;> rfl

theorem messages : Messages := by
  intro s c x
  refine ⟨fun f a h hx hr => ?sendAndReceive, fun f hr => ?cancel, fun f a hr => mprobe_of_ready hr⟩
  case sendAndReceive =>
    intro s' d dst gone
    have hsend := msend_of_ready hx hr (u := s') rfl
    have hrecv := mrecv_of_ready hx hr (u := s') rfl
    refine ⟨fun e he => hsend.trans ?_, fun hok => ⟨fun hfar => hsend.trans ?_, fun hnear => hsend.trans ?_⟩,
      fun e he => hrecv.trans ?_, fun hok => ?_⟩
    · rw [hdrLen_eq, he]; rfl
    · rw [hdrLen_eq, hok]
      exact congrArg _ (if_neg (Nat.not_lt.mpr hfar))
    · rw [hdrLen_eq, hok]
      exact congrArg _ (if_pos hnear)
    · rw [he]; rfl
    · intro t found
      refine ⟨fun l hl => hrecv.trans ?_, fun hnone => hrecv.trans ?_⟩
      · rw [hok]
        exact congrArg _ (congrArg (closed c x d) (received_of_some hl))
      · rw [hok]
        exact congrArg _ (congrArg (closed c x d) (received_of_none hnone))
  case cancel =>
    intro s' found
    refine ⟨fun r hfound => (mcancel_of_ready hr).trans ?_, fun hnone => (mcancel_of_ready hr).trans ?_⟩
    · exact congrArg _ (congrArg (plainDone · c x false) (congrArg (Option.elim · _ _) hfound))
    · exact congrArg _ (congrArg (plainDone · c x false) (congrArg (Option.elim · _ _) hnone))

/-! ### The message unit (R257 to R260, R264, R267) -/

section
variable {n : Nat} {m : Msg} (hm : sget s.msgs n = some m)
include hm

theorem payloadRead_of_unread {i : Nat} (hi : i < m.pieces) (hgot : sget m.got i = none) :
    let key := sramKey m.addr + 16 * i
    let m' := { m with got := sput m.got i (readBytes s.mem key 16) }
    let u := { s with msgs := sput s.msgs n m' }
    payloadRead n i s =
      if s.isBad key 16 then
        ({ (s.countHome m.src m.ctx 4 m.src (· - 1)).countHome m.src m.ctx 4 m.dst (· - 1) with
          msgs := sdel s.msgs n }.poisonS m.src m.ctx m.creg 3).reap m.src m.ctx
      else if m'.got.length < m.pieces then u
      else (u.countHome m.src m.ctx 4 m.src (· - 1)).wakeRoute 0 m.src m.dst := by
  intro key m' u
  have hnew : ¬(m.pieces ≤ i || (sget m.got i).isSome) = true := by simp [hgot, hi]
  simp only [payloadRead, hm]
  refine (if_neg hnew).trans ?_
  rw [State.countHome_msgs, State.countHome_msgs]
  rfl

theorem messageArrival_of_answered (hst : m.status.isSome = true ∨ m.got.length < m.pieces) :
    exec (.messageArrival n) s = .next s := by
  simp only [exec_messageArrival, execMessageArrival, hm]
  exact if_pos (by simpa using hst)

theorem messageArrival_of_whole (hst : m.status = none) (hgot : m.pieces ≤ m.got.length) {u : State} {st : Nat}
    (htake : (s.countHome m.src m.ctx 4 m.dst (· - 1)).takeMsg m m.payload = (u, st)) :
    exec (.messageArrival n) s =
      .next ({ u with msgs := sput u.msgs n { m with status := some st } }.wakeRoute 1 m.dst m.src) := by
  simp only [exec_messageArrival, execMessageArrival, hm, htake]
  exact if_neg (by simp [hst, hgot])

theorem msendStatus_of_none (hst : m.status = none) : exec (.msendStatus n) s = .next s := by
  simp only [exec_msendStatus, execMsendStatus, hm, hst]

theorem msendStatus_of_some {st : Nat} (hst : m.status = some st) :
    let t := { s with msgs := sdel s.msgs n }
    exec (.msendStatus n) s = .next ((if st = 3 then t.poisonS m.src m.ctx m.creg 2
      else t.fillS m.src m.ctx m.creg (BitVec.ofNat 32 st)).reap m.src m.ctx) := by
  intro t
  simp only [exec_msendStatus, execMsendStatus, hm, hst]
  rfl

end

theorem messageUnit : MessageUnit := by
  intro s n m hm pieces
  have hp : m.pieces = pieces := m.pieces_eq
  clear_value pieces
  subst hp
  refine ⟨fun i hi hgot => payloadRead_of_unread hm hi hgot, fun _ hpart => messageArrival_of_answered hm (.inr hpart),
    fun hst hgot => ?whole, fun hst => msendStatus_of_none hm hst,
    fun st hst => ⟨messageArrival_of_answered hm (.inl (by simp [hst])), msendStatus_of_some hm hst⟩⟩
  case whole =>
    intro hdr t bytes finish
    have harrive {u : State} {st : Nat} (htake : t.takeMsg m bytes = (u, st)) : finish u st :=
      messageArrival_of_whole hm hst hgot htake
    refine ⟨fun hcrew => harrive (takeMsg_of_no_crew hcrew), fun q hcrew => ?_⟩
    intro hit
    exact ⟨fun r hr => harrive (takeMsg_of_receive hcrew hr), fun hno hroom => harrive (takeMsg_of_room hcrew hno hroom),
      fun hno hfull => harrive (takeMsg_of_full hcrew hno hfull)⟩

/-! ### Routers (R256) -/

theorem mayPowerDown_iff (s : State) (n : Nat) : s.mayPowerDown n = true ↔
    (s.router n).up = true ∧ (s.router n).waking = none ∧ 128 ≤ s.clock - (s.router n).since ∧ n ∉ s.wakes ∧
      bridgeRouter n = false := by
  have hclock : 256 ≤ 2 * (s.clock - (s.router n).since) ↔ 128 ≤ s.clock - (s.router n).since := by omega
  simp [State.mayPowerDown, hclock, and_assoc]

theorem routers : Routers := by
  intro s n r
  refine ⟨?down, ?signal, fun hidle => ?idle, fun t ht => ?done⟩
  case down =>
    rw [exec_routerPowerDown, execRouterPowerDown]
    simp only [mayPowerDown_iff]
    rfl
  case signal => rfl
  case idle =>
    rw [exec_routerWakeDone, execRouterWakeDone, hidle]
  case done =>
    rw [exec_routerWakeDone, execRouterWakeDone, ht]
    rfl

/-- Settles O35: the instructions by their checks, a message by its pieces and its status, at its destination by what
`takeMsg` finds there, and a router by its conditions. -/
theorem messagePassing : Obligations.MessagePassing := ⟨messages, messageUnit, routers⟩

end Sys2Proof.Safety
end

section
/-! SUPPORT. What a matrix instruction settles to: the refusals in front of its body, and a command that its checks answer
(R279, R292, R310, R312). -/

namespace Sys2Proof.Machine

open Sys2Proof.Safety

variable {s : State} {c x : Nat}

/-! ### The refusals (R279, R292, R310) -/

theorem deferred_of_none (h : (s.gang c x).inMx = true ∨ (s.crew c (x / 16)).mxErr = none) : deferred s c x = .ok () := by
  unfold deferred crewSlot
  obtain hwait | hnone := h
  · rw [if_pos hwait]
  · rw [hnone]
    exact ite_self _

theorem deferred_of_some {code cause : Byte} {pc : PC} (hin : (s.gang c x).inMx = false)
    (herr : (s.crew c (x / 16)).mxErr = some (code, cause, pc)) : deferred s c x = .error (.fault code cause 0 pc 2) := by
  unfold deferred crewSlot
  rw [herr]
  exact if_neg (Bool.eq_false_iff.mp hin)

/-- A state with the issuer and the halts of the one in which the instruction issues reports no deferred error. -/
theorem clearReported_of_keeps (hi : s.issuer = some (c, x)) (ht : Tensor s c x) {fb : Bool} {t : State}
    (hk : Keeps (noteFallback s c x fb) t) : clearReported t = t :=
  ((keeps_noteFallback fb).trans hk).clear (State.issuer_cur hi) ht.noHalt

/-- Nor does an instruction's own fault. -/
theorem clearReported_own_fault (hi : s.issuer = some (c, x)) (hx : x ≠ 64) (fb : Bool) (code : Byte) (info : W) :
    clearReported ((noteFallback s c x fb).takeFault c x code 0 info 0 0) =
      (noteFallback s c x fb).takeFault c x code 0 info 0 0 :=
  clearReported_fault ((cur_noteFallback _).trans (State.issuer_cur hi))
    (gang?_noteFallback_isSome (State.issuer_gang hi) _) hx ..

section
variable {fm : Form} {vs : List Val} (h : Ready s c x { fm with wide := true } vs)
  (body : State → Nat → Nat → List Val → Except Stop Done)
include h

theorem issueMx_plaza (hx : x = 64) (hh : (s.gang c x).halt = none) :
    issueMx s fm body = .next ((noteFallback s c x fm.fb).takeFault c x ePerm 0 0 0 0) := by
  subst hx
  have hs := State.issuer_gang h.issues
  rw [issueMx_ready h]
  exact congrArg _ (clearReported_plaza ((cur_noteFallback _).trans (State.issuer_cur h.issues)) _ _ _ _ _
    ((congrArg (· = none) (halt_noteFallback hs _)).mpr hh))

theorem issueMx_deferred (hx : x ≠ 64) {code cause : Byte} {pc : PC} (hin : (s.gang c x).inMx = false)
    (herr : (s.crew c (x / 16)).mxErr = some (code, cause, pc)) :
    issueMx s fm body = .next (((noteFallback s c x fm.fb).takeFault c x code cause 0 pc 2).modCrew c (x / 16) fun w =>
      { w with mxErr := none }) := by
  have hs := State.issuer_gang h.issues
  rw [issueMx_ready h, notPlaza_ok hx, deferred_noteFallback hs, deferred_of_some hin herr]
  exact congrArg _ (clearReported_reported ((cur_noteFallback _).trans (State.issuer_cur h.issues))
    (gang?_noteFallback_isSome hs _) hx ..)

theorem issueMx_no_role (hx : x ≠ 64) (herr : (s.gang c x).inMx = true ∨ (s.crew c (x / 16)).mxErr = none)
    (hrole : bit (s.gang c x).role 0 = false) :
    issueMx s fm body = .next ((noteFallback s c x fm.fb).takeFault c x eRole 0 0 0 0) := by
  have hs := State.issuer_gang h.issues
  rw [issueMx_ready h, notPlaza_ok hx, deferred_noteFallback hs, deferred_of_none herr, role_noteFallback hs, hrole]
  exact congrArg _ (clearReported_own_fault h.issues hx ..)

/-- Past the refusals stands the instruction's own body. -/
theorem issueMx_of_tensor (ht : Tensor s c x) :
    issueMx s fm body = .next (clearReported (settle (noteFallback s c x fm.fb) c x
      (body (noteFallback s c x fm.fb) c x vs))) := by
  have hs := State.issuer_gang h.issues
  rw [issueMx_ready h, notPlaza_ok ht.gang, deferred_noteFallback hs, deferred_of_none ht.noError, role_noteFallback hs,
    ht.role]
  rfl

end

/-! ### Commands (R290, R295, R304, R312) -/

/-- The command that the checks answer enters its queue, and the instruction retires. -/
def queueChecked (s : State) (check : Except Stop (MxCmd × Bool)) : Except Stop Done :=
  check >>= fun p => queueMx s p.1 p.2 >>= fun t => pure (done t)

theorem Keeps.queued (s : State) (m : MxCmd) (oob : Bool) : Keeps s (queued s m oob) := by
  cases oob
  · exact Keeps.enqueueMx s m
  · exact (Keeps.modGang s m.core m.ctx (fun g => g.raise fOob) fun _ => rfl).trans (Keeps.enqueueMx _ m)

theorem Keeps.plainDone (s : State) (c x : Nat) (fb : Bool) : Keeps s (plainDone s c x fb) :=
  Keeps.modGang s c x _ fun _ => rfl

/-- A command that has passed its checks enters where there is room; else the group parks. -/
theorem settle_queueMx (v s : State) (m : MxCmd) (oob : Bool) (k : State → Except Stop Done) :
    settle v c x (queueMx s m oob >>= k) =
      if s.mxRoom m then settle v c x (k (queued s m oob)) else v.park c x .engine 0 := by
  unfold queueMx
  cases s.mxRoom m <;> rfl

/-- A crew with a licence passes the check of it. -/
theorem licence_bind {α : Type} {w : Crew} {l : Bool × Nat × Nat} (hl : w.lic = some l) (k : Bool × Nat × Nat → Except Stop α) :
    (licence w >>= k) = k l := by
  rw [licence, hl]
  rfl

theorem bool_iff_not_not (b : Bool) : b = true ↔ ¬ (!b) = true := by cases b <;> decide

/-- A check in front of a command that is then checked on: `p` says when it fails. -/
theorem need_queueChecked {s : State} {b : Bool} {p : Prop} [Decidable p] (hb : b = true ↔ ¬ p) {e : Stop}
    {k : Unit → Except Stop Done} {r : Except Stop (MxCmd × Bool)} (hk : k () = queueChecked s r) :
    (need b e >>= k) = queueChecked s (if p then .error e else r) := by
  by_cases hp : p
  · rw [if_pos hp, Bool.eq_false_iff.mpr fun h => hb.mp h hp]
    rfl
  · rw [if_neg hp, hb.mpr hp]
    exact hk

/-- What a command's instruction does once its checks have answered. -/
def QueuesChecked (s : State) (c x : Nat) (i : Instr) (s' : State) (check : Except Stop (MxCmd × Bool)) : Prop :=
  (∀ code info, check = .error (.fault code 0 info 0 0) → exec i s = .next (s'.takeFault c x code 0 info 0 0)) ∧
  (∀ m oob, check = .ok (m, oob) → exec i s = .next (
    if s'.mxRoom m then plainDone (queued s' m oob) c x false else s'.park c x .engine 0))

/-- A matrix instruction whose body checks a command and queues it. -/
theorem queuesChecked_of_body {i : Instr} {fm : Form} {vs : List Val}
    {body : State → Nat → Nat → List Val → Except Stop Done} {check : Except Stop (MxCmd × Bool)} (ht : Tensor s c x)
    (h : Ready s c x { fm with wide := true } vs) (hexec : exec i s = issueMx s fm body)
    (hbody : body (noteFallback s c x fm.fb) c x vs = queueChecked (noteFallback s c x fm.fb) check) :
    QueuesChecked s c x i (noteFallback s c x fm.fb) check := by
  have hrun : exec i s = .next (clearReported (settle (noteFallback s c x fm.fb) c x
      (queueChecked (noteFallback s c x fm.fb) check))) := by
    rw [hexec, issueMx_of_tensor h body ht, hbody]
  refine ⟨fun code info hbad => ?fault, fun m oob hok => ?queue⟩
  case fault =>
    subst hbad
    exact hrun.trans (congrArg _ (clearReported_own_fault h.issues ht.gang ..))
  case queue =>
    subst hok
    rw [hrun, queueChecked, settle_bind_of_ok rfl, settle_queueMx, settle_pure, settle_done_any]
    refine congrArg _ (clearReported_of_keeps h.issues ht (fb := fm.fb) ?_)
    split
    · exact (Keeps.queued ..).trans (Keeps.plainDone ..)
    · exact Keeps.park ..

/-! ### The destination of a read (R309) -/

theorem halt_omitWrite (g : Gang) (bank dest : Nat) : (g.omitWrite bank dest).halt = g.halt := by
  unfold Gang.omitWrite
  split <;> rfl

/-- A varying register is marked empty. -/
theorem State.emptyV_one (s : State) (c x v : Nat) : s.emptyV c x v 1 =
    (s.setVreg c x v { s.vreg c x v with fe := .empty, busy := true }).modGang c x fun g => g.omitWrite 0 v := rfl

theorem Keeps.emptyV_one (s : State) (c x v : Nat) : Keeps s (s.emptyV c x v 1) :=
  (Keeps.setVreg ..).trans (Keeps.modGang _ _ _ _ fun g => halt_omitWrite g 0 v)

end Sys2Proof.Machine
end

section
/-! PROOFS. Matrix commands at issue (R279, R290, R292, R295, R302 to R312). -/

namespace Sys2Proof.Safety

open Sys2Proof.Machine

/-! ### Refusals (R279, R292, R310, R312) -/

/-- The instruction is issued behind the refusals of a matrix instruction. -/
def IssuesMx (i : Instr) (fm : Form) : Prop := ∃ body, ∀ s, exec i s = issueMx s fm body

theorem matrixForms_issue : ∀ p ∈ matrixForms, ∀ f : EX, IssuesMx (p.1 f) (p.2 f) := by
  simp only [matrixForms, List.forall_mem_cons]
  exact ⟨fun _ => ⟨_, fun _ => rfl⟩, fun _ => ⟨_, fun _ => rfl⟩, fun _ => ⟨_, fun _ => rfl⟩, fun _ => ⟨_, fun _ => rfl⟩,
    fun _ => ⟨_, fun _ => rfl⟩, fun _ => ⟨_, fun _ => rfl⟩, fun _ => ⟨_, fun _ => rfl⟩, fun _ => ⟨_, fun _ => rfl⟩, nofun⟩

theorem matrixRefusals : MatrixRefusals := by
  intro s c x refuses
  have hall {i : Instr} {fm : Form} (hi : IssuesMx i fm) : refuses i fm := by
    obtain ⟨body, hexec⟩ := hi
    intro vs h s'
    rw [hexec]
    exact ⟨issueMx_plaza h body, fun hx _ _ =>
      ⟨fun _ _ _ hin herr => issueMx_deferred h body hx hin herr, issueMx_no_role h body hx⟩⟩
  exact ⟨fun p hp f => hall (matrixForms_issue p hp f), fun _ => hall ⟨_, fun _ => rfl⟩, fun _ => hall ⟨_, fun _ => rfl⟩,
    fun _ => hall ⟨_, fun _ => rfl⟩, fun _ => hall ⟨_, fun _ => rfl⟩⟩

/-! ### Commands (R290, R295, R302 to R309, R311) -/

theorem exec_mxLb (f : MxLbF) (s : State) : exec (.mxLb f) s = execMxLb f s := rfl
theorem exec_mxMma (f : MxMmaF) (s : State) : exec (.mxMma f) s = execMxMma f s := rfl
theorem exec_mxSt (f : MxStF) (s : State) : exec (.mxSt f) s = execMxSt f s := rfl
theorem exec_mxZero (f : EX) (s : State) : exec (.mxZero f) s = execMxZero f s := rfl
theorem exec_mxRmax (f : EX) (s : State) : exec (.mxRmax f) s = execMxRmax f s := rfl
theorem exec_mxWr (f : EX) (s : State) : exec (.mxWr f) s = execMxWr f s := rfl
theorem exec_mxRd (f : MxRdF) (s : State) : exec (.mxRd f) s = execMxRd f s := rfl

/-- The command of an `mx.rd`. -/
def readCommand (s : State) (c x : Nat) (f : MxRdF) : MxCmd :=
  command s c x (.rd f.v.toNat (s.gang c x).binds f.tile.toNat f.row.toNat f.block.toNat (s.gang c x).lanes) false

theorem mxRd_of_ready {s : State} {c x : Nat} {l : Bool × Nat × Nat} {f : MxRdF} (ht : Tensor s c x)
    (hl : (s.crew c (x / 16)).lic = some l)
    (h : Ready s c x { legal := true, fb := false, names := [(f.v.toNat, 1)], wide := true, dests := [f.v.toNat] } []) :
    exec (.mxRd f) s = .next (
      if tilesHeld (s.crew c (x / 16)) false f.tile.toNat 1 then
        if s.mxRoom (readCommand s c x f) then
          ((s.enqueueMx (readCommand s c x f)).emptyV c x f.v.toNat 1).modGang c x
            (retired false 0 4 { val := none, dest := f.v.setWidth 8, w := false })
        else s.park c x .engine 0
      else s.takeFault c x eRes 0 0 0 0) := by
  have hkeeps {t : State} (hk : Keeps s t) : clearReported t = t :=
    clearReported_of_keeps h.issues ht (fb := false) (by rwa [noteFallback_false])
  rw [exec_mxRd, execMxRd,
    issueMx_of_tensor (fm := { legal := true, fb := false, names := [(f.v.toNat, 1)], dests := [f.v.toNat] }) h _ ht,
    noteFallback_false]
  refine congrArg _ ((congrArg (fun r => clearReported (settle s c x r)) (licence_bind hl _)).trans ?_)
  rw [settle_need, settle_queueMx, settle_pure, settle_later, apply_ite clearReported, apply_ite clearReported]
  refine ite_congr rfl (fun _ => ite_congr rfl (fun _ => ?queued) fun _ => ?full) fun _ => ?refused
  case queued =>
    exact hkeeps ((Keeps.enqueueMx ..).trans ((Keeps.emptyV_one ..).trans (Keeps.modGang _ _ _ _ fun _ => rfl)))
  case full => exact hkeeps (Keeps.park ..)
  case refused => exact clearReported_own_fault h.issues ht.gang false eRes 0

theorem matrixCommands : MatrixCommands := by
  intro s c x ht go
  refine ⟨fun f h => ?load, fun f h => ?multiply, fun f h => ?store, fun f a l h hl => ?zero, fun f l h hl => ?rmax,
    fun f a v l h hl => ?write, fun f l h hl => ?read⟩
  case load =>
    exact queuesChecked_of_body (fm := { legal := mxLbLegal f, fb := f.rest != 0 }) ht h (by rw [exec_mxLb, execMxLb]) rfl
  case multiply =>
    exact queuesChecked_of_body (fm := { legal := true, fb := f.rest != 0 }) ht h (by rw [exec_mxMma, execMxMma]) rfl
  case store =>
    exact queuesChecked_of_body (fm := { legal := mxStLegal f, fb := f.rest != 0 }) ht h (by rw [exec_mxSt, execMxSt]) rfl
  case zero =>
    intro s'
    refine queuesChecked_of_body (fm := exForm .zero .read .zero f) ht h (by rw [exec_mxZero, execMxZero]) ?_
    simp only [crew_noteFallback, crewSlot]
    rw [licence_bind hl]
    refine need_queueChecked ?pair (need_queueChecked (bool_iff_not_not _) rfl)
    change (!bit a 9 || l.1) = true ↔ ¬(bit a 9 && !l.1) = true
    cases bit a 9 <;> simp
  case rmax =>
    intro s' r n
    refine queuesChecked_of_body (fm := exForm (.idx 16) (.idx 8) .zero f) ht h (by rw [exec_mxRmax, execMxRmax]) ?_
    simp only [mxRecord, rowExtent, mxExtent, bind_assoc, crew_noteFallback, crewSlot,
      recs_noteFallback (State.issuer_gang h.issues)]
    rw [licence_bind hl]
    refine need_queueChecked ?wellFormed (need_queueChecked ?sram (need_queueChecked (bool_iff_not_not _)
      (need_queueChecked ?extent (need_queueChecked ?rows (need_queueChecked (bool_iff_not_not _)
        (need_queueChecked (bool_iff_not_not _) rfl))))))
    case wellFormed => rw [Bool.not_eq_true', Bool.not_eq_true]
    case sram => rw [bne_iff_ne]
    case extent =>
      simp only [Bool.and_eq_true, decide_eq_true_eq, n, r]
      omega
    case rows =>
      rw [decide_eq_true_iff, Nat.not_lt]
      rfl
  case write =>
    intro s' t
    refine queuesChecked_of_body (fm := exForm .vread .read .zero f) ht h (by rw [exec_mxWr, execMxWr]) ?_
    simp only [crew_noteFallback, crewSlot, lanes_noteFallback (State.issuer_gang h.issues)]
    rw [licence_bind hl]
    exact need_queueChecked (bool_iff_not_not _) (need_queueChecked (bool_iff_not_not _) rfl)
  case read =>
    intro m
    refine ⟨fun hnot => (mxRd_of_ready ht hl h).trans (congrArg _ ?_),
      fun hheld hroom => (mxRd_of_ready ht hl h).trans (congrArg _ ?_)⟩
    · exact if_neg (Bool.eq_false_iff.mp hnot)
    · exact (if_pos hheld).trans (if_pos hroom)

/-- Settles O31: each instruction stands behind the same refusals (`matrixForms_issue`), and queues what its checks answer
(`queuesChecked_of_body`). -/
theorem matrixIssue : Obligations.MatrixIssue := ⟨matrixRefusals, matrixCommands⟩

end Sys2Proof.Safety
end

section
/-! SUPPORT. What requests, and instructions that only the plaza or only a crew may execute, settle to (R269, R273, R279, R281). -/

namespace Sys2Proof.Machine

open Sys2Proof.Safety

variable {s : State} {c x : Nat}

/-! ### Requests (R269, R273) -/

/-- An id names a table where it is below those of the 24 dies. -/
theorem objIdOk_iff (o : W) : objIdOk o = true ↔ o.toNat < 24 * 4096 := by
  simp only [objIdOk, Bool.and_eq_true, decide_eq_true_eq]
  omega

theorem settle_call (v t : State) (d : Nat) (obj arg : W) (svc : Nat) (arg2 : W) :
    settle v c x (.ok (t.call c x d obj arg svc arg2)) = called t c x d obj arg svc arg2 := settle_later ..

/-- An instruction whose body sends and leaves its destination to the reply. -/
theorem settle_awaiting (v t : State) (dest : Byte) : settle v c x (.ok { s := t, dest := dest }) = awaiting t c x dest :=
  settle_later ..

/-! ### Where an instruction may be executed (R279, R281) -/

/-- An instruction that only the plaza may execute: its body there, elsewhere its fault. -/
theorem settle_onlyPlaza (v : State) (k : Unit → Except Stop Done) :
    settle v c x (onlyPlaza x >>= k) = if x = 64 then settle v c x (k ()) else v.takeFault c x ePerm 0 0 0 0 := by
  rw [onlyPlaza, settle_need, isPlaza]
  exact ite_congr (propext beq_iff_eq) (fun _ => rfl) fun _ => rfl

end Sys2Proof.Machine
end

section
/-! PROOFS. Calls of objects and kiosks, and answers in a wave (R269, R272, R273, R279, R281 to R283, R389). -/

namespace Sys2Proof.Safety

open Sys2Proof.Machine

theorem exec_objCall (f : EX) (s : State) : exec (.objCall f) s = execObjCall f s := rfl
theorem exec_objCallv (f : CallvF) (s : State) : exec (.objCallv f) s = execObjCallv f s := rfl
theorem exec_objReply (f : EX) (s : State) : exec (.objReply f) s = execObjReply f s := rfl
theorem exec_objDone (f : EX) (s : State) : exec (.objDone f) s = execObjDone f s := rfl
theorem exec_objFail (f : EX) (s : State) : exec (.objFail f) s = execObjFail f s := rfl

variable {s : State} {c x : Nat} {f : EX}

/-! ### Calls (R269, R272, R273, R389) -/

theorem objCall_of_ready {a o : W} (hx : x ≠ 64) (h : Ready s c x (exForm .dest .read .read f) [.s a, .s o]) :
    let s' := noteFallback s c x (exFallback .dest .read .read f)
    exec (.objCall f) s = .next (if o.toNat < 24 * 4096 then called s' c x f.d.toNat o a 0 0
      else s'.takeFault c x ePerm 0 0 0 0) := by
  intro s'
  rw [exec_objCall, execObjCall, issue_of_ready h, settle_notPlaza, if_neg hx, settle_need, settle_pure, settle_call]
  exact congrArg _ (ite_congr (propext (objIdOk_iff o)) (fun _ => rfl) fun _ => rfl)

/-- The state in which `obj.callv` has sent its requests, or has none to send and finds its destination full (R273). -/
def calledV (s : State) (c x d : Nat) (a : Val) (o : W) (ls : List Nat) : State :=
  if ls = [] then s.setVreg c x d { s.vreg c x d with fe := .full, busy := false }
  else requested (s.emptyV c x d 1) c x o true (ls.map fun l => (l, a.lanes.lane l)) (.v d 1) 0 0

theorem objCallv_of_ready {f : CallvF} {a : Val} {o : W} (hx : x ≠ 64)
    (h : Ready s c x { legal := true, fb := f.rest != 0, names := [(f.a.toNat, 1), (f.d.toNat, 1)],
                       srcs := [{ cls := .vt, code := f.a.toNat, blk := true }, uSrc f.s true], dests := [f.d.toNat] } [a, .s o]) :
    let s' := noteFallback s c x (f.rest != 0)
    exec (.objCallv f) s = .next (if o.toNat < 24 * 4096 then
        awaiting (calledV s' c x f.d.toNat a o (activeList (s.gang c x).lanes)) c x (BitVec.ofNat 8 f.d.toNat)
      else s'.takeFault c x ePerm 0 0 0 0) := by
  intro s'
  rw [exec_objCallv, execObjCallv, issue_of_ready h, settle_notPlaza, if_neg hx]
  simp only [settle_need, lanes_noteFallback (State.issuer_gang h.issues)]
  refine congrArg _ (ite_congr (propext (objIdOk_iff o)) (fun _ => ?_) fun _ => rfl)
  unfold calledV
  by_cases hnone : activeList (s.gang c x).lanes = []
  · rw [if_pos (List.isEmpty_iff.mpr hnone), if_pos hnone, settle_pure, settle_awaiting]
  · rw [if_neg (mt List.isEmpty_iff.mp hnone), if_neg hnone, settle_pure, settle_awaiting]
    rfl

/-- `wfetch` and `wphase`, by the request that they send. -/
theorem callKiosk_of_ready {a : W} (h : Ready s c x (exForm .dest .read .zero f) [.s a]) (svc : Nat) :
    let s' := noteFallback s c x (exFallback .dest .read .zero f)
    callKiosk f svc s = .next (if s'.fenceDone c x 15 3 then
        if x = 64 then uniDone s' c x f.d.toNat false (Config.freeWord s'.tick f.d.toNat)
        else called s' c x f.d.toNat (s'.crew c (x / 16)).kiosk a svc 0
      else s'.park c x .fence 0) := by
  intro s'
  rw [callKiosk, issue_of_ready h, settle_need_park, apply_ite (settle _ c x), settle_pure, settle_pure, settle_doneS_any,
    settle_call]
  exact congrArg _ (ite_congr rfl (fun _ => ite_congr (propext beq_iff_eq) (fun _ => rfl) fun _ => rfl) fun _ => rfl)

/-- Each of the two is that call, with its own code. -/
theorem exec_kiosk {p : (EX → Instr) × Nat} (hp : p ∈ [(Instr.wfetch, 5), (.wphase, 6)]) (f : EX) (s : State) :
    exec (p.1 f) s = callKiosk f p.2 s := by
  simp only [List.mem_cons, List.not_mem_nil, or_false] at hp
  obtain rfl | rfl := hp
  · rfl
  · rfl

theorem objectCalls : ObjectCalls := by
  refine ⟨fun f s c x a o hx h => objCall_of_ready hx h, fun f s c x a o hx h => ?vector, fun p hp f s c x a h => ?kiosk⟩
  case vector =>
    intro s' ls d
    refine ⟨fun hbad => (objCallv_of_ready hx h).trans (congrArg _ ?_),
      fun hok => (objCallv_of_ready hx h).trans (congrArg _ ?_)⟩
    · exact if_neg (Nat.not_lt.mpr hbad)
    · exact if_pos hok
  case kiosk =>
    intro s'
    have hcall := (exec_kiosk hp f s).trans (callKiosk_of_ready h p.2)
    refine ⟨fun hwait => hcall.trans (congrArg _ ?_), fun hdone hx => hcall.trans (congrArg _ ?_),
      fun hdone hx => ⟨Config.freeWord s'.tick f.d.toNat, hcall.trans (congrArg _ ?_)⟩⟩
    · exact if_neg (Bool.eq_false_iff.mp hwait)
    · exact (if_pos hdone).trans (if_neg hx)
    · exact (if_pos hdone).trans (if_pos hx)

/-! ### Answers in a wave (R281 to R283) -/

theorem objReply_of_ready {a : Val} (h : Ready s c x (exForm .zero .vread .zero f true) [a]) :
    let s' := noteFallback s c x (exFallback .zero .vread .zero f)
    let n := ((s.gang c x).wave.map fun w => w.reqs.length).getD 0
    exec (.objReply f) s = .next (if x = 64 then plainDone
        (((activeList (s.gang c x).lanes).filter fun l => decide (l < n)).foldl
          (fun (t : State) l => t.recordReply c l (a.lanes.lane l)) s') c x false
      else s'.takeFault c x ePerm 0 0 0 0) := by
  have hs := State.issuer_gang h.issues
  rw [exec_objReply, execObjReply, issue_of_ready h, settle_onlyPlaza]
  simp only [settle_pure, settle_done_any, lanes_noteFallback hs, wave_noteFallback hs]
  rfl

/-- An instruction that ends the run of a wave, which then begins to end as `post` says. -/
theorem settle_endsWave (v : State) (fb : Bool) (post : State → State) :
    settle v c x (onlyPlaza x >>= fun _ => pure { s := noteFallback s c x fb, ends := some {}, post := post }) =
      if x = 64 then post (endDone s c x fb 4 {} id) else v.takeFault c x ePerm 0 0 0 0 := by
  rw [settle_onlyPlaza, settle_pure, settle_ends_id]

theorem waveInstructions : WaveInstructions := by
  refine ⟨fun f s c x a h => ?reply, fun f s c x h => ?ends⟩
  case reply =>
    intro s'
    refine ⟨fun hx => (objReply_of_ready h).trans (congrArg _ (if_neg hx)), fun w hx hw => ?_⟩
    rw [objReply_of_ready h, if_pos hx, hw]
    rfl
  case ends =>
    intro fb bad
    refine ⟨?done, ?fail⟩
    case done =>
      rw [exec_objDone, execObjDone, issue_of_ready h]
      exact congrArg _ (settle_endsWave _ _ fun s => s.endWave c false)
    case fail =>
      rw [exec_objFail, execObjFail, issue_of_ready h]
      exact congrArg _ (settle_endsWave _ _ fun s => s.endWave c true)

/-! ### What the plaza may not execute (R279) -/

/-- The instruction is issued with its form, and its body refuses the plaza context first. -/
def RefusesPlaza (i : Instr) (fm : Form) : Prop :=
  ∃ body, (∀ s, exec i s = issue s fm body) ∧ ∀ s c vs, body s c 64 vs = .error (.code ePerm)

/-- An instruction of the meaning `run`. What is asked of `run` holds by unfolding it: its body begins with `notPlaza`. -/
theorem refusesPlaza_of {i : Instr} {fm : Form} (run : State → Host.Outcome State Fault Refusal)
    (hexec : ∀ s, exec i s = run s := by exact fun _ => rfl)
    (hrun : ∃ body, (∀ s, run s = issue s fm body) ∧ ∀ s c vs, body s c 64 vs = .error (.code ePerm) := by
      exact ⟨_, fun _ => rfl, fun _ _ _ => rfl⟩) : RefusesPlaza i fm := by
  obtain ⟨body, hissue, hbody⟩ := hrun
  exact ⟨body, fun s => (hexec s).trans (hissue s), hbody⟩

theorem RefusesPlaza.exec_of_ready {i : Instr} {fm : Form} (hi : RefusesPlaza i fm) {vs : List Val}
    (h : Ready s c 64 fm vs) : exec i s = .next ((noteFallback s c 64 fm.fb).takeFault c 64 ePerm 0 0 0 0) := by
  obtain ⟨body, hexec, hbody⟩ := hi
  rw [hexec, issue_of_ready h, hbody, settle_code]

theorem barOps_refusePlaza : ∀ p ∈ barOps, ∀ f : EX, RefusesPlaza (p.1 f) (p.2.1 f) := by
  simp only [barOps, List.forall_mem_cons]
  exact ⟨fun f => refusesPlaza_of (execBarInit f), fun f => refusesPlaza_of (execBarJoin f),
    fun f => refusesPlaza_of (execBarArr f), fun f => refusesPlaza_of (execBarWait f), fun f => refusesPlaza_of (execBarSync f),
    fun f => refusesPlaza_of (execBarLeave f), fun f => refusesPlaza_of (execBarFree f), nofun⟩

theorem plazaForms_refusePlaza : ∀ p ∈ plazaForms, ∀ f : EX, RefusesPlaza (p.1 f) (p.2 f) := by
  simp only [plazaForms, List.forall_mem_append, List.forall_mem_map, List.forall_mem_cons]
  refine ⟨⟨⟨⟨⟨⟨barOps_refusePlaza, ?twoSources⟩, ?oneSource⟩, ?twoSourcesNoDest⟩, ?oneSourceNoDest⟩, ?whole⟩, ?others⟩
  case twoSources =>
    exact ⟨fun f => refusesPlaza_of (execObjCall f), fun f => refusesPlaza_of (execMsend f), fun f => refusesPlaza_of (execMrecv f),
      fun f => refusesPlaza_of (execKvMap f), fun f => refusesPlaza_of (execKvSt f), nofun⟩
  case oneSource =>
    exact ⟨fun f => refusesPlaza_of (execSlotOpen f), fun f => refusesPlaza_of (execSlotKerb f),
      fun f => refusesPlaza_of (callBlock f 2), fun f => refusesPlaza_of (callBlock f 3), nofun⟩
  case twoSourcesNoDest =>
    exact ⟨fun f => refusesPlaza_of (execSlotRule f), fun f => refusesPlaza_of (execSlotReopen f), nofun⟩
  case oneSourceNoDest =>
    exact ⟨fun f => refusesPlaza_of (execSlotClose f), fun f => refusesPlaza_of (execKvUnpin f), nofun⟩
  case whole =>
    exact ⟨fun f => refusesPlaza_of (execKvVqlut f), fun f => refusesPlaza_of (execKvVqsc f), nofun⟩
  case others =>
    refine ⟨fun f => refusesPlaza_of (execSlotPass f), fun f => refusesPlaza_of (execSlotSt f),
      fun f => refusesPlaza_of (execRunshare f), fun f => refusesPlaza_of (execGrow f), fun f => refusesPlaza_of (execShrink f),
      fun f => refusesPlaza_of (execKvHad f) (hrun := ⟨_, fun _ => by rw [execKvHad], ?_⟩), nofun⟩
    exact fun _ _ _ => rfl

theorem rshare_refusesPlaza (f : RshareF) :
    RefusesPlaza (.rshare f) { legal := true, fb := false, names := [(f.first.toNat, f.count.toNat + 1)], wide := true } := by
  refine refusesPlaza_of (execRshare f) (hrun := ⟨_, fun _ => by rw [execRshare], ?_⟩)
  exact fun _ _ _ => rfl

theorem plazaRefusals : PlazaRefusals := by
  intro s c vs bad
  exact ⟨fun p hp f => (plazaForms_refusePlaza p hp f).exec_of_ready,
    fun f => (refusesPlaza_of (execObjCallv f)).exec_of_ready, fun f => (rshare_refusesPlaza f).exec_of_ready⟩

/-- Settles O36: the calls by what they check before they send, the answers by their place in the plaza, and the refusals
by the check in front of every body (`RefusesPlaza`). -/
theorem objectInstructions : Obligations.ObjectInstructions := ⟨objectCalls, waveInstructions, plazaRefusals⟩

end Sys2Proof.Safety
end

section
/-! SUPPORT. The order in which closed waves stand, and what a reply leaves (R277, R285). -/

namespace Sys2Proof.Machine

/-! ### Closed waves (R277) -/

/-- A wave that closed earlier than another, or in the same cycle and with an object of no higher INDEX. -/
def QWave.Before (u v : QWave) : Prop :=
  u.closedAt < v.closedAt ∨ (u.closedAt = v.closedAt ∧ u.obj.toNat % 4096 ≤ v.obj.toNat % 4096)

theorem QWave.Before.trans {u v w : QWave} (h : u.Before v) (h' : v.Before w) : u.Before w := by
  unfold QWave.Before at *
  omega

theorem closeWave_perm (t : Nat) (w : QWave) (l : List QWave) : (closeWave t w l).Perm ({ w with closedAt := t } :: l) := by
  induction l with
  | nil => exact .refl _
  | cons u r ih =>
    unfold closeWave
    split
    · exact .refl _
    · exact (ih.cons u).trans (.swap ..)

/-- A wave that closes when none has closed later takes its place in the order. -/
theorem closeWave_pairwise {t : Nat} (w : QWave) {l : List QWave} (h : l.Pairwise QWave.Before)
    (ht : ∀ u ∈ l, u.closedAt ≤ t) : (closeWave t w l).Pairwise QWave.Before := by
  induction l with
  | nil => exact List.pairwise_singleton ..
  | cons u r ih =>
    obtain ⟨hu, hr⟩ := List.pairwise_cons.mp h
    obtain ⟨hut, hrt⟩ := List.forall_mem_cons.mp ht
    unfold closeWave
    split
    case isTrue hlt =>
      have hwu : QWave.Before { w with closedAt := t } u := by
        simp only [Bool.or_eq_true, Bool.and_eq_true, decide_eq_true_eq] at hlt
        unfold QWave.Before
        dsimp only
        omega
      exact List.pairwise_cons.mpr ⟨List.forall_mem_cons.mpr ⟨hwu, fun v hv => hwu.trans (hu v hv)⟩, h⟩
    case isFalse hge =>
      have huw : QWave.Before u { w with closedAt := t } := by
        simp only [Bool.or_eq_true, Bool.and_eq_true, decide_eq_true_eq] at hge
        unfold QWave.Before
        dsimp only
        omega
      refine List.pairwise_cons.mpr ⟨fun v hv => ?_, ih hr hrt⟩
      rcases List.mem_cons.mp ((closeWave_perm t w r).mem_iff.mp hv) with rfl | hvr
      · exact huw
      · exact hu v hvr

/-! ### Replies (R285) -/

section
variable {s : State} {n : Nat} {p : Pkt} {lane : Nat} {ok : Bool} {val : W}

/-- The packet after one of its replies has arrived: it waits for one fewer, and with the last it is gone. -/
def State.lessReply (s : State) (n : Nat) (p : Pkt) (ok : Bool) : State :=
  { s with pkts := if p.left ≤ 1 then sdel s.pkts n
      else sput s.pkts n { p with left := p.left - 1, failed := p.failed || !ok } }

theorem lessReply_eq (s : State) (n : Nat) (p : Pkt) (ok : Bool) :
    { s with pkts := if p.left - 1 = 0 then sdel s.pkts n
        else sput s.pkts n { p with left := p.left - 1, failed := p.failed || !ok } } = s.lessReply n p ok := by
  rw [State.lessReply]
  simp only [Nat.sub_eq_zero_iff_le]

theorem answer_of_gone (h : s.launchOf p.core p.ctx ≠ p.launch) : s.answer n p lane ok val = s.lessReply n p ok := by
  unfold State.answer
  simp only [lessReply_eq]
  exact if_pos (by simpa using h)

variable {t : State} (ht : s.lessReply n p ok = t) (h : s.launchOf p.core p.ctx = p.launch) {d : Nat}
include ht h

theorem answer_uniform (hl : p.left ≤ 1) (hd : p.dst = .s d) : s.answer n p lane ok val =
    if p.failed || !ok then t.poisonS p.core p.ctx d 1 else t.fillS p.core p.ctx d val := by
  have hlast : p.left - 1 = 0 := Nat.sub_eq_zero_of_le hl
  unfold State.answer
  simp only [lessReply_eq, ht]
  rw [if_neg (by simpa using h), hd]
  exact if_neg (by simp [hlast])

/-- The lane is written where its reply is a success; the packet's last reply completes the register. -/
theorem answer_varying {k : Nat} (hd : p.dst = .v d k) : s.answer n p lane ok val =
    let u := if ok then t.laneV p.core p.ctx p.binds d (BitVec.ofNat 32 (2 ^ lane)) (Lanes.splat val) else t
    if p.left ≤ 1 then
      if p.failed || !ok then u.poisonV p.core p.ctx p.binds d 1 else u.fillV p.core p.ctx p.binds d 0 (Lanes.splat 0) 0
    else u := by
  unfold State.answer
  simp only [lessReply_eq, ht]
  rw [if_neg (by simpa using h), hd]
  by_cases hl : p.left ≤ 1
  · rw [if_pos hl]
    exact if_neg (by simp [Nat.sub_eq_zero_of_le hl])
  · rw [if_neg hl]
    exact if_pos (by simpa [Nat.sub_eq_zero_iff_le] using hl)

end

end Sys2Proof.Machine
end

section
/-! PROOFS. Object tables, plaza waves and replies (R270, R271, R274 to R278, R284, R285, R413). -/

namespace Sys2Proof.Safety

open Sys2Proof.Machine

variable {s : State} {n c : Nat} {p : Pkt}

theorem exec_objectTableWrite (d i : Nat) (v : BitVec 128) (fw : Bool) (s : State) :
    exec (.objectTableWrite d i v fw) s = execObjectTableWrite d i v fw s := rfl
theorem exec_objTableRequest (n : Nat) (s : State) : exec (.objTableRequest n) s = execObjTableRequest n s := rfl
theorem exec_plazaPacketArrival (n : Nat) (s : State) : exec (.plazaPacketArrival n) s = execPlazaPacketArrival n s := rfl
theorem exec_plazaPacketRetry (n : Nat) (s : State) : exec (.plazaPacketRetry n) s = execPlazaPacketRetry n s := rfl
theorem exec_waveTimeoutClose (c o : Nat) (s : State) : exec (.waveTimeoutClose c o) s = execWaveTimeoutClose c o s := rfl
theorem exec_waveStart (c : Nat) (s : State) : exec (.waveStart c) s = execWaveStart c s := rfl
theorem exec_waveBudgetExceeded (c : Nat) (s : State) : exec (.waveBudgetExceeded c) s = execWaveBudgetExceeded c s := rfl
theorem exec_objReplyArrival (n : Nat) (s : State) : exec (.objReplyArrival n) s = execObjReplyArrival n s := rfl

/-! ### The table (R270, R271, R274, R413) -/

theorem objectTableWrite_eq (d i : Nat) (v : BitVec 128) (fw : Bool) (s : State) :
    exec (.objectTableWrite d i v fw) s = .next (if d < 24 ∧ s.dieUp d = true ∧ i < 4096 ∧ (64 ≤ i ∨ fw = true) then
      s.modDie d fun q => { q with objs := sput q.objs i (v &&& objMask) } else s) := by
  have hrefused : (24 ≤ d || !s.dieUp d || 4096 ≤ i || (i < 64 && !fw)) = true ↔
      ¬ (d < 24 ∧ s.dieUp d = true ∧ i < 4096 ∧ (64 ≤ i ∨ fw = true)) := by
    cases s.dieUp d <;> cases fw <;> simp <;> omega
  rw [exec_objectTableWrite, execObjectTableWrite]
  by_cases hok : d < 24 ∧ s.dieUp d = true ∧ i < 4096 ∧ (64 ≤ i ∨ fw = true)
  · rw [if_pos hok, if_neg (fun h => hrefused.mp h hok)]
  · rw [if_neg hok, if_pos (hrefused.mpr hok)]

/-- The table lets a packet through to its object. -/
def tableAccepts (s : State) (p : Pkt) : Bool :=
  s.dieUp (p.obj.toNat / 4096 % 32) && bit (s.objEntry p.obj) 0 &&
    (bit (s.objEntry p.obj) 1 || (s.objEntry p.obj).extractLsb' 8 8 == p.launch.setWidth 8)

/-- The packet goes on to the home core of its object. -/
def forwarded (s : State) (n : Nat) (p : Pkt) : State :=
  let die := p.obj.toNat / 4096 % 32
  let h := 64 * die + ((s.objEntry p.obj).extractLsb' 21 6).toNat
  { s with pkts := sput s.pkts n { p with home := some h } }.wakeRoute 0 (tableCore die) h

/-- Each request of the packet is answered as failed. -/
def refusedAll (s : State) (n : Nat) (p : Pkt) : State :=
  let die := p.obj.toNat / 4096 % 32
  ((p.reqs.foldl (fun (t : State) q =>
    { t with replies := sput t.replies t.nextId { pkt := n, lane := q.1, ok := false, val := 0 }
             nextId := t.nextId + 1 }) { s with pkts := sput s.pkts n { p with reqs := [] } }).countHome p.core p.ctx 4
    (4096 + die) (· - 1)).wakeRoute 1 (tableCore die) p.core

theorem objTableRequest_of_waiting (hp : sget s.pkts n = some p) (hh : p.home = none) (hr : p.reqs ≠ []) :
    exec (.objTableRequest n) s = .next (if tableAccepts s p then forwarded s n p else refusedAll s n p) := by
  have hrefused : (!s.dieUp (p.obj.toNat / 4096 % 32) || !objV (s.objEntry p.obj) ||
      (!objOpen (s.objEntry p.obj) && objOwner (s.objEntry p.obj) != p.launch.setWidth 8)) = !tableAccepts s p := by
    rw [tableAccepts, Bool.not_and, Bool.not_and, Bool.not_or]
    rfl
  simp only [exec_objTableRequest, execObjTableRequest, hp, hrefused]
  rw [if_neg (by simp [hh, hr])]
  cases tableAccepts s p <;> rfl

theorem objectTable : ObjectTable := by
  refine ⟨fun d i v fw s => objectTableWrite_eq d i v fw s, fun n s p hp hh hr => ?request⟩
  intro die e ok h
  refine ⟨fun hok => (objTableRequest_of_waiting hp hh hr).trans (congrArg _ (if_pos hok)),
    fun hbad => (objTableRequest_of_waiting hp hh hr).trans (congrArg _ (if_neg (Bool.eq_false_iff.mp hbad)))⟩

/-! ### The plaza (R275 to R278, R284) -/

/-- The packet is turned back, and its sender takes a place in the list where it has none and one is free (R275). -/
def turnedBack (s : State) (n c : Nat) (p : Pkt) : State :=
  let q := (s.core c).plaza
  let q' := if p.core ∈ q.turned ∨ 64 ≤ q.turned.length then q else { q with turned := q.turned ++ [p.core] }
  { s.modCore c (fun k => { k with plaza := q' }) with
    pkts := sput s.pkts n { p with tried := some s.clock } }.wakeRoute 1 c p.core

/-- The packet is accepted, each request joining the open wave of its object. -/
def accepted (s : State) (n c : Nat) (p : Pkt) : State :=
  let q := (s.core c).plaza
  let q' := p.reqs.foldl (fun (q : Plaza) r => q.join p.obj (objMaxw (s.objEntry p.obj)) s.clock
    { pkt := n, core := p.core, ctx := p.ctx, lane := r.1, vec := p.vec, arg := r.2 }) (q.leave p.core p.reqs.length)
  let t := (s.modCore c fun k => { k with plaza := q' }).countHome p.core p.ctx 4 (4096 + p.obj.toNat / 4096 % 32) (· - 1)
  { t with pkts := sput t.pkts n { p with reqs := [] } }

theorem plazaPacketArrival_of_waiting (hp : sget s.pkts n = some p) (hh : p.home = some c) (hr : p.reqs ≠ [])
    (ht : p.tried = none) : exec (.plazaPacketArrival n) s = .next (
      if (s.core c).plaza.room p.core < p.reqs.length then turnedBack s n c p else accepted s n c p) := by
  have hlisted (q q' : Plaza) : (if q.turned.contains p.core || 64 ≤ q.turned.length then q else q') =
      if p.core ∈ q.turned ∨ 64 ≤ q.turned.length then q else q' :=
    ite_congr (propext (by simp)) (fun _ => rfl) fun _ => rfl
  simp only [exec_plazaPacketArrival, execPlazaPacketArrival, hp, hh, hlisted]
  rw [if_neg (by simp [ht, hr])]
  by_cases hroom : (s.core c).plaza.room p.core < p.reqs.length
  · simp only [if_pos hroom, turnedBack, hh]
    rfl
  · simp only [if_neg hroom, accepted, hh]
    rfl

theorem plazaPacketRetry_of_tried {t : Nat} (hp : sget s.pkts n = some p) (ht : p.tried = some t) :
    exec (.plazaPacketRetry n) s = .next (if t + 64 ≤ s.clock then
      { s with pkts := sput s.pkts n { p with tried := none } }.wakeRoute 0 p.core (p.home.getD p.core) else s) := by
  simp only [exec_plazaPacketRetry, execPlazaPacketRetry, hp, ht]

theorem waveTimeoutClose_of_open {o : Nat} {w : QWave} (hw : sget (s.core c).plaza.opens o = some w) :
    exec (.waveTimeoutClose c o) s = .next (if s.clock < w.opened + 64 then s else s.modCore c fun k =>
      { k with plaza := { k.plaza with opens := sdel k.plaza.opens o, closed := closeWave s.clock w k.plaza.closed } }) := by
  simp only [exec_waveTimeoutClose, execWaveTimeoutClose, hw]
  split <;> rfl

/-- A wave starts where the context is free, once the cycle in which it closed is over. -/
theorem waveStart_of_free {t : State} (ht : s.waveSweep c = t) (hfree : t.gang? c 64 = none) {w : QWave} {r : List QWave}
    (hw : (t.core c).plaza.closed = w :: r) :
    exec (.waveStart c) s = .next (if w.closedAt < t.clock then t.startWave c w r else t) := by
  simp only [exec_waveStart, execWaveStart, ht, hfree, hw]
  rfl

theorem waveStart_of_none {t : State} (ht : s.waveSweep c = t) (h : (t.gang? c 64).isSome ∨ (t.core c).plaza.closed = []) :
    exec (.waveStart c) s = .next t := by
  rw [exec_waveStart, execWaveStart, ht]
  by_cases hbusy : (t.gang? c 64).isSome = true
  · exact if_pos hbusy
  · rw [h.resolve_left hbusy]
    exact if_neg hbusy

theorem waveBudgetExceeded_of_wave {w : Wave} (hw : (s.gang c 64).wave = some w) :
    let lim := (s.die (c / 64)).plzlim.toNat
    exec (.waveBudgetExceeded c) s = .next (if lim ≠ 0 ∧ lim ≤ w.issued ∧ w.ending = false then
      s.takeFault c 64 eTrap 0 0x3ffff 0 0 else s) := by
  intro lim
  have hover : (lim != 0 && decide (lim ≤ w.issued) && !w.ending) = true ↔ lim ≠ 0 ∧ lim ≤ w.issued ∧ w.ending = false := by
    simp [and_assoc]
  simp only [exec_waveBudgetExceeded, execWaveBudgetExceeded, hw]
  exact congrArg _ (ite_congr (propext hover) (fun _ => rfl) fun _ => rfl)

theorem plazaQueue : PlazaQueue := by
  refine ⟨fun n s p c hp hh hr ht => ?arrival, fun n s p t hp ht => plazaPacketRetry_of_tried hp ht,
    fun c o s w hw => waveTimeoutClose_of_open hw, fun c s => ?start, fun t w l => ?order,
    fun c s w hw => waveBudgetExceeded_of_wave hw⟩
  case arrival =>
    intro q
    refine ⟨fun hfull => (plazaPacketArrival_of_waiting hp hh hr ht).trans (congrArg _ (if_pos hfull)),
      fun hroom => (plazaPacketArrival_of_waiting hp hh hr ht).trans (congrArg _ (if_neg (Nat.not_lt.mpr hroom)))⟩
  case start =>
    intro t
    exact ⟨waveStart_of_none rfl, fun w r hfree hw => waveStart_of_free rfl hfree hw⟩
  case order =>
    intro before hl ht
    exact ⟨closeWave_pairwise w hl ht, closeWave_perm t w l⟩

/-! ### Replies (R285) -/

/-- The reply is under way no longer. -/
def withoutReply (s : State) (n : Nat) : State := { s with replies := sdel s.replies n }

/-- A reply that arrives is taken off its packet, and a context that waited for it may be freed. -/
theorem objReplyArrival_of_packet {r : Reply} (hr : sget s.replies n = some r) (hp : sget s.pkts r.pkt = some p) :
    exec (.objReplyArrival n) s =
      .next (((withoutReply s n).answer r.pkt p r.lane r.ok r.val).reap p.core p.ctx) := by
  simp only [exec_objReplyArrival, execObjReplyArrival, hr, hp]
  rfl

theorem repliesArrive : RepliesArrive := by
  intro n s r p hr hp bad here last t ends
  have hlaunch : (withoutReply s n).launchOf p.core p.ctx = s.launchOf p.core p.ctx := rfl
  have ht : (withoutReply s n).lessReply r.pkt p r.ok = t := rfl
  have hends {u : State} (hu : (withoutReply s n).answer r.pkt p r.lane r.ok r.val = u) : ends u :=
    (objReplyArrival_of_packet hr hp).trans (congrArg (fun v : State => Host.Outcome.next (v.reap p.core p.ctx)) hu)
  refine ⟨fun hgone => hends ((answer_of_gone (hlaunch ▸ hgone)).trans ht),
    fun d hhere hlast hd => hends (answer_uniform ht (hlaunch.trans hhere) hlast hd), fun d k hhere hd => ?varying⟩
  intro u
  exact ⟨fun hmore => hends ((answer_varying ht (hlaunch.trans hhere) hd).trans (if_neg hmore)),
    fun hlast => hends ((answer_varying ht (hlaunch.trans hhere) hd).trans (if_pos hlast))⟩

/-- Settles O37: each step by what it finds in the table, at the plaza or of its packet; the order of closed waves by
induction on them (`closeWave_pairwise`). -/
theorem objectMachinery : Obligations.ObjectMachinery := ⟨objectTable, plazaQueue, repliesArrive⟩

end Sys2Proof.Safety
end

section
/-! SUPPORT. What a barrier instruction settles to, and what the barrier table does with a command (R325 to R331). -/

namespace Sys2Proof.Machine

open Sys2Proof.Safety

variable {s : State} {c x : Nat}

/-! ### Sources -/

theorem readSrcs_length {l : List Src} {vs : List Val} (h : readSrcs s c x l = .ok vs) : vs.length = l.length := by
  induction l generalizing vs with
  | nil => cases h; rfl
  | cons q r ih =>
    unfold readSrcs at h
    cases hq : readSrc s c x q with
    | error e => rw [hq] at h; cases h
    | ok v =>
      cases hr : readSrcs s c x r with
      | error e => rw [hq, hr] at h; cases h
      | ok ws =>
        rw [hq, hr] at h
        cases h
        rw [List.length_cons, List.length_cons, ih hr]

/-- An instruction has as many values as its form has sources. -/
theorem values_length {fm : Form} {vs : List Val} (h : Ready s c x fm vs) : vs.length = fm.srcs.length :=
  readSrcs_length h.reads

theorem uVal_of_length_le {vs : List Val} {i : Nat} (h : vs.length ≤ i) : uVal vs i = 0 := by
  rw [uVal, List.getElem?_eq_none h]
  rfl

/-! ### The instructions (R325, R330, R331) -/

theorem settle_doneEnd (v t : State) : settle v c x (.ok (doneEnd t)) = endDone t c x false 4 {} id := by
  have h := settle_ends_id (s := t) (c := c) (x := x) (v := v) (fb := false) 4 {} id
  rwa [noteFallback_false] at h

section
variable {op : Nat} {arrives : Bool} {i : BitVec 5} {id arg : W} {give : State → Nat → BitVec 16 → Done} (hx : x ≠ 64) (v : State)
include hx

/-- A barrier instruction whose command is on its way waits for its answer, or takes it up. -/
theorem settle_barBody_of_cmd {k : Nat} {m : BarCmd} (hm : s.barCmd c x = some (k, m)) :
    settle v c x (barBody op arrives i s c x id arg give) = match m.ans with
      | none => v.park c x .barrier (BitVec.ofNat 8 (barIndex id))
      | some (code, ph) =>
        if code ≤ 1 then settle v c x (.ok (give { s with barCmds := sdel s.barCmds k } code ph))
        else settle v c x (.error (barStop i id code)) := by
  rw [barBody, notPlaza_ok hx, settle_pass, hm]
  dsimp only
  cases m.ans with
  | none => rfl
  | some p =>
    obtain ⟨code, ph⟩ := p
    by_cases hcode : code ≤ 1
    · simp only [hcode, if_true]
      rfl
    · simp only [hcode, if_false]
      rfl

/-- The state in which a barrier instruction has sent its command and parked. -/
def barSent (s : State) (c x op : Nat) (id arg : W) : State :=
  { s with barCmds := sput s.barCmds s.nextId { core := c, ctx := x, op := op, key := barKey c id, id := id, arg := arg }
           nextId := s.nextId + 1 }.park c x .barrier (BitVec.ofNat 8 (barIndex id))

/-- One that has none sends it where its id names an entry, and behind its own checks and the fence where it arrives. -/
theorem settle_barBody_of_none (hm : s.barCmd c x = none) :
    settle v c x (barBody op arrives i s c x id arg give) =
      if barIdOk id then
        if arrives then settle v c x (memberCheck s c x (barKey c id) i id >>= fun _ =>
          need (s.fenceDone c x 0x3f (barScope id)) (.park .fence 0) >>= fun _ =>
            pure { s := { s with
              barCmds := sput s.barCmds s.nextId { core := c, ctx := x, op := op, key := barKey c id, id := id, arg := arg }
              nextId := s.nextId + 1 }
                   parks := some (.barrier, BitVec.ofNat 8 (barIndex id)) })
        else barSent s c x op id arg
      else v.takeFault c x ePerm 0 0 0 0 := by
  rw [barBody, notPlaza_ok hx, settle_pass, hm]
  dsimp only
  rw [settle_need]
  refine ite_congr rfl (fun _ => ?_) fun _ => rfl
  cases arrives <;> rfl

end

/-- Where the entry that an arriving instruction names is not in use, its id is refused. -/
theorem settle_memberCheck_none {key : Nat} (hb : sget s.barriers key = none) (v : State) (i : BitVec 5) (id : W)
    (k : Unit → Except Stop Done) :
    settle v c x (memberCheck s c x key i id >>= k) = v.takeFault c x eRes 0 (resInfo i) 0 0 := by
  rw [memberCheck, hb]
  rfl

/-- Else the launch, the stranding and the membership are checked in this order (R331). -/
theorem settle_memberCheck_some {key : Nat} {b : Barrier} (hb : sget s.barriers key = some b) (v : State) (i : BitVec 5) (id : W)
    (k : Unit → Except Stop Done) :
    settle v c x (memberCheck s c x key i id >>= k) =
      if b.owner ≠ s.launchOf c x then v.takeFault c x ePerm 0 0 0 0
      else if b.stranded = true then v.takeFault c x eBstr 0 id 0 0
      else if b.isMember c x = false then v.takeFault c x ePerm 0 0 0 0
      else settle v c x (k ()) := by
  rw [memberCheck, hb]
  simp only [bind_assoc, settle_need]
  by_cases howner : b.owner = s.launchOf c x
  · rw [if_pos (beq_iff_eq.mpr howner), if_neg (not_not.mpr howner)]
    cases b.stranded
    · cases hmem : b.isMember c x
      · rfl
      · rfl
    · rfl
  · rw [if_neg (mt beq_iff_eq.mp howner), if_pos howner]

/-! ### The table (R326 to R329, R331) -/

theorem Barrier.complete_eq_phased (b : Barrier) : b.complete = phased b := by
  unfold Barrier.complete phased
  refine ite_congr ?_ (fun _ => rfl) fun _ => rfl
  simp only [Bool.and_eq_true, decide_eq_true_eq, Nat.one_le_iff_ne_zero]

theorem Barrier.arrive_eq_arrived (b : Barrier) (c x : Nat) : b.arrive c x = arrived b c x := by
  simp only [Barrier.arrive, arrived, Bool.and_eq_true, beq_iff_eq]

theorem phased_isMember (b : Barrier) (c x : Nat) : (phased b).isMember c x = b.isMember c x := by
  unfold phased Barrier.isMember
  split
  · rw [List.any_map]
    rfl
  · rfl

theorem phased_stranded (b : Barrier) : (phased b).stranded = b.stranded := by
  unfold phased
  split <;> rfl

/-- An entry that is not stranded is put back with no gang to fault. -/
theorem State.putBarrier_of_not_stranded (s : State) (key : Nat) {b : Barrier} (h : b.stranded = false) :
    s.putBarrier key b = { s with barriers := sput s.barriers key b } := by
  simp [State.putBarrier, h]

theorem phasePassed_iff (p tok : BitVec 16) : phasePassed p tok = true ↔ 1 ≤ (p - tok).toNat ∧ (p - tok).toNat ≤ 2 ^ 15 := by
  simp [phasePassed]

section
variable {n : Nat} {m : BarCmd} (hm : sget s.barCmds n = some m) (hans : m.ans = none)
include hm hans

/-- A free entry is made by `bar.init` alone, with a count in range (R331). -/
theorem State.tableStep_of_free (hb : sget s.barriers m.key = none) :
    s.tableStep n =
      if m.op ≠ 0 ∨ m.arg = 0 ∨ 2 ^ 24 ≤ m.arg.toNat then s.answerBar n m 3
      else (s.putBarrier m.key { owner := s.launchOf m.core m.ctx, expected := m.arg.toNat }).answerBar n m 0 := by
  simp only [State.tableStep, hm, hans, hb, Option.isSome_none, Bool.false_eq_true, if_false]
  by_cases hop : m.op = 0
  · simp [hop]
  · simp [hop]

variable {b : Barrier} (hb : sget s.barriers m.key = some b)
include hb

/-- `bar.init` of an entry in use. -/
theorem State.tableStep_init (hop : m.op = 0) : s.tableStep n = s.answerBar n m 1 := by
  simp [State.tableStep, hm, hans, hb, hop]

/-- A command of another launch. -/
theorem State.tableStep_foreign (hop : m.op ≠ 0) (hown : b.owner ≠ s.launchOf m.core m.ctx) :
    s.tableStep n = s.answerBar n m 2 := by
  simp [State.tableStep, hm, hans, hb, hop, hown]

/-- A command up to `bar.sync` on a stranded entry (R328). -/
theorem State.tableStep_stranded (hown : b.owner = s.launchOf m.core m.ctx) (hstr : b.stranded = true) (h1 : 1 ≤ m.op)
    (h4 : m.op ≤ 4) : s.tableStep n = s.answerBar n m 4 := by
  have hop : m.op ≠ 0 := by omega
  simp [State.tableStep, hm, hans, hb, hop, hown, hstr, h1, h4]

end

/-- What the table does with a command that passes the checks of its entry: one case for each code. -/
def State.tableActs (s : State) (n : Nat) (m : BarCmd) (b : Barrier) : State :=
  match m.op with
  | 1 => (s.putBarrier m.key (if b.isMember m.core m.ctx then phased b else
      { phased b with members := (phased b).members ++ [{ core := m.core, ctx := m.ctx, arrived := false }] })).answerBar n m 0
  | 2 =>
    if b.isMember m.core m.ctx = false then s.answerBar n m 2
    else if b.hasArrived m.core m.ctx then s.holdBar n m
    else (s.putBarrier m.key (arrived b m.core m.ctx)).answerBar n m 0 b.phase
  | 3 =>
    if b.isMember m.core m.ctx = false then s.answerBar n m 2
    else if phasePassed b.phase (m.arg.setWidth 16) then s.answerBar n m 0
    else s.holdBar n m
  | 4 =>
    if b.isMember m.core m.ctx = false then s.answerBar n m 2
    else if b.hasArrived m.core m.ctx then s.holdBar n m
    else (s.putBarrier m.key (arrived b m.core m.ctx)).holdBar n { m with op := 3, arg := b.phase.setWidth 32 }
  | 5 => if b.isMember m.core m.ctx then (s.putBarrier m.key (b.leave m.core m.ctx)).answerBar n m 0 else s.answerBar n m 0
  | _ => if b.stranded = false ∧ s.barWaiter m.key = true then s.answerBar n m 3
    else { s with barriers := sdel s.barriers m.key }.answerBar n m 0

/-- A command of the entry's own launch that no stranding refuses is acted on. -/
theorem State.tableStep_of_own {n : Nat} {m : BarCmd} {b : Barrier} (hm : sget s.barCmds n = some m) (hans : m.ans = none)
    (hb : sget s.barriers m.key = some b) (hop : m.op ≠ 0) (hown : b.owner = s.launchOf m.core m.ctx)
    (hstr : b.stranded = false ∨ 4 < m.op) : s.tableStep n = s.tableActs n m b := by
  have hpass : (b.stranded && decide (1 ≤ m.op) && decide (m.op ≤ 4)) = false := by
    obtain h | h := hstr
    · simp [h]
    · simp [Nat.not_le.mpr h]
  simp only [State.tableStep, hm, hans, hb, Option.isSome_none, Bool.false_eq_true, if_false, if_neg hop, hown, bne_self_eq_false,
    hpass, State.tableActs, Barrier.complete_eq_phased, phased_isMember, Barrier.arrive_eq_arrived, Bool.not_eq_true',
    Bool.and_eq_true] <;> rfl

end Sys2Proof.Machine
end

section
/-! PROOFS. The barrier instructions and the barrier table (R325 to R331, R402). -/

namespace Sys2Proof.Safety

open Sys2Proof.Machine

/-! ### The instructions (R325, R330, R331, R402) -/

/-- What an entry of `barOps` says of its instruction: it is issued with its form, its body is that of its code, with a second
operand where it has one, and an answer that is no fault retires it as the entry says. -/
def BarIssues (p : (EX → Instr) × (EX → Form) × Nat × Bool × (State → Nat → Nat → EX → Nat → BitVec 16 → State)) (f : EX) : Prop :=
  ∃ (give : State → Nat → Nat → Nat → BitVec 16 → Done) (arg : List Val → W),
    (∀ s, exec (p.1 f) s = issue s (p.2.1 f) fun s c x vs => barBody p.2.2.1 p.2.2.2.1 (if p.2.2.1 = 0 then f.b else f.a) s c x
      (uVal vs 0) (arg vs) fun t code ph => give t c x code ph) ∧
    (∀ vs, vs.length = (p.2.1 f).srcs.length → arg vs = uVal vs 1) ∧
    ∀ v t c x code ph, settle v c x (.ok (give t c x code ph)) = p.2.2.2.2 t c x f code ph

theorem barOps_issue : ∀ p ∈ barOps, ∀ f : EX, BarIssues p f := by
  have hone {vs : List Val} (h : vs.length = 1) : 0 = uVal vs 1 := (uVal_of_length_le h.le).symm
  simp only [barOps, List.forall_mem_cons]
  refine ⟨fun f => ?init, fun f => ?join, fun f => ?arr, fun f => ?wait, fun f => ?sync, fun f => ?leave, fun f => ?free, nofun⟩
  case init =>
    exact ⟨fun t c x code _ => doneS t c x f.d.toNat (BitVec.ofNat 32 code), fun vs => uVal vs 1, fun _ => rfl, fun _ _ => rfl,
      fun _ _ _ _ _ _ => settle_doneS_any ..⟩
  case arr =>
    exact ⟨fun t c x _ ph => doneS t c x f.d.toNat (ph.setWidth 32), fun _ => 0, fun _ => rfl, fun _ => hone,
      fun _ _ _ _ _ _ => settle_doneS_any ..⟩
  case wait =>
    exact ⟨fun t _ _ _ _ => doneEnd t, fun vs => uVal vs 1, fun _ => rfl, fun _ _ => rfl, fun _ _ _ _ _ _ => settle_doneEnd ..⟩
  case sync =>
    exact ⟨fun t _ _ _ _ => doneEnd t, fun _ => 0, fun _ => rfl, fun _ => hone, fun _ _ _ _ _ _ => settle_doneEnd ..⟩
  all_goals
    exact ⟨fun t _ _ _ _ => done t, fun _ => 0, fun _ => rfl, fun _ => hone, fun _ _ _ _ _ _ => settle_done_any ..⟩

/-- A barrier instruction that is ready comes to the body of its code. -/
theorem exec_bar_of_ready {p : (EX → Instr) × (EX → Form) × Nat × Bool × (State → Nat → Nat → EX → Nat → BitVec 16 → State)}
    (hp : p ∈ barOps) {f : EX} {s : State} {c x : Nat} {vs : List Val} (h : Ready s c x (p.2.1 f) vs) :
    let s' := noteFallback s c x (p.2.1 f).fb
    ∃ give : State → Nat → BitVec 16 → Done,
      exec (p.1 f) s = .next (settle s' c x (barBody p.2.2.1 p.2.2.2.1 (if p.2.2.1 = 0 then f.b else f.a) s' c x
        (uVal vs 0) (uVal vs 1) give)) ∧
      ∀ v t code ph, settle v c x (.ok (give t code ph)) = p.2.2.2.2 t c x f code ph := by
  obtain ⟨give, arg, hexec, harg, hgive⟩ := barOps_issue p hp f
  refine ⟨fun t code ph => give t c x code ph, ?_, fun v t code ph => hgive v t c x code ph⟩
  rw [hexec, issue_of_ready h, harg vs (values_length h)]

/-- The answers that are faults (R331), and those that let the instruction retire. -/
theorem settle_answer {i : BitVec 5} {id : W} {code : Nat} {v r : State} {c x : Nat} {d : Done} (hd : settle v c x (.ok d) = r) :
    (if code ≤ 1 then settle v c x (.ok d) else settle v c x (.error (barStop i id code))) = match code with
      | 0 | 1 => r
      | 2 => v.takeFault c x ePerm 0 0 0 0
      | 3 => v.takeFault c x eRes 0 (resInfo i) 0 0
      | _ => v.takeFault c x eBstr 0 id 0 0 := by
  match code with
  | 0 | 1 => exact hd
  | 2 => rfl
  | 3 => rfl
  | _ + 4 => rfl

/-- Settles O25: every instruction of the table has the body of its code (`barOps_issue`), which takes up an answer or sends
its command behind its checks. -/
theorem barrierInstructions : Obligations.BarrierInstructions := by
  intro p hp f s c x vs hx h s' id key waits named
  obtain ⟨give, hexec, hgive⟩ := exec_bar_of_ready hp h
  have hop {q : State} (hq : settle s' c x (barBody p.2.2.1 p.2.2.2.1 (if p.2.2.1 = 0 then f.b else f.a) s' c x
      (uVal vs 0) (uVal vs 1) give) = q) : exec (p.1 f) s = .next q := hexec.trans (congrArg _ hq)
  refine ⟨fun k m hm => ?answer, fun hm => ?send⟩
  case answer =>
    intro t
    refine ⟨fun hans => hop ?_, fun code ph hans => hop ?_⟩
    · rw [settle_barBody_of_cmd hx _ hm, hans]
      rfl
    · rw [settle_barBody_of_cmd hx _ hm, hans]
      exact settle_answer (hgive ..)
  case send =>
    intro sent
    have hnone := settle_barBody_of_none (op := p.2.2.1) (arrives := p.2.2.2.1) (i := if p.2.2.1 = 0 then f.b else f.a) (id := id)
      (arg := uVal vs 1) (give := give) hx s' hm
    refine ⟨fun hbad => hop (hnone.trans ?_), fun hok hplain => hop (hnone.trans ?_), fun hok harr =>
      ⟨fun hb => hop (hnone.trans ?_), fun b hb => hop (hnone.trans ?_)⟩⟩
    · rw [hbad]
      rfl
    · rw [hok, hplain]
      rfl
    · rw [hok, harr]
      exact settle_memberCheck_none hb ..
    · rw [hok, harr]
      refine (settle_memberCheck_some hb ..).trans (ite_congr rfl (fun _ => rfl) fun _ => ite_congr rfl (fun _ => rfl) fun _ =>
        ite_congr rfl (fun _ => rfl) fun _ => ?_)
      rw [settle_need_park]
      rfl

/-! ### The table (R326 to R329, R331) -/

theorem exec_barrierArrivalAtTable (n : Nat) (s : State) : exec (.barrierArrivalAtTable n) s = .next (s.tableStep n) := rfl
theorem exec_barrierPhaseNotify (c x : Nat) (s : State) : exec (.barrierPhaseNotify c x) s = execBarrierPhaseNotify c x s := rfl

/-- Settles O26: the table's checks in their order, and then its acts, one for each code (`State.tableActs`). -/
theorem barrierTable : Obligations.BarrierTable := by
  intro s n m hm hans act answer stay
  have hact {t : State} (h : s.tableStep n = t) : act t := (exec_barrierArrivalAtTable n s).trans (congrArg _ h)
  refine ⟨fun hb => ⟨fun hbad => hact ?refused, fun hop harg hlt => hact ?made⟩, fun b hb => ?inUse, ?cycle⟩
  case refused =>
    rw [State.tableStep_of_free hm hans hb, if_pos hbad]
    rfl
  case made =>
    rw [State.tableStep_of_free hm hans hb, if_neg (not_or.mpr ⟨not_not.mpr hop, not_or.mpr ⟨harg, Nat.not_le.mpr hlt⟩⟩), State.putBarrier_of_not_stranded _ _ rfl]
    rfl
  case cycle =>
    exact congrArg (fun g => s.barriers.map fun p => (p.1, g p.2)) (funext Barrier.complete_eq_phased)
  case inUse =>
    intro isIn came own put
    refine ⟨fun hop => hact (State.tableStep_init hm hans hb hop), fun hop hown => hact (State.tableStep_foreign hm hans hb hop hown),
      fun hown hstr h1 h4 => hact (State.tableStep_stranded hm hans hb hown hstr h1 h4), fun hown hstr => ?own,
      fun hown hstr hop => hact ?strandedFree, fun c x hcmd hthere => ?notice⟩
    case notice =>
      rw [exec_barrierPhaseNotify, execBarrierPhaseNotify, hcmd]
      exact congrArg _ (if_pos hthere)
    case strandedFree =>
      rw [State.tableStep_of_own hm hans hb (by omega) hown (.inr (by omega)), State.tableActs, hop]
      exact if_neg (by simp [hstr])
    case own =>
      have hown' {t : State} (hop : m.op ≠ 0) (h : s.tableActs n m b = t) : act t :=
        hact ((State.tableStep_of_own hm hans hb hop hown (.inl hstr)).trans h)
      have hmember (hin : isIn = true) : ¬b.isMember m.core m.ctx = false := fun h => Bool.noConfusion (hin.symm.trans h)
      refine ⟨fun hop => hown' (by omega) ?join, fun hop hin => hown' (by omega) ?stranger, fun hop hin hcame => hown' (by omega) ?again,
        fun hop hin hcame => hown' (by omega) ?arrival, fun hop hin hcame => hown' (by omega) ?sync,
        fun hop hin => hown' (by omega) ?wait, fun hop hin => hown' (by omega) ?leaveStranger, fun hop hin => hown' (by omega) ?leave,
        fun hop hw => hown' (by omega) ?freeWaited, fun hop hw => hown' (by omega) ?free⟩
      case join =>
        rw [State.tableActs, hop]
        refine congrArg (State.answerBar · n m 0) ((State.putBarrier_of_not_stranded _ _ ?_).trans ?_)
        · exact (apply_ite Barrier.stranded ..).trans ((ite_self _).trans ((phased_stranded b).trans hstr))
        · change put (if isIn then phased b else _) = put _
          cases isIn
          · rfl
          · rw [if_pos rfl, if_pos rfl, List.append_nil]
      case stranger =>
        rw [State.tableActs]
        obtain hop | hop | hop := hop <;> rw [hop] <;> exact if_pos hin
      case again =>
        rw [State.tableActs]
        obtain hop | hop := hop <;> rw [hop] <;> exact (if_neg (hmember hin)).trans (if_pos hcame)
      case arrival =>
        rw [State.tableActs, hop]
        refine (if_neg (hmember hin)).trans ((if_neg (Bool.eq_false_iff.mp hcame)).trans ?_)
        rw [State.putBarrier_of_not_stranded s m.key (b := arrived b m.core m.ctx) hstr]
        rfl
      case sync =>
        rw [State.tableActs, hop]
        refine (if_neg (hmember hin)).trans ((if_neg (Bool.eq_false_iff.mp hcame)).trans ?_)
        rw [State.putBarrier_of_not_stranded s m.key (b := arrived b m.core m.ctx) hstr]
        rfl
      case wait =>
        rw [State.tableActs, hop]
        exact (if_neg (hmember hin)).trans (ite_congr (propext (phasePassed_iff ..)) (fun _ => rfl) fun _ => rfl)
      case leaveStranger =>
        rw [State.tableActs, hop]
        exact if_neg (Bool.eq_false_iff.mp hin)
      case leave =>
        rw [State.tableActs, hop]
        exact if_pos hin
      case freeWaited =>
        rw [State.tableActs, hop]
        exact if_pos ⟨hstr, hw⟩
      case free =>
        rw [State.tableActs, hop]
        exact if_neg fun h => Bool.eq_false_iff.mp hw h.2

end Sys2Proof.Safety
end

section
/-! SUPPORT. What the waits of a crew for its matrix commands and its requests to the arbiter settle to (R293, R294, R296 to R298,
R304). -/

namespace Sys2Proof.Machine

open Sys2Proof.Safety

variable {s : State} {c x : Nat}

/-! ### What keeps the issuer and the halts -/

theorem Keeps.setMxWait (s : State) (c x : Nat) (r : Option MxReq) : Keeps s (s.setMxWait c x r) := Keeps.modMx ..

theorem Keeps.uniDone (s : State) (c x d : Nat) (w : W) : Keeps s (uniDone s c x d false w) :=
  Keeps.modGang s c x _ fun g => by unfold Gang.setSreg; split <;> rfl

theorem Keeps.emptySlots (s : State) (c first n : Nat) : Keeps s (s.emptySlots c first n) := Keeps.modCore _ _ _ fun _ => rfl

theorem Keeps.dropLicence (s : State) (c q : Nat) : Keeps s (s.dropLicence c q) := by
  unfold State.dropLicence
  split
  · exact .refl _
  · dsimp only
    split
    · exact ((Keeps.emptySlots ..).trans (Keeps.emptySlots ..)).trans (Keeps.modCrew ..)
    · exact (Keeps.emptySlots ..).trans (Keeps.modCrew ..)

/-! ### Waiting for commands (R294, R298, R304) -/

/-- A queued command of the crew that `uses` selects and that is earlier than the instruction (R304). -/
def crewWaits (s : State) (c x : Nat) (uses : MxCmd → Bool) : Bool :=
  (s.mx c).q.any fun m => m.core == c && m.ctx / 16 == x / 16 && uses m && decide (m.num < match s.mxWaitOf c x with
    | some r => r.word.toNat
    | none => (s.mx c).num)

/-- The group parks, and its wait names the commands that were queued as it began. -/
def mxWaiting (s : State) (c x : Nat) : State :=
  (s.setMxWait c x (some { ctx := x, kind := 2, word := match s.mxWaitOf c x with
    | some r => r.word
    | none => BitVec.ofNat 32 (s.mx c).num })).park c x .engine 5

theorem settle_whenRetired (v : State) (uses : MxCmd → Bool) (act : State → Except Stop Done) :
    settle v c x (whenRetired s c x uses act) =
      if crewWaits s c x uses then mxWaiting s c x else settle v c x (act (s.setMxWait c x none)) := by
  unfold whenRetired crewWaits mxWaiting
  have horder : ∀ (a b u n : Bool), (a && b && n && u) = (a && b && u && n) := fun a b u n => Bool.and_right_comm ..
  cases s.mxWaitOf c x with
  | none =>
    simp only [horder, crewSlot]
    split <;> rfl
  | some r =>
    simp only [horder, crewSlot, BitVec.ofNat_toNat, BitVec.setWidth_eq]
    split <;> rfl

/-- `acc.rel` gives up the tiles of its mask (R298). -/
theorem Crew.release_eq (w : Crew) (m : BitVec 8) (both : Bool) : w.release m both =
    { w with solo := w.solo &&& ~~~m, pair := w.pair &&& ~~~m
             far := if both then w.far &&& ~~~m else w.far ||| (w.pair &&& m) } := by
  cases both <;> rfl

/-! ### Requests (R293, R296 to R298) -/

theorem settle_askMx_of_none (v : State) {d kind : Nat} {a : W} (hr : s.mxWaitOf c x = none) :
    settle v c x (askMx s c x d kind a) =
      (s.setMxWait c x (some { ctx := x, kind := kind, word := a })).park c x .engine 5 := by
  rw [askMx, hr]
  rfl

theorem settle_askMx_of_some (v : State) {d kind : Nat} {a : W} {r : MxReq} (hr : s.mxWaitOf c x = some r) :
    settle v c x (askMx s c x d kind a) = match r.ans with
      | none => v.park c x .engine 5
      | some a => uniDone (s.setMxWait c x none) c x d false a := by
  rw [askMx, hr]
  dsimp only
  cases r.ans with
  | none => rfl
  | some a => exact settle_doneS_any ..

end Sys2Proof.Machine
end

section
/-! PROOFS. `acc.get`, `acc.rel`, `mx.lic`, `mx.wait` and `mx.unlic` (R293, R294, R296 to R298, R304). -/

namespace Sys2Proof.Safety

open Sys2Proof.Machine

theorem exec_mxWait (f : EX) (s : State) : exec (.mxWait f) s = execMxWait f s := rfl
theorem exec_mxUnlic (f : EX) (s : State) : exec (.mxUnlic f) s = execMxUnlic f s := rfl
theorem exec_accRel (f : EX) (s : State) : exec (.accRel f) s = execAccRel f s := rfl
theorem exec_accGet (f : EX) (s : State) : exec (.accGet f) s = execAccGet f s := rfl
theorem exec_mxLic (f : EX) (s : State) : exec (.mxLic f) s = execMxLic f s := rfl

section
variable {s : State} {c x : Nat} {fm : Form} {vs : List Val} (ht : Tensor s c x) (h : Ready s c x { fm with wide := true } vs)
include ht h

/-- A matrix instruction of which the body settles to a state that halts no gang. -/
theorem issueMx_of_keeps {body : State → Nat → Nat → List Val → Except Stop Done} {t : State}
    (hbody : settle (noteFallback s c x fm.fb) c x (body (noteFallback s c x fm.fb) c x vs) = t)
    (hk : Keeps (noteFallback s c x fm.fb) t) : issueMx s fm body = .next t := by
  rw [issueMx_of_tensor h body ht, hbody, clearReported_of_keeps h.issues ht hk]

/-- One of which the body faults. -/
theorem issueMx_of_fault {body : State → Nat → Nat → List Val → Except Stop Done} {code : Byte} {info : W}
    (hbody : settle (noteFallback s c x fm.fb) c x (body (noteFallback s c x fm.fb) c x vs) =
      (noteFallback s c x fm.fb).takeFault c x code 0 info 0 0) :
    issueMx s fm body = .next ((noteFallback s c x fm.fb).takeFault c x code 0 info 0 0) := by
  rw [issueMx_of_tensor h body ht, hbody, clearReported_own_fault h.issues ht.gang]

end

section
variable {s : State} {c x : Nat} {f : EX} (ht : Tensor s c x)
include ht

theorem mxWait_of_ready (h : Ready s c x { exForm .zero .zero .zero f with wide := true } []) :
    let s' := noteFallback s c x (exFallback .zero .zero .zero f)
    let t := s'.setMxWait c x none
    exec (.mxWait f) s = .next (if crewWaits s' c x fun _ => true then mxWaiting s' c x
      else if t.fenceDone c x 4 4 then plainDone t c x false else s'.park c x .fence 0) := by
  intro s' t
  rw [exec_mxWait, execMxWait]
  refine issueMx_of_keeps (fm := exForm .zero .zero .zero f) ht h ?settles ?keeps
  case settles =>
    rw [settle_whenRetired, settle_need_park, settle_pure, settle_done_any]
    rfl
  case keeps =>
    split
    · exact (Keeps.setMxWait ..).trans (Keeps.park ..)
    · split
      · exact (Keeps.setMxWait ..).trans (Keeps.plainDone ..)
      · exact Keeps.park ..

theorem mxUnlic_of_ready (h : Ready s c x { exForm .zero .zero .zero f with wide := true } []) :
    let s' := noteFallback s c x (exFallback .zero .zero .zero f)
    exec (.mxUnlic f) s = .next (if (s.crew c (x / 16)).lic = none then plainDone s' c x false
      else if s'.crewMx c x then s'.park c x .engine 5 else plainDone (s'.dropLicence c (x / 16)) c x false) := by
  intro s'
  rw [exec_mxUnlic, execMxUnlic]
  refine issueMx_of_keeps (fm := exForm .zero .zero .zero f) ht h ?settles ?keeps
  case settles =>
    simp only [apply_ite (settle _ c x), crew_noteFallback, crewSlot, Option.isNone_iff_eq_none]
    exact ite_congr rfl (fun _ => settle_done_any ..) fun _ => ite_congr rfl (fun _ => rfl) fun _ => settle_done_any ..
  case keeps =>
    split
    · exact Keeps.plainDone ..
    · split
      · exact Keeps.park ..
      · exact (Keeps.dropLicence ..).trans (Keeps.plainDone ..)

theorem accRel_of_ready {a : W} (h : Ready s c x { exForm .zero .read .zero f with wide := true } [.s a]) :
    let s' := noteFallback s c x (exFallback .zero .read .zero f)
    exec (.accRel f) s = .next (if crewWaits s' c x (fun m => m.tiles &&& a.setWidth 8 != 0) then mxWaiting s' c x
      else plainDone ((s'.setMxWait c x none).modCrew c (x / 16) fun w => w.release (a.setWidth 8) (bit a 8)) c x false) := by
  intro s'
  rw [exec_accRel, execAccRel]
  refine issueMx_of_keeps (fm := exForm .zero .read .zero f) ht h ?settles ?keeps
  case settles =>
    dsimp only
    rw [settle_whenRetired, settle_pure, settle_done_any]
    rfl
  case keeps =>
    split
    · exact (Keeps.setMxWait ..).trans (Keeps.park ..)
    · exact ((Keeps.setMxWait ..).trans (Keeps.modCrew ..)).trans (Keeps.plainDone ..)

/-- An instruction that comes to ask the arbiter sends its request and parks, or takes up its answer. -/
theorem asks_of_body {fm : Form} {a : W} {i : Instr} {d kind : Nat} {body : State → Nat → Nat → List Val → Except Stop Done}
    (h : Ready s c x { fm with wide := true } [.s a]) (hexec : exec i s = issueMx s fm body)
    (hbody : body (noteFallback s c x fm.fb) c x [.s a] = askMx (noteFallback s c x fm.fb) c x d kind a) :
    let s' := noteFallback s c x fm.fb
    (s'.mxWaitOf c x = none → exec i s = .next ((s'.setMxWait c x
      (some { ctx := x, kind := kind, word := a })).park c x .engine 5)) ∧
    (∀ r, s'.mxWaitOf c x = some r → exec i s = .next (match r.ans with
      | none => s'.park c x .engine 5
      | some v => uniDone (s'.setMxWait c x none) c x d false v)) := by
  intro s'
  refine ⟨fun hr => ?asks, fun r hr => ?answered⟩
  case asks =>
    rw [hexec]
    refine issueMx_of_keeps ht h ?_ ((Keeps.setMxWait ..).trans (Keeps.park ..))
    rw [hbody, settle_askMx_of_none _ hr]
  case answered =>
    rw [hexec]
    refine issueMx_of_keeps ht h ((congrArg _ hbody).trans (settle_askMx_of_some _ hr)) ?_
    cases r.ans with
    | none => exact Keeps.park ..
    | some v => exact (Keeps.setMxWait ..).trans (Keeps.uniDone ..)

end

/-! ### The bodies of the two requests (R293, R298) -/

/-- The licence of a crew is for a pair. -/
def pairLicence (w : Crew) : Bool := match w.lic with
  | some l => l.1
  | none => false

/-- The body of `acc.get`: the pair form needs the pair licence, and a get of no tile asks nothing. -/
def getBody (t : State) (c x d : Nat) (a : W) : Except Stop Done :=
  need (!bit a 8 || pairLicence (t.crew c (x / 16))) (.code eRole) >>= fun _ =>
    if a.toNat % 256 = 0 then .ok (doneS t c x d 0) else askMx t c x d 0 a

/-- The body of `mx.lic`: its range of slots, and what it answers without the arbiter. -/
def licBody (t : State) (c x : Nat) (i : BitVec 5) (d : Nat) (a : W) : Except Stop Done :=
  let n := a.toNat / 2 ^ 16 % 128
  need (decide (1 ≤ n ∧ n ≤ 64 ∧ a.toNat / 2 ^ 8 % 64 + n ≤ 64)) (.res i) >>= fun _ =>
    if t.mxWaitOf c x ≠ none then askMx t c x d 1 a
    else if (t.crew c (x / 16)).lic ≠ none then .ok (doneS t c x d 3)
    else if bit a 0 = true ∧ (c % 2 = 1 ∨ t.pairCrew c x = false) then .ok (doneS t c x d 2)
    else askMx t c x d 1 a

theorem accGet_issue (f : EX) (s : State) :
    exec (.accGet f) s = issueMx s (exForm .dest .read .zero f) fun s c x vs => getBody s c x f.d.toNat (uVal vs 0) := by
  have hlic (w : Crew) : (w.lic.map (·.1)).getD false = pairLicence w := by
    unfold pairLicence
    cases w.lic <;> rfl
  have hmask (a : W) : a.setWidth 8 = (0 : BitVec 8) ↔ a.toNat % 256 = 0 := by
    rw [← BitVec.toNat_inj, BitVec.toNat_setWidth]
    rfl
  rw [exec_accGet, execAccGet]
  simp only [crewSlot, hlic, hmask]
  rfl

theorem mxLic_issue (f : EX) (s : State) :
    exec (.mxLic f) s = issueMx s (exForm .dest .read .zero f) fun s c x vs => licBody s c x f.a f.d.toNat (uVal vs 0) := by
  rw [exec_mxLic, execMxLic]
  refine congrArg _ (funext fun t => funext fun c => funext fun x => funext fun vs => ?_)
  simp only [licBody, licCount, licFirst, Bool.decide_and, Bool.and_assoc, crewSlot, ← Option.isSome_iff_ne_none,
    Bool.and_eq_true, Bool.or_eq_true, beq_iff_eq, Bool.not_eq_true']
  cases t.mxWaitOf c x <;> rfl

section
variable {t : State} {c x d : Nat} {a : W} {i : BitVec 5}

theorem getBody_of_refused (hpair : bit a 8 = true) (hl : pairLicence (t.crew c (x / 16)) = false) :
    getBody t c x d a = .error (.code eRole) := by
  rw [getBody, hpair, hl]
  rfl

theorem getBody_of_licence (hl : bit a 8 = true → pairLicence (t.crew c (x / 16)) = true) :
    getBody t c x d a = if a.toNat % 256 = 0 then .ok (doneS t c x d 0) else askMx t c x d 0 a := by
  have hok : (!bit a 8 || pairLicence (t.crew c (x / 16))) = true := by
    cases hb : bit a 8
    · rfl
    · exact hl hb
  rw [getBody, hok]
  rfl

theorem licBody_of_refused (h : ¬(1 ≤ a.toNat / 2 ^ 16 % 128 ∧ a.toNat / 2 ^ 16 % 128 ≤ 64 ∧
    a.toNat / 2 ^ 8 % 64 + a.toNat / 2 ^ 16 % 128 ≤ 64)) : licBody t c x i d a = .error (.res i) := by
  rw [licBody, decide_eq_false h]
  rfl

theorem licBody_of_range (h : 1 ≤ a.toNat / 2 ^ 16 % 128 ∧ a.toNat / 2 ^ 16 % 128 ≤ 64 ∧
    a.toNat / 2 ^ 8 % 64 + a.toNat / 2 ^ 16 % 128 ≤ 64) : licBody t c x i d a =
      if t.mxWaitOf c x ≠ none then askMx t c x d 1 a
      else if (t.crew c (x / 16)).lic ≠ none then .ok (doneS t c x d 3)
      else if bit a 0 = true ∧ (c % 2 = 1 ∨ t.pairCrew c x = false) then .ok (doneS t c x d 2)
      else askMx t c x d 1 a := by
  rw [licBody, decide_eq_true h]
  rfl

end

/-- Settles O28: the three waits by what of the crew's commands is queued (`settle_whenRetired`), the two requests by their
place at the arbiter (`settle_askMx_of_none`, `settle_askMx_of_some`). -/
theorem matrixLicences : Obligations.MatrixLicences := by
  intro s c x ht w none1 mine wait
  refine ⟨fun f h => ?waits, fun f a h => ?release, fun f a h => ?asks⟩
  case waits =>
    intro s'
    have hunlic := mxUnlic_of_ready ht h
    refine ⟨fun hm => (mxWait_of_ready ht h).trans (congrArg _ (if_pos hm)),
      fun hm => (mxWait_of_ready ht h).trans (congrArg _ (if_neg (Bool.eq_false_iff.mp hm))),
      fun hl => hunlic.trans (congrArg _ (if_pos hl)),
      fun hl hq => hunlic.trans (congrArg _ ((if_neg hl).trans (if_pos hq))),
      fun hl hq => hunlic.trans (congrArg _ ((if_neg hl).trans (if_neg (Bool.eq_false_iff.mp hq))))⟩
  case release =>
    intro s' uses
    refine ⟨fun hm => (accRel_of_ready ht h).trans (congrArg _ (if_pos hm)),
      fun hm => (accRel_of_ready ht h).trans (congrArg _ ((if_neg (Bool.eq_false_iff.mp hm)).trans ?_))⟩
    simp only [Crew.release_eq]
    rfl
  case asks =>
    intro s' give ask pairOk n first
    have hcrew : s'.crew c (x / 16) = w := crew_noteFallback ..
    have hpairOk : pairLicence (s'.crew c (x / 16)) = pairOk := congrArg pairLicence hcrew
    refine ⟨fun hpair hl => ?role, fun hpair h0 => ?none, fun hpair h0 => ?get, fun hbad => ?range, fun h1 h64 hin => ?lic⟩
    case role =>
      exact (accGet_issue ..).trans (issueMx_of_fault ht h (congrArg _ (getBody_of_refused hpair (hpairOk.trans hl))))
    case none =>
      refine (accGet_issue ..).trans (issueMx_of_keeps ht h ?_ (Keeps.uniDone ..))
      exact (congrArg _ ((getBody_of_licence (hpairOk ▸ hpair)).trans (if_pos h0))).trans (settle_doneS_any ..)
    case get =>
      exact asks_of_body ht h (accGet_issue ..) ((getBody_of_licence (hpairOk ▸ hpair)).trans (if_neg h0))
    case range =>
      have hout : ¬(1 ≤ n ∧ n ≤ 64 ∧ first + n ≤ 64) := by omega
      exact (mxLic_issue ..).trans (issueMx_of_fault ht h (congrArg _ (licBody_of_refused hout)))
    case lic =>
      have hbody := licBody_of_range (t := s') (c := c) (x := x) (d := f.d.toNat) (i := f.a) ⟨h1, h64, hin⟩
      have hgive {v : W} (hv : licBody s' c x f.a f.d.toNat a = .ok (doneS s' c x f.d.toNat v)) :
          exec (.mxLic f) s = .next (give s' v) := (mxLic_issue ..).trans
        (issueMx_of_keeps ht h ((congrArg _ hv).trans (settle_doneS_any ..)) (Keeps.uniDone ..))
      refine ⟨fun hw hl => hgive ?_, fun hw hl hb hc => hgive ?_, fun hask => asks_of_body ht h (mxLic_issue ..) ?_⟩
      · exact hbody.trans ((if_neg (not_not.mpr hw)).trans (if_pos (hcrew.symm ▸ hl)))
      · exact hbody.trans ((if_neg (not_not.mpr hw)).trans ((if_neg (not_not.mpr (hcrew.symm ▸ hl))).trans (if_pos ⟨hb, hc⟩)))
      · refine hbody.trans ?_
        by_cases hw : s'.mxWaitOf c x = none
        · obtain ⟨hl, hpair⟩ := hask.resolve_left (not_not.mpr hw)
          refine (if_neg (not_not.mpr hw)).trans ((if_neg (not_not.mpr (hcrew.symm ▸ hl))).trans (if_neg ?_))
          rintro ⟨hb, hc | hc⟩
          · have := (hpair hb).1
            omega
          · exact Bool.eq_false_iff.mp hc (hpair hb).2
        · exact if_pos hw

end Sys2Proof.Safety
end

section
/-! SUPPORT. How a matrix error is noted, and how tokens pass a quad of the roundabout (R310, R313, R314). -/

namespace Sys2Proof.Machine

/-- The first error of a crew stays (R310). -/
theorem State.mxError_eq (s : State) (m : MxCmd) (e : MxFail) : s.mxError m e = match e with
    | .poison => s.modCrew m.core (m.ctx / 16) fun w => { w with mxErr := some (w.mxErr.getD (ePoison, 3, m.pc)) }
    | .perm => s.modCrew m.core (m.ctx / 16) fun w => { w with mxErr := some (w.mxErr.getD (ePerm, 0, m.pc)) } := by
  have hkeep (d : Byte × Byte × PC) (w : Crew) : (match w.mxErr with
      | some _ => w
      | none => { w with mxErr := some d }) = { w with mxErr := some (w.mxErr.getD d) } := by
    obtain h | ⟨e, h⟩ := Option.eq_none_or_eq_some w.mxErr
    · rw [h]
      rfl
    · rw [h]
      exact congrArg (fun o => { w with mxErr := o }) h
  cases e
  · exact congrArg _ (funext (hkeep _))
  · exact congrArg _ (funext (hkeep _))

/-! ### Tokens (R313, R314) -/

theorem isSome_eq_false {t : Token} (h : t.burst.isNone = true) : t.burst.isSome = false := by
  rw [Option.isNone_iff_eq_none.mp h]
  rfl

theorem isNone_eq_false {t : Token} (h : t.burst.isSome = true) : t.burst.isNone = false := by
  obtain ⟨b, hb⟩ := Option.isSome_iff_exists.mp h
  rw [hb]
  rfl

theorem passQuad_held {n : Nat} {t : Token} {l : List Token} (h : t.burst.isSome = true) :
    passQuad n (t :: l) = t :: passQuad n l := by
  cases n <;> exact if_pos h

theorem passQuad_moves {t : Token} {l : List Token} (h : t.burst.isNone = true) :
    passQuad 0 (t :: l) = { t with quad := (t.quad + 1) % 16 } :: passQuad 0 l := by
  exact if_neg fun hs => Bool.eq_false_iff.mp (isSome_eq_false h) hs

theorem passQuad_retires {n : Nat} {t : Token} {l : List Token} (h : t.burst.isNone = true) :
    passQuad (n + 1) (t :: l) = passQuad n l := by
  exact if_neg fun hs => Bool.eq_false_iff.mp (isSome_eq_false h) hs

/-- A token is held by a burst, or moves. -/
theorem burst_cases (t : Token) : t.burst.isSome = true ∨ t.burst.isNone = true := by
  cases t.burst <;> simp

/-- As many moving tokens retire as are asked for, and no more than there are. -/
theorem length_passQuad (n : Nat) (l : List Token) :
    (passQuad n l).length = l.length - min n (l.filter fun t => t.burst.isNone).length := by
  induction l generalizing n with
  | nil => cases n <;> rfl
  | cons t l ih =>
    have hle : (l.filter fun t => t.burst.isNone).length ≤ l.length := List.length_filter_le ..
    obtain ht | ht := burst_cases t
    · rw [passQuad_held ht, List.length_cons, ih, List.filter_cons, if_neg (Bool.eq_false_iff.mp (isNone_eq_false ht)), List.length_cons]
      omega
    · cases n with
      | zero =>
        rw [passQuad_moves ht, List.length_cons, ih, List.length_cons]
        omega
      | succ n =>
        rw [passQuad_retires ht, ih, List.filter_cons, if_pos ht, List.length_cons, List.length_cons]
        omega

/-- A token whose burst runs stays where it is. -/
theorem mem_passQuad_of_held {n : Nat} {l : List Token} {t : Token} (ht : t ∈ l) (hb : t.burst.isSome = true) :
    t ∈ passQuad n l := by
  induction l generalizing n with
  | nil => cases ht
  | cons u l ih =>
    obtain hu | hu := burst_cases u
    · rw [passQuad_held hu]
      obtain rfl | ht := List.mem_cons.mp ht
      · exact List.mem_cons_self
      · exact List.mem_cons_of_mem _ (ih ht)
    · obtain rfl | ht := List.mem_cons.mp ht
      · exact absurd hb (Bool.eq_false_iff.mp (isSome_eq_false hu))
      · cases n with
        | zero =>
          rw [passQuad_moves hu]
          exact List.mem_cons_of_mem _ (ih ht)
        | succ n =>
          rw [passQuad_retires hu]
          exact ih ht

/-- A token that still moves has come from the quad before. -/
theorem moved_of_mem_passQuad {n : Nat} {l : List Token} {t : Token} (ht : t ∈ passQuad n l) (hb : t.burst.isNone = true) :
    ∃ u ∈ l, t = { u with quad := (u.quad + 1) % 16 } := by
  induction l generalizing n with
  | nil => cases ht
  | cons u l ih =>
    have hrest {k : Nat} (hk : t ∈ passQuad k l) : ∃ v ∈ u :: l, t = { v with quad := (v.quad + 1) % 16 } := by
      obtain ⟨v, hv, he⟩ := ih hk
      exact ⟨v, List.mem_cons_of_mem _ hv, he⟩
    obtain hu | hu := burst_cases u
    · rw [passQuad_held hu] at ht
      obtain rfl | ht := List.mem_cons.mp ht
      · exact absurd hb (Bool.eq_false_iff.mp (isNone_eq_false hu))
      · exact hrest ht
    · cases n with
      | zero =>
        rw [passQuad_moves hu] at ht
        obtain rfl | ht := List.mem_cons.mp ht
        · exact ⟨u, List.mem_cons_self, rfl⟩
        · exact hrest ht
      | succ n =>
        rw [passQuad_retires hu] at ht
        exact hrest ht

/-- RBTOK is taken as 1 to 16 (R314). -/
theorem rbtok_eq (v : W) : (if v = 0 then 1 else min v.toNat 16) = max 1 (min 16 v.toNat) := by
  by_cases h : v = 0
  · subst h
    rfl
  · have : v.toNat ≠ 0 := fun h0 => h (BitVec.eq_of_toNat_eq h0)
    rw [if_neg h]
    omega

end Sys2Proof.Machine
end

section
/-! PROOFS. The head matrix command of a core retires (R303, R310), the arbiter of a pair (R293, R296 to R298), and the roundabout
(R313, R314, R418). -/

namespace Sys2Proof.Safety

open Sys2Proof.Machine

theorem exec_mxCommandRetire (c : Nat) (s : State) : exec (.mxCommandRetire c) s = execMxCommandRetire c s := rfl
theorem exec_mxArbiterGrant (c : Nat) (s : State) : exec (.mxArbiterGrant c) s = execMxArbiterGrant c s := rfl
theorem exec_roundaboutTokenArrival (d q : Nat) (s : State) :
    exec (.roundaboutTokenArrival d q) s = .next (s.takeToken d q) := rfl
theorem exec_burstEnd (d q : Nat) (s : State) : exec (.burstEnd d q) s = execBurstEnd d q s := rfl
theorem exec_rbtokWrite (d : Nat) (v : W) (s : State) : exec (.rbtokWrite d v) s = execRbtokWrite d v s := rfl
theorem exec_thermalBurstHalt (d : Nat) (s : State) : exec (.thermalBurstHalt d) s = execThermalBurstHalt d s := rfl
theorem exec_thermalHaltLift (d : Nat) (s : State) : exec (.thermalHaltLift d) s = execThermalHaltLift d s := rfl

/-- Settles O29: the head command's run (`State.runMx`), its first error (`State.mxError_eq`), and what its end leaves. -/
theorem matrixCommandRetires : Obligations.MatrixCommandRetires := by
  intro s c
  rw [exec_mxCommandRetire]
  refine ⟨fun hr => ?waits, fun m t e hr hm hrun hn => ?retires⟩
  case waits =>
    rw [execMxCommandRetire, hr]
    rfl
  case retires =>
    intro t1 t2
    rw [execMxCommandRetire, hr, hm]
    simp only [hrun, hn]
    cases e with
    | none => rfl
    | some e =>
      simp only [State.mxError_eq]
      cases e <;> rfl

theorem matrixArbiter : MatrixArbiter := by
  intro s core lead first
  rw [exec_mxArbiterGrant]
  refine ⟨fun hnone => ?idle, fun c r hfirst => ⟨fun hfit => ?grant, fun hfit htie => ?waits, fun d q hfit htie hloser => ?refuses⟩⟩
  case idle =>
    rw [execMxArbiterGrant, show firstBy s.mxBefore (s.mxWaiting (pairLead core)) = none from hnone]
  all_goals rw [execMxArbiterGrant, show firstBy s.mxBefore (s.mxWaiting (pairLead core)) = some (c, r) from hfirst]
  case grant => exact if_pos hfit
  case waits => exact (if_neg (Bool.eq_false_iff.mp hfit)).trans (if_neg (Bool.eq_false_iff.mp htie))
  case refuses =>
    refine (if_neg (Bool.eq_false_iff.mp hfit)).trans ((if_pos htie).trans ?_)
    rw [show s.mxLoser (pairLead core) = some (d, q) from hloser]
    rfl

theorem roundabout : Roundabout := by
  intro s d q tokens
  refine ⟨fun hstop => ?passes, fun hstop => ?begins,
    fun n l => ⟨length_passQuad n l, fun t => mem_passQuad_of_held, fun t => moved_of_mem_passQuad⟩, ?ends, fun v => ?rbtok,
    exec_thermalBurstHalt .., exec_thermalHaltLift ..⟩
  case passes =>
    rw [exec_roundaboutTokenArrival, State.takeToken, hstop]
    rfl
  case begins =>
    rw [exec_roundaboutTokenArrival, State.takeToken, hstop]
    rfl
  case ends => exact exec_burstEnd ..
  case rbtok =>
    rw [exec_rbtokWrite, execRbtokWrite, rbtok_eq]

/-- Settles O32: the arbiter by its first request, and the tokens by induction on the list in which they pass a quad. -/
theorem matrixUnits : Obligations.MatrixUnits := ⟨matrixArbiter, roundabout⟩

end Sys2Proof.Safety
end

section
/-! SUPPORT. What the checks of the slot instructions, their commands and their verdicts settle to (R334, R343 to R351). -/

namespace Sys2Proof.Machine

open Sys2Proof.Safety

variable {s : State} {c x : Nat}

/-! ### Handles and commands (R334) -/

theorem handleOk_eq (h : W) : handleOk h = handleGood h := rfl

theorem mkFin_eq (s : State) (c x : Nat) (op : FinOp) (h : W) (die : Nat) (dst : Option Nat) :
    mkFin s c x op h die dst = finCommand s c x op h die dst := rfl

/-- A command says the same of a gang that has raised a flag. -/
theorem finCommand_raise (hs : (s.gang? c x).isSome) (fl : BitVec 14) (op : FinOp) (h : W) (die : Nat) (dst : Option Nat) :
    finCommand (s.modGang c x fun g => g.raise fl) c x op h die dst = finCommand s c x op h die dst := by
  have hslot : (s.modGang c x fun g => g.raise fl).slotOf c x = s.slotOf c x := by
    unfold State.slotOf
    rw [State.core_modGang_self]
  have hpc : ((s.modGang c x fun g => g.raise fl).gang c x).pc = (s.gang c x).pc := by
    rw [State.gang_modGang_self hs]
    rfl
  have hasid : (s.modGang c x fun g => g.raise fl).asidOf c x = s.asidOf c x := State.asidOf_modGang hs fun _ => rfl
  simp only [finCommand, hslot, hpc, hasid, State.pinOf, State.launchOf, State.crew_modGang]

theorem finCommand_raise_if (hs : (s.gang? c x).isSome) (o : Bool) (fl : BitVec 14) (op : FinOp) (h : W) (die : Nat)
    (dst : Option Nat) :
    finCommand (if o = true then s.modGang c x fun g => g.raise fl else s) c x op h die dst = finCommand s c x op h die dst := by
  cases o
  · rfl
  · exact finCommand_raise hs ..

/-- The fence of R343. -/
theorem settle_slotFence (v : State) (k : Unit → Except Stop Done) :
    settle v c x (slotFence s c x >>= k) = if s.fenceDone c x 13 3 then settle v c x (k ()) else v.park c x .fence 0 :=
  settle_need_park ..

/-! ### A command that fills registers -/

/-- The state in which a command that fills s`d` has been sent. -/
def sentOne (s : State) (c x d : Nat) (op : FinOp) (h : W) (die : Nat) : State :=
  awaiting ((s.emptyS c x d).sendFin (finCommand s c x op h die (some d))) c x (BitVec.ofNat 8 (64 + d))

/-- The state in which a command `m` that fills a pair of registers has been sent. -/
def sentPair (s : State) (c x d : Nat) (m : FinCmd) : State :=
  awaiting ((if d = 0 then s else (s.emptyS c x d).emptyS c x (d + 1)).sendFin m) c x (BitVec.ofNat 8 (64 + d))

theorem settle_sendOne (v : State) (d : Nat) (op : FinOp) (h : W) (die : Nat) :
    settle v c x (pure (sendOne s c x d op h die)) = sentOne s c x d op h die := settle_later ..

theorem settle_sendPair (v : State) (d : Nat) (op : FinOp) (h : W) (die : Nat) :
    settle v c x (pure (sendPair s c x d op h die)) =
      sentPair s c x d (finCommand s c x op h die (if d = 0 then none else some d)) := settle_later ..

/-! ### The checks of a pass (R347) -/

/-- A record of a pass that covers fewer than 256 elements. -/
def passShort (r : BitVec 128) : Bool := recSwz r != 2 && decide (recExtent r < 256)

/-- One of which an element lies beyond its address space. -/
def passBeyond (s : State) (c x : Nat) (r : BitVec 128) : Bool := (List.range 256).any fun i =>
  match laneAddress r c (s.pinOf c x).1 (s.pinOf c x).2 i 4 with
  | .at _ o => o
  | .oob => false

/-- What a pass refuses of its two records, in order. -/
def passFaults (s : State) (c x : Nat) (conf tok : BitVec 128) : List (Bool × Byte) :=
  [(recBad conf || recBad tok, eRec), (recKind conf == 0 || recKind tok == 0, ePerm),
    ((recFmt conf).toNat % 16 != 1 || recEsize conf != 4 || recEsize tok != 4, eFmt),
    ((recStrict conf && passShort conf) || (recStrict tok && passShort tok), eBnd),
    (passBeyond s c x conf || passBeyond s c x tok, ePerm)]

theorem passChecks_bind (conf tok : BitVec 128) (k : Bool → Except Stop Done) :
    (passChecks s c x conf tok >>= k) = passing (passFaults s c x conf tok) (k (passShort conf || passShort tok)) := by
  have hbeyond (r : BitVec 128) : ((List.range 256).all fun i =>
      match laneAddress r c (s.pinOf c x).1 (s.pinOf c x).2 i 4 with
      | .at _ o => !o
      | .oob => true) = !passBeyond s c x r := by
    rw [passBeyond, List.not_any_eq_all_not]
    refine congrArg _ (funext fun i => ?_)
    cases laneAddress r c (s.pinOf c x).1 (s.pinOf c x).2 i 4 <;> rfl
  have hneed {b b' : Bool} {e : Stop} {f f' : Unit → Except Stop Done} (hb : b = b') (hf : f () = f' ()) :
      (need b e >>= f) = (need b' e >>= f') := by
    subst hb
    cases b
    · rfl
    · exact hf
  simp only [passFaults, passing, passChecks, bind_assoc, List.all_cons, List.all_nil, List.any_cons, List.any_nil, Bool.and_true,
    Bool.or_false, Bool.not_or, bne, Bool.not_not, pure_bind]
  exact hneed rfl (hneed rfl (hneed (Bool.and_assoc ..).symm (hneed rfl
    (hneed (congrArg₂ (· && ·) (hbeyond conf) (hbeyond tok)) rfl))))

/-- A pass of the gang is on its way (R347). -/
def State.passing (s : State) (c x : Nat) : Bool := s.fins.any fun p => p.2.core == c && p.2.ctx == x && match p.2.op with
  | .pass _ _ => true
  | _ => false

/-- A pass whose operands are accepted: it waits for its paths and for another pass of the gang, and is sent. -/
def passSends (s : State) (c x d : Nat) (conf tok : BitVec 128) (h : W) (oob : Bool) : Except Stop Done :=
  slotFence s c x >>= fun _ => need (!s.passing c x) (.park .engine 6) >>= fun _ =>
    pure (sendPair (if oob then s.modGang c x fun g => g.raise fOob else s) c x d (.pass conf tok) h (handleDie h))

theorem settle_passSends (hs : (s.gang? c x).isSome) (d : Nat) (conf tok : BitVec 128) (h : W) (oob : Bool) :
    settle s c x (passSends s c x d conf tok h oob) =
      if !s.fenceDone c x 13 3 then s.park c x .fence 0
      else if s.passing c x then s.park c x .engine 6
      else sentPair (if oob then s.modGang c x fun g => g.raise fOob else s) c x d
        (finCommand s c x (.pass conf tok) h (handleAt h) (if d = 0 then none else some d)) := by
  rw [passSends, settle_slotFence, settle_need_park, settle_sendPair, finCommand_raise_if hs]
  cases s.fenceDone c x 13 3
  · rfl
  · cases s.passing c x <;> rfl

/-! ### A command whose verdict the group awaits (R343, R352) -/

/-- The command of the issuing group of which a verdict is due. -/
def State.verdictOf (s : State) (c x : Nat) : Option (Nat × FinCmd) :=
  s.fins.find? fun p => p.2.core == c && p.2.ctx == x && p.2.pc == (s.gang c x).pc && p.2.op.parks

section
variable (hx : x ≠ 64) (v : State) {op : FinOp} {h : W} {first : Except Stop Unit}
include hx

theorem settle_slotVerdict_of_none (hf : s.verdictOf c x = none) :
    settle v c x (slotVerdict s c x op h first) =
      if handleGood h then settle v c x (first >>= fun _ =>
        pure { s := s.sendFin (finCommand s c x op h (handleAt h) none), parks := some (.verdict, 0) })
      else v.takeFault c x ePerm 0 0 0 0 := by
  rw [slotVerdict, notPlaza_ok hx, settle_pass, show s.fins.find? _ = none from hf]
  exact settle_need ..

theorem settle_slotVerdict_of_some {n : Nat} {m : FinCmd} (hf : s.verdictOf c x = some (n, m)) :
    settle v c x (slotVerdict s c x op h first) = if m.place = 4 then match m.w0.toNat with
        | 0 => plainDone { s with fins := sdel s.fins n } c x false
        | 1 => v.takeFault c x eSlot 0 0 0 0
        | _ => v.takeFault c x ePoison 3 0 0 0
      else v.park c x .verdict 0 := by
  rw [slotVerdict, notPlaza_ok hx, settle_pass, show s.fins.find? _ = some (n, m) from hf]
  refine (settle_need_park ..).trans (ite_congr (propext beq_iff_eq) (fun _ => ?_) fun _ => rfl)
  match m.w0.toNat with
  | 0 => exact settle_done_any ..
  | 1 => rfl
  | _ + 2 => rfl

end

end Sys2Proof.Machine
end

section
/-! PROOFS. The slot instructions (R334, R343 to R351). -/

namespace Sys2Proof.Safety

open Sys2Proof.Machine

theorem exec_slotOpen (f : EX) (s : State) : exec (.slotOpen f) s = execSlotOpen f s := rfl
theorem exec_slotKerb (f : EX) (s : State) : exec (.slotKerb f) s = execSlotKerb f s := rfl
theorem exec_slotSt (f : EX) (s : State) : exec (.slotSt f) s = execSlotSt f s := rfl
theorem exec_slotPass (f : EX) (s : State) : exec (.slotPass f) s = execSlotPass f s := rfl
theorem exec_slotRule (f : EX) (s : State) : exec (.slotRule f) s = execSlotRule f s := rfl
theorem exec_slotReopen (f : EX) (s : State) : exec (.slotReopen f) s = execSlotReopen f s := rfl
theorem exec_slotClose (f : EX) (s : State) : exec (.slotClose f) s = execSlotClose f s := rfl

variable {s : State} {c x : Nat} {f : EX}

/-! ### Commands that fill registers (R334, R344, R347 to R349) -/

theorem slotOpen_of_ready {a : W} (hx : x ≠ 64) (h : Ready s c x (exForm .dest .read .zero f) [.s a]) :
    let s' := noteFallback s c x (exFallback .dest .read .zero f)
    exec (.slotOpen f) s = .next (
      if a.toNat % 32 ≠ 0 then s'.takeFault c x eAlign 0 0 0 0
      else if !sramExists a.toNat then s'.takeFault c x ePerm 0 0 0 0
      else if !s'.fenceDone c x 13 3 then s'.park c x .fence 0
      else sentOne s' c x f.d.toNat (.open a.toNat) 0 (c / 64)) := by
  intro s'
  rw [exec_slotOpen, execSlotOpen, issue_of_ready h, settle_notPlaza, if_neg hx, settle_need, settle_need, settle_slotFence,
    settle_sendOne]
  simp only [ne_eq, ite_not, Bool.not_eq_true', ← Bool.not_eq_true, beq_iff_eq]
  rfl

theorem slotKerb_of_ready {a : W} (hx : x ≠ 64) (h : Ready s c x (exForm .dest .read .zero f) [.s a]) :
    let s' := noteFallback s c x (exFallback .dest .read .zero f)
    exec (.slotKerb f) s = .next (
      if handleGood a then sentOne s' c x f.d.toNat .kerb a (handleAt a) else s'.takeFault c x ePerm 0 0 0 0) := by
  intro s'
  rw [exec_slotKerb, execSlotKerb, issue_of_ready h, settle_notPlaza, if_neg hx, settle_need, settle_sendOne]
  rfl

theorem slotSt_of_ready {a b : W} (hx : x ≠ 64) (h : Ready s c x (pairForm f) [.s a, .s b]) :
    let s' := noteFallback s c x (exFallback .dest .read .read f)
    exec (.slotSt f) s = .next (
      if handleGood a then sentPair s' c x f.d.toNat
        (finCommand s' c x (.slotRead b) a (handleAt a) (if f.d.toNat = 0 then none else some f.d.toNat))
      else s'.takeFault c x ePerm 0 0 0 0) := by
  intro s'
  rw [exec_slotSt, execSlotSt, issue_of_ready h, settle_notPlaza, if_neg hx, settle_need, settle_sendPair]
  rfl

theorem slotPass_of_ready {a b : W} (hx : x ≠ 64) (h : Ready s c x (pairForm f) [.s a, .s b]) :
    let s' := noteFallback s c x (exFallback .dest .read .read f)
    let d := f.d.toNat
    let conf := vget (s.gang c x).recs (b.toNat % 16) 0
    let tok := vget (s.gang c x).recs (b.toNat / 16 % 16) 0
    exec (.slotPass f) s = .next ((firstFault ((!handleGood a, ePerm) :: passFaults s c x conf tok)).elim (
      if !s'.fenceDone c x 13 3 then s'.park c x .fence 0
      else if s'.passing c x then s'.park c x .engine 6
      else sentPair (if passShort conf || passShort tok then s'.modGang c x fun g => g.raise fOob else s') c x d
        (finCommand s' c x (.pass conf tok) a (handleAt a) (if d = 0 then none else some d)))
      fun e => s'.takeFault c x e 0 0 0 0) := by
  have hs := State.issuer_gang h.issues
  intro s' d conf tok
  have hpin : passFaults s' c x conf tok = passFaults s c x conf tok := by
    simp only [passFaults, passBeyond, s', pinOf_noteFallback]
  have hbody : (need (handleOk a) (.code ePerm) >>= fun _ => passChecks s' c x conf tok >>= fun oob =>
      passSends s' c x d conf tok a oob) = passing ((!handleGood a, ePerm) :: passFaults s c x conf tok)
        (passSends s' c x d conf tok a (passShort conf || passShort tok)) := by
    rw [Machine.passing, Bool.not_not, ← hpin]
    exact congrArg (need (handleGood a) (.code ePerm) >>= ·) (funext fun _ => passChecks_bind ..)
  rw [exec_slotPass, execSlotPass, issue_of_ready h, settle_notPlaza, if_neg hx]
  simp only [recs_noteFallback hs]
  exact congrArg _ ((congrArg (settle s' c x) hbody).trans ((settle_passing ..).trans
    (congrArg (fun t => (firstFault _).elim t fun e => s'.takeFault c x e 0 0 0 0)
      (settle_passSends (gang?_noteFallback_isSome hs _) ..))))

theorem slotReads : SlotReads := by
  intro s c x hx
  refine ⟨fun f a h => ⟨slotOpen_of_ready hx h, slotKerb_of_ready hx h⟩, fun f a b h => ?pair⟩
  intro s' d two conf tok short beyond bad
  have hpass := slotPass_of_ready hx h
  have hbad : firstFault ((!handleGood a, ePerm) :: passFaults s c x conf tok) = bad := rfl
  refine ⟨slotSt_of_ready hx h, fun e he => hpass.trans (congrArg _ ?refused), fun hok => hpass.trans (congrArg _ ?sends)⟩
  case refused => rw [hbad, he, Option.elim_some]
  case sends =>
    rw [hbad, hok, Option.elim_none]
    rfl

/-! ### Commands with a verdict (R343, R345, R346, R350, R351) -/

/-- The three instructions issue their command with its own checks first: `slot.rule` those of its record. -/
theorem slotVerdict_issue {i : Instr} {fm : Form} {vs : List Val} {op : FinOp}
    (hi : (∃ f a b, i = .slotRule f ∧ fm = exForm .zero .read .read f ∧ vs = [.s a, .s b] ∧ op = .rule b.toNat) ∨
      (∃ f a b, i = .slotReopen f ∧ fm = exForm .zero .read .read f ∧ vs = [.s a, .s b] ∧ op = .reopen b) ∨
      (∃ f a, i = .slotClose f ∧ fm = exForm .zero .read .zero f ∧ vs = [.s a] ∧ op = .close))
    (h : Ready s c x fm vs) :
    let s' := noteFallback s c x fm.fb
    exec i s = .next (settle s' c x (slotVerdict s' c x op (uVal vs 0) (match op with
      | .rule a => need (a % 16 == 0) (.code eAlign) >>= fun _ => slotFence s' c x
      | _ => pure ()))) := by
  intro s'
  obtain ⟨f, a, b, rfl, rfl, rfl, rfl⟩ | ⟨f, a, b, rfl, rfl, rfl, rfl⟩ | ⟨f, a, rfl, rfl, rfl, rfl⟩ := hi
  · exact (exec_slotRule ..).trans (issue_of_ready h _)
  · exact (exec_slotReopen ..).trans (issue_of_ready h _)
  · exact (exec_slotClose ..).trans (issue_of_ready h _)

theorem slotVerdicts : SlotVerdicts := by
  intro s c x i fm vs op hx h hi s' h' found sent
  have hexec := slotVerdict_issue hi h
  refine ⟨fun hf hbad => hexec.trans (congrArg _ ?badHandle), fun hf hok => ⟨fun a hop => hexec.trans (congrArg _ ?rule),
    fun hop => hexec.trans (congrArg _ ?other)⟩, fun n m hf => ⟨fun hm => hexec.trans (congrArg _ ?waits),
      fun hm => hexec.trans (congrArg _ ?answered)⟩⟩
  case badHandle =>
    rw [settle_slotVerdict_of_none hx _ hf]
    exact if_neg (Bool.eq_false_iff.mp hbad)
  case rule =>
    rw [settle_slotVerdict_of_none hx _ hf]
    refine (if_pos hok).trans ?_
    subst hop
    rw [bind_assoc, settle_need, settle_slotFence]
    refine (ite_congr (propext beq_iff_eq) (fun _ => rfl) fun _ => rfl).trans ?_
    exact (ite_not ..).symm
  case other =>
    rw [settle_slotVerdict_of_none hx _ hf]
    refine (if_pos hok).trans ?_
    cases op with
    | rule a => exact absurd rfl (hop a)
    | _ => rfl
  case waits =>
    rw [settle_slotVerdict_of_some hx _ hf]
    exact if_neg hm
  case answered =>
    rw [settle_slotVerdict_of_some hx _ hf]
    exact if_pos hm

/-- Settles O38: the commands that fill registers by their checks (`passChecks_bind`), those with a verdict by the command of
the group that is on its way (`State.verdictOf`). -/
theorem slotInstructions : Obligations.SlotInstructions := ⟨slotReads, slotVerdicts⟩

end Sys2Proof.Safety
end

section
/-! SUPPORT. How a finaliser takes the command at the head of its queue, and what a block and a die hold after a change (R333 to R342,
R349, R351). -/

namespace Sys2Proof.Machine

open Sys2Proof.Safety

variable {s : State}

/-! ### Dies and blocks -/

@[simp] theorem State.die_setDie_self (s : State) (d : Nat) (x : Die) : (s.setDie d x).die d = x := sgetD_sput_self ..

@[simp] theorem State.die_modDie_self (s : State) (d : Nat) (f : Die → Die) : (s.modDie d f).die d = f (s.die d) :=
  State.die_setDie_self ..

@[simp] theorem State.block_setBlock_self (s : State) (d i : Nat) (b : Block) : (s.setBlock d i b).block d i = b := by
  rw [State.block, State.setBlock, State.die_modDie_self]
  exact sgetD_sput_self ..

/-- A change of a die that keeps its blocks. -/
theorem State.block_modDie_of_blocks (s : State) (d i : Nat) {f : Die → Die} (h : ∀ x, (f x).blocks = x.blocks) :
    (s.modDie d f).block d i = s.block d i := by
  rw [State.block, State.die_modDie_self, h]
  rfl

@[simp] theorem State.finQ_setBlock (s : State) (d i : Nat) (b : Block) : ((s.setBlock d i b).die d).finQ = (s.die d).finQ := by
  rw [State.setBlock, State.die_modDie_self]

/-! ### The head of the queue -/

/-- A finaliser takes the command at its head where that is the one that it acts on. -/
theorem takeFin_of_head {die n : Nat} {m : FinCmd} (h : s.finHead die = some (n, m)) {p : FinOp → Bool} (hp : p m.op = true)
    (f : Nat → FinCmd → State) : takeFin s die p f = .next (f n m) := by
  rw [takeFin, h]
  exact congrArg _ (if_pos hp)

/-- FPASS and the state of a slot in the second word of a read (R349). -/
theorem slotWord_eq (f : BitVec 16) (q : BitVec 2) : (f.setWidth 32 <<< 16 ||| q.setWidth 32 : W) = f ++ q.setWidth 16 := by
  apply BitVec.eq_of_getLsbD_eq
  intro i hi
  simp only [BitVec.getLsbD_append, BitVec.getLsbD_or, BitVec.getLsbD_shiftLeft, BitVec.getLsbD_setWidth]
  by_cases hlow : i < 16
  · simp [hlow, hi]
  · have hst : q.getLsbD i = false := BitVec.getLsbD_of_ge _ _ (by omega)
    have hin : i - 16 < 32 := by omega
    simp [hlow, hi, hst, hin]

/-! ### Retries (R340; log 69) -/

/-- The periodic retry of a block is due. -/
def periodicDue (b : Block) (now : Nat) : Bool := match b.halted with
  | some t => decide (t ≤ now)
  | none => false

theorem periodicDue_eq_any (b : Block) (now : Nat) : periodicDue b now = b.halted.any fun t => decide (t ≤ now) := by
  unfold periodicDue
  cases b.halted <;> rfl

/-- The retries of a block that are due, the periodic one among them. -/
def State.retriesDue (s : State) (die blk : Nat) : Nat :=
  ((s.block die blk).retries.filter fun t => decide (t ≤ s.clock)).length + (periodicDue (s.block die blk) s.clock).toNat

theorem State.retriesDue_eq_zero_iff (s : State) (die blk : Nat) : s.retriesDue die blk = 0 ↔
    (((s.block die blk).retries.filter fun t => decide (t ≤ s.clock)).isEmpty && !periodicDue (s.block die blk) s.clock) = true := by
  rw [State.retriesDue, Nat.add_eq_zero_iff, List.length_eq_zero_iff, Bool.and_eq_true, List.isEmpty_iff]
  cases periodicDue (s.block die blk) s.clock <;> simp

theorem retryArrives_of_none {die blk : Nat} (h : s.retriesDue die blk = 0) : retryArrives die blk s = s :=
  if_pos ((s.retriesDue_eq_zero_iff die blk).mp h)

/-- As many of the retries that are due as the queue has room for enter it, and the others come again 64 cycles later. -/
theorem retryArrives_of_due {die blk : Nat} (h : s.retriesDue die blk ≠ 0) :
    let b := s.block die blk
    let k := min (s.retriesDue die blk) (s.die die).finFree
    retryArrives die blk s = (s.setBlock die blk { b with
        retries := b.retries.filter (fun t => decide (s.clock < t)) ++ List.replicate (s.retriesDue die blk - k) (s.clock + 64)
        halted := if periodicDue b s.clock then some (s.clock + 256) else b.halted }).modDie die fun d =>
      { d with finQ := d.finQ ++ List.replicate k (.retry blk) } :=
  if_neg (mt (s.retriesDue_eq_zero_iff die blk).mpr h)

theorem finQ_retryArrives (die blk : Nat) (s : State) : ((retryArrives die blk s).die die).finQ = (s.die die).finQ ++
    List.replicate (min (s.retriesDue die blk) (s.die die).finFree) (.retry blk) := by
  by_cases h : s.retriesDue die blk = 0
  · rw [retryArrives_of_none h, h, Nat.zero_min, List.replicate_zero, List.append_nil]
  · rw [retryArrives_of_due h, State.die_modDie_self, State.finQ_setBlock]

/-- What is not due stays where it is. -/
theorem retries_retryArrives (die blk : Nat) (s : State) : ((retryArrives die blk s).block die blk).retries =
    ((s.block die blk).retries.filter fun t => decide (s.clock < t)) ++
      List.replicate (s.retriesDue die blk - min (s.retriesDue die blk) (s.die die).finFree) (s.clock + 64) := by
  by_cases h : s.retriesDue die blk = 0
  · have hnone := List.length_eq_zero_iff.mp (Nat.add_eq_zero_iff.mp h).1
    rw [retryArrives_of_none h, h, Nat.zero_sub, List.replicate_zero, List.append_nil, List.filter_eq_self.mpr]
    intro t ht
    have hlate := List.filter_eq_nil_iff.mp hnone t ht
    simpa using hlate
  · rw [retryArrives_of_due h, State.block_modDie_of_blocks, State.block_setBlock_self]
    exact fun _ => rfl

/-! ### Closing (R333, R351) -/

theorem block_closeBlock (s : State) (die idx : Nat) (b : Block) :
    (s.closeBlock die idx b).block die idx = { gen := if b.gen = 0xffff then 1 else b.gen + 1 } := by
  rw [State.closeBlock, State.block_modDie_of_blocks, State.block_setBlock_self]
  · rfl
  · exact fun _ => rfl

theorem finQ_closeBlock (s : State) (die idx : Nat) (b : Block) :
    ((s.closeBlock die idx b).die die).finQ = (s.die die).finQ.filter fun i => i != .retry idx := by
  rw [State.closeBlock, State.die_modDie_self, State.finQ_setBlock]

end Sys2Proof.Machine
end

section
/-! PROOFS. The finaliser: its queue, its commands and its retries (R333 to R342, R344 to R352, R370). -/

namespace Sys2Proof.Safety

open Sys2Proof.Machine

theorem exec_finaliserCommandArrival (n : Nat) (s : State) :
    exec (.finaliserCommandArrival n) s = execFinaliserCommandArrival n s := rfl
theorem exec_finaliserCommandRetry (n : Nat) (s : State) : exec (.finaliserCommandRetry n) s = execFinaliserCommandRetry n s := rfl
theorem exec_slotReplyArrival (n : Nat) (s : State) : exec (.slotReplyArrival n) s = execSlotReplyArrival n s := rfl
theorem exec_finaliserOpen (d : Nat) (s : State) : exec (.finaliserOpen d) s = execFinaliserOpen d s := rfl
theorem exec_finaliserRule (d : Nat) (s : State) : exec (.finaliserRule d) s = execFinaliserRule d s := rfl
theorem exec_finaliserClose (d : Nat) (s : State) : exec (.finaliserClose d) s = execFinaliserClose d s := rfl
theorem exec_finaliserReopen (d : Nat) (s : State) : exec (.finaliserReopen d) s = execFinaliserReopen d s := rfl
theorem exec_finaliserSlotRead (d : Nat) (s : State) : exec (.finaliserSlotRead d) s = execFinaliserSlotRead d s := rfl
theorem exec_finaliserKerbRead (d : Nat) (s : State) : exec (.finaliserKerbRead d) s = execFinaliserKerbRead d s := rfl
theorem exec_finaliserKvSlotRead (d : Nat) (s : State) : exec (.finaliserKvSlotRead d) s = execFinaliserKvSlotRead d s := rfl
theorem exec_finaliserPass (d : Nat) (s : State) : exec (.finaliserPass d) s = execFinaliserPass d s := rfl
theorem exec_kerbRetry (d b : Nat) (s : State) : exec (.kerbRetry d b) s = execKerbRetry d b s := rfl

/-! ### The queue (R333, R342, R352) -/

section
variable {s : State} {n : Nat} {m : FinCmd} (hm : sget s.fins n = some m)
include hm

theorem finaliserCommandArrival_of_sent (hp : m.place = 0) :
    exec (.finaliserCommandArrival n) s = .next (if (s.die m.die).finRoom m.core = 0 then
        { s.setDie m.die (if m.core ∈ (s.die m.die).finTurned ∨ 64 ≤ (s.die m.die).finTurned.length then s.die m.die
            else { s.die m.die with finTurned := (s.die m.die).finTurned ++ [m.core] }) with
          fins := sput s.fins n { m with place := 2, tried := s.clock } }
      else { s.setDie m.die { (s.die m.die).finLeave m.core with finQ := ((s.die m.die).finLeave m.core).finQ ++ [.cmd n] } with
        fins := sput s.fins n { m with place := 1 } }) := by
  rw [exec_finaliserCommandArrival, execFinaliserCommandArrival, hm]
  simp only [hp, bne_self_eq_false, Bool.false_eq_true, if_false, Bool.or_eq_true, List.contains_iff_mem, decide_eq_true_eq]
  split <;> rfl

theorem finaliserCommandArrival_of_here (hp : m.place ≠ 0) : exec (.finaliserCommandArrival n) s = .next s := by
  rw [exec_finaliserCommandArrival, execFinaliserCommandArrival, hm]
  exact if_pos (bne_iff_ne.mpr hp)

theorem slotReplyArrival_of_other (hp : m.place ≠ 3) : exec (.slotReplyArrival n) s = .next s := by
  rw [exec_slotReplyArrival, execSlotReplyArrival, hm]
  exact if_pos (bne_iff_ne.mpr hp)

end

/-- The answer fills a pair of registers. -/
def fillsPair : FinOp → Bool
  | .pass _ _ | .slotRead _ => true
  | _ => false

/-- An answer that fills registers, or poisons them (R334, R344, R347 to R349). -/
theorem slotReplyArrival_of_fill {s : State} {n d : Nat} {m : FinCmd} (hm : sget s.fins n = some m) (hp : m.place = 3)
    (hpark : m.op.parks = false) (hd : m.dst = some d) :
    let t := { s with fins := sdel s.fins n }
    exec (.slotReplyArrival n) s = .next (State.reap (if m.poison then
        if fillsPair m.op then (t.poisonS m.core m.ctx d 3).poisonS m.core m.ctx (d + 1) 3 else t.poisonS m.core m.ctx d 3
      else
        if fillsPair m.op then (t.fillS m.core m.ctx d m.w0).fillS m.core m.ctx (d + 1) m.w1
        else t.fillS m.core m.ctx d m.w0) m.core m.ctx) := by
  intro t
  rw [exec_slotReplyArrival, execSlotReplyArrival, hm]
  simp only [hp, bne_self_eq_false, Bool.false_eq_true, if_false, hpark, hd]
  rfl

/-- The verdict that a saved gang awaits stands in its save area (R352; log 40). -/
theorem slotReplyArrival_of_saved {s : State} {n k w : Nat} {m : FinCmd} (hm : sget s.fins n = some m) (hp : m.place = 3)
    (hpark : m.op.parks = true) (hsaved : s.savedAt m.core m.ctx = some (k, w)) :
    exec (.slotReplyArrival n) s = .next (s.recordVerdict k n m) := by
  rw [exec_slotReplyArrival, execSlotReplyArrival, hm]
  simp only [hp, bne_self_eq_false, Bool.false_eq_true, if_false, hpark, if_true, hsaved]

/-- That of a gang which is there waits for its group. -/
theorem slotReplyArrival_of_here {s : State} {n : Nat} {m : FinCmd} {g : Gang} (hm : sget s.fins n = some m) (hp : m.place = 3)
    (hpark : m.op.parks = true) (hsaved : s.savedAt m.core m.ctx = none) (hg : s.gang? m.core m.ctx = some g)
    (hlive : g.ended = false) :
    exec (.slotReplyArrival n) s =
      .next ({ s with fins := sput s.fins n { m with place := 4 } }.reap m.core m.ctx) := by
  rw [exec_slotReplyArrival, execSlotReplyArrival, hm]
  simp only [hp, bne_self_eq_false, Bool.false_eq_true, if_false, hpark, if_true, hsaved, hg, Option.map_some, Option.getD_some,
    hlive, Bool.not_false]
  rfl

theorem State.recordVerdict_eq (s : State) (k n : Nat) (m : FinCmd) : s.recordVerdict k n m =
    { (match s.verdictEntry k m.pc with
        | some i => s.putArea (k + 0x42 + 8 * i) [BitVec.ofNat 8 (16 + m.w0.toNat)]
        | none => s) with fins := sdel s.fins n } := by
  unfold State.recordVerdict
  cases s.verdictEntry k m.pc <;> rfl

theorem finaliserQueue : FinaliserQueue := by
  intro n s m hm d
  refine ⟨fun hp => ?arrives, finaliserCommandArrival_of_here hm, ?retry, slotReplyArrival_of_other hm, fun hp => ?reply⟩
  case arrives =>
    have harr := finaliserCommandArrival_of_sent hm hp
    exact ⟨fun hfull => harr.trans (congrArg _ (if_pos hfull)), fun hroom => harr.trans (congrArg _ (if_neg hroom))⟩
  case retry =>
    rw [exec_finaliserCommandRetry, execFinaliserCommandRetry, hm]
    simp only [Bool.and_eq_true, decide_eq_true_eq]
  case reply =>
    intro t
    refine ⟨fun d hop hd => ?one, fun d hop hd => ?pair, fun hpark => ⟨fun k w hsaved => ?saved, fun g hsaved hg hlive =>
      slotReplyArrival_of_here hm hp hpark hsaved hg hlive⟩⟩
    case one =>
      have hcls : m.op.parks = false ∧ fillsPair m.op = false := by
        obtain ⟨i, hi⟩ | hi := hop <;> rw [hi] <;> exact ⟨rfl, rfl⟩
      rw [slotReplyArrival_of_fill hm hp hcls.1 hd, hcls.2]
      rfl
    case pair =>
      have hcls : m.op.parks = false ∧ fillsPair m.op = true := by
        obtain ⟨a, b, hi⟩ | ⟨i, hi⟩ := hop <;> rw [hi] <;> exact ⟨rfl, rfl⟩
      rw [slotReplyArrival_of_fill hm hp hcls.1 hd, hcls.2]
      rfl
    case saved =>
      exact (slotReplyArrival_of_saved hm hp hpark hsaved).trans (congrArg _ (State.recordVerdict_eq ..))

/-! ### The commands (R333 to R342, R344 to R351, R370) -/

theorem finaliserActs : FinaliserActs := by
  intro die n s m hhead idx verdict put
  refine ⟨fun a hop => ?opens, fun a hop => ?rule, fun hop => ?close, fun i hop => ?reopen, fun i hop => ?read, fun hop => ?kerb,
    fun i hop => ?kvRead, fun a b hop hcur => ?gone, fun a b blk hop hcur => ?pass, fun blk => ?retries⟩
  case opens =>
    rw [exec_finaliserOpen, execFinaliserOpen, takeFin_of_head hhead (by rw [hop])]
    simp only [hop, Bool.not_eq_true']
  case rule =>
    rw [exec_finaliserRule, execFinaliserRule, takeFin_of_head hhead (by rw [hop])]
    simp only [hop, Bool.or_eq_true, decide_eq_true_eq]
    rfl
  case close =>
    rw [exec_finaliserClose, execFinaliserClose, takeFin_of_head hhead (by rw [hop]; rfl)]
    rfl
  case reopen =>
    rw [exec_finaliserReopen, execFinaliserReopen, takeFin_of_head hhead (by rw [hop])]
    simp only [hop]
    rfl
  case read =>
    rw [exec_finaliserSlotRead, execFinaliserSlotRead, takeFin_of_head hhead (by rw [hop])]
    simp only [hop, slotWord_eq]
  case kerb =>
    rw [exec_finaliserKerbRead, execFinaliserKerbRead, takeFin_of_head hhead (by rw [hop]; rfl)]
    rfl
  case kvRead =>
    rw [exec_finaliserKvSlotRead, execFinaliserKvSlotRead, takeFin_of_head hhead (by rw [hop])]
    simp only [hop]
  case gone =>
    rw [exec_finaliserPass, execFinaliserPass, takeFin_of_head hhead (by rw [hop])]
    simp only [hcur]
  case pass =>
    intro reads
    rw [exec_finaliserPass, execFinaliserPass, takeFin_of_head hhead (by rw [hop])]
    simp only [hop, hcur]
    refine ⟨fun href => congrArg _ (if_pos href),
      fun href hbad => congrArg _ ((if_neg (Bool.eq_false_iff.mp href)).trans (if_pos hbad)),
      fun href hbad => congrArg _ ((if_neg (Bool.eq_false_iff.mp href)).trans ((if_neg (Bool.eq_false_iff.mp hbad)).trans ?_))⟩
    rfl
  case retries =>
    have hdue : s.retriesDue die blk = ((s.block die blk).retries.filter fun t => decide (t ≤ s.clock)).length +
        (if (s.block die blk).halted.any (fun t => decide (t ≤ s.clock)) then 1 else 0) := by
      rw [State.retriesDue, periodicDue_eq_any]
      cases (s.block die blk).halted.any fun t => decide (t ≤ s.clock) <;> rfl
    refine ⟨?arrive, fun hclosed => ?closed, fun hopen => ?forced⟩
    case arrive =>
      intro due fit
      have hfit : min (s.retriesDue die blk) (s.die die).finFree = fit := congrArg (min · _) hdue
      have hrest : s.retriesDue die blk - min (s.retriesDue die blk) (s.die die).finFree = due - fit := by rw [hfit, hdue]
      exact ⟨(finQ_retryArrives ..).trans (by rw [hfit]), (retries_retryArrives ..).trans (by rw [hrest])⟩
    case closed => exact if_neg (Bool.eq_false_iff.mp hclosed)
    case forced =>
      have hforced : closeForced die blk s = s.closeBlock die blk (s.block die blk) := if_pos hopen
      rw [hforced]
      exact ⟨block_closeBlock .., finQ_closeBlock ..⟩

/-! ### Retries (R340) -/

theorem kerbRetries : KerbRetries := by
  intro die blk s
  refine ⟨fun hhead => ?waits, fun r hhead => ?tries⟩
  case waits =>
    rw [exec_kerbRetry, execKerbRetry]
    exact if_pos (bne_iff_ne.mpr hhead)
  case tries =>
    have hdrop : (s.modDie die fun d => { d with finQ := d.finQ.drop 1 }) = s.modDie die fun d => { d with finQ := r } :=
      congrArg (fun l => s.setDie die { s.die die with finQ := l }) (congrArg (List.drop 1) hhead)
    rw [exec_kerbRetry, execKerbRetry, if_neg (by simp [hhead]), hdrop]
    simp only [Bool.and_eq_true]

/-- Settles O39: the queue of a finaliser by the place of a command, its acts by the command at its head (`takeFin_of_head`), and
the retries of a block by how many are due (`State.retriesDue`). -/
theorem finaliser : Obligations.Finaliser := ⟨finaliserQueue, finaliserActs, kerbRetries⟩

end Sys2Proof.Safety
end

section
/-! SUPPORT. What the checks, fences and commands of the KV instructions settle to (R368 to R374). -/

namespace Sys2Proof.Machine

open Sys2Proof.Safety

variable {s : State} {c x : Nat}

/-! ### Checks and fences (R368 to R370, R372) -/

/-- The address operand of a KV command is two checks in front of what follows. -/
theorem kvAddr_passing (a : W) (l : List (Bool × Byte)) (r : Except Stop Done) :
    (kvAddr a >>= fun _ => passing l r) =
      passing ((a.toNat % 16 != 0, eAlign) :: (!sramExists a.toNat, ePerm) :: l) r := by
  simp only [passing, kvAddr, bind_assoc, bne, Bool.not_not]

/-- A check of a condition that must hold. -/
theorem need_passing (b : Bool) (e : Byte) (l : List (Bool × Byte)) (r : Except Stop Done) :
    (need b (.code e) >>= fun _ => passing l r) = passing ((!b, e) :: l) r := by
  rw [passing, Bool.not_not]

/-- The checks of the address and the block of `kv.st`, `kv.ld` and `kv.vqsc`. -/
def kvFaults (s : State) (a b : W) : List (Bool × Byte) :=
  [(b.toNat % 16 != 0, eAlign), (!sramExists b.toNat, ePerm), (!s.refOk a, eKv)]

theorem kvAddr_refOk_bind (s : State) (a b : W) (r : Except Stop Done) :
    (kvAddr b >>= fun _ => need (s.refOk a) (.code eKv) >>= fun _ => r) = passing (kvFaults s a b) r := by
  rw [kvFaults, ← kvAddr_passing, ← need_passing]
  rfl

theorem kvAddr_kvAddr_bind (a b : W) (r : Except Stop Done) :
    (kvAddr a >>= fun _ => kvAddr b >>= fun _ => r) = passing [(a.toNat % 16 != 0, eAlign), (!sramExists a.toNat, ePerm),
      (b.toNat % 16 != 0, eAlign), (!sramExists b.toNat, ePerm)] r := by
  rw [← kvAddr_passing, ← kvAddr_passing]
  rfl

/-- The checks of `kv.map` (R368, R369). -/
def kvMapFaults (p : Pool) (a t : W) : List (Bool × Byte) :=
  [(a.toNat % 16 != 0, eAlign), (!sramExists a.toNat, ePerm), (decide (24 ≤ t.toNat % 32), ePerm), (p.nhome == 0, eKv)]

theorem kvMapFaults_bind (p : Pool) (a t : W) (r : Except Stop Done) :
    (kvAddr a >>= fun _ => need (decide (t.toNat % 32 < 24)) (.code ePerm) >>= fun _ => need (p.nhome != 0) (.code eKv) >>= fun _ =>
      r) = passing (kvMapFaults p a t) r := by
  have hdie : decide (24 ≤ t.toNat % 32) = !decide (t.toNat % 32 < 24) := by rw [← decide_not, decide_eq_decide, Nat.not_lt]
  have hhome : (p.nhome == 0) = !(p.nhome != 0) := (Bool.not_not _).symm
  rw [kvMapFaults, hdie, hhome, ← kvAddr_passing, ← need_passing, ← need_passing]
  rfl

/-- The fence of R370 and R372. -/
theorem settle_kvFence (v : State) (k : Unit → Except Stop Done) :
    settle v c x (kvFence s c x >>= k) = if s.fenceDone c x 5 3 then settle v c x (k ()) else v.park c x .fence 0 :=
  settle_need_park ..

/-- The fence of R369. -/
theorem settle_svcFence (v : State) (k : Unit → Except Stop Done) :
    settle v c x (svcFence s c x >>= k) = if s.fenceDone c x 9 3 then settle v c x (k ()) else v.park c x .fence 0 :=
  settle_need_park ..

/-! ### Commands (R374) -/

/-- A command enters the engine's queue where there is room. -/
theorem settle_queueKv (op : KvOp) (a b : W) (dst : Option Nat) (k : State → Except Stop Done) :
    settle s c x (queueKv s c x op a b dst >>= k) =
      kvQueued s c x (kvCommand s c x op a b dst) fun t => settle s c x (k t) := by
  rw [queueKv, bind_assoc, settle_need_park, kvQueued]
  exact ite_congr decide_eq_true_eq (fun _ => rfl) fun _ => rfl

/-- A command whose status will fill s`d` is queued. -/
def kvFills (s : State) (c x : Nat) (op : KvOp) (a b : W) (d : Nat) : State :=
  kvQueued s c x (kvCommand s c x op a b (some d)) fun t => awaiting (t.emptyS c x d) c x (BitVec.ofNat 8 (64 + d))

theorem settle_kvFills (op : KvOp) (a b : W) (d : Nat) :
    settle s c x (queueKv s c x op a b (some d) >>= fun t =>
      pure { s := t.emptyS c x d, dest := BitVec.ofNat 8 (64 + d) }) = kvFills s c x op a b d := by
  rw [settle_queueKv, kvFills]
  exact congrArg (kvQueued s c x _) (funext fun t => settle_awaiting ..)

/-- The command with a verdict that the issuing group has queued. -/
def State.kvAsked (s : State) (c x : Nat) (op : KvOp) : Option KvCmd :=
  (s.core c).kvQ.find? fun m => m.ctx == x && m.pc == (s.gang c x).pc && m.op == op

section
variable (hx : x ≠ 64) {op : KvOp} {a b : W} {checks : Except Stop Unit}
include hx

/-- The first issue checks, waits on its paths, and queues its command. -/
theorem settle_kvParked_of_none {l : List (Bool × Byte)} (hchecks : ∀ r, (checks >>= fun _ => r) = passing l r)
    (hf : s.kvAsked c x op = none) :
    settle s c x (kvParked s c x op a b checks) = (firstFault l).elim
      (fenced s c x 5 (kvQueued s c x (kvCommand s c x op a b none) fun t => t.park c x .verdict 1))
      fun e => s.takeFault c x e 0 0 0 0 := by
  rw [kvParked, notPlaza_ok hx, settle_pass, show (s.core c).kvQ.find? _ = none from hf]
  refine (congrArg _ (hchecks _)).trans ?_
  rw [settle_passing, settle_kvFence, settle_queueKv]
  rfl

/-- A later issue takes up the verdict of the command. -/
theorem settle_kvParked_of_some {m : KvCmd} (hf : s.kvAsked c x op = some m) :
    settle s c x (kvParked s c x op a b checks) = match m.ans with
      | none => s.park c x .verdict 1
      | some 1 => s.takeFault c x eKv 0 0 0 0
      | some 2 => s.takeFault c x ePerm 0 0 0 0
      | some 3 => s.takeFault c x ePoison 3 0 0 0
      | some _ => plainDone (s.dropKv c m) c x false := by
  rw [kvParked, notPlaza_ok hx, settle_pass, show (s.core c).kvQ.find? _ = some m from hf]
  match hm : m.ans with
  | none => simp only [hm]; rfl
  | some 0 => simp only [hm]; exact settle_done_any ..
  | some 1 => simp only [hm]; rfl
  | some 2 => simp only [hm]; rfl
  | some 3 => simp only [hm]; rfl
  | some (n + 4) =>
    simp only [hm, vKv, vPerm, vPoison, Nat.reduceEqDiff, if_false]
    exact settle_done_any ..

end

end Sys2Proof.Machine
end

section
/-! PROOFS. The KV instructions (R355, R361, R364, R368 to R374). -/

namespace Sys2Proof.Safety

open Sys2Proof.Machine

theorem exec_kvMap (f : EX) (s : State) : exec (.kvMap f) s = execKvMap f s := rfl
theorem exec_kvFork (f : EX) (s : State) : exec (.kvFork f) s = callBlock f 2 s := rfl
theorem exec_kvDrop (f : EX) (s : State) : exec (.kvDrop f) s = callBlock f 3 s := rfl
theorem exec_kvUnpin (f : EX) (s : State) : exec (.kvUnpin f) s = execKvUnpin f s := rfl
theorem exec_kvSt (f : EX) (s : State) : exec (.kvSt f) s = execKvSt f s := rfl
theorem exec_kvLd (f : EX) (s : State) : exec (.kvLd f) s = execKvLd f s := rfl
theorem exec_kvVqlut (f : EX) (s : State) : exec (.kvVqlut f) s = execKvVqlut f s := rfl
theorem exec_kvVqsc (f : EX) (s : State) : exec (.kvVqsc f) s = execKvVqsc f s := rfl
theorem exec_kvHad (f : EX) (s : State) : exec (.kvHad f) s = execKvHad f s := rfl

variable {s : State} {c x : Nat} {f : EX}

/-! ### Requests (R355, R361, R368, R369) -/

theorem kvMap_of_ready {a t : W} (hx : x ≠ 64) (h : Ready s c x (exForm .dest .read .read f) [.s a, .s t]) :
    let s' := noteFallback s c x (exFallback .dest .read .read f)
    let p := s'.pool (t.toNat % 32) (t.toNat / 32 % 2)
    exec (.kvMap f) s = .next ((firstFault [(a.toNat % 16 != 0, eAlign), (!sramExists a.toNat, ePerm),
        (decide (24 ≤ t.toNat % 32), ePerm), (p.nhome == 0, eKv)]).elim
      (fenced s' c x 9 (called s' c x f.d.toNat p.svc a 1 t)) fun e => s'.takeFault c x e 0 0 0 0) := by
  intro s' p
  rw [exec_kvMap, execKvMap, issue_of_ready h, settle_notPlaza, if_neg hx]
  refine congrArg _ ((congrArg (settle s' c x) (kvMapFaults_bind p a t _)).trans ((settle_passing ..).trans ?_))
  rw [settle_svcFence, settle_pure, settle_call]
  rfl

theorem callBlock_of_ready {a : W} {svc : Nat} (hx : x ≠ 64) (h : Ready s c x (exForm .dest .read .zero f) [.s a]) :
    let s' := noteFallback s c x (exFallback .dest .read .zero f)
    callBlock f svc s = .next (if s'.refOk a then fenced s' c x 9 (called s' c x f.d.toNat (s'.refPool a).svc a svc 0)
      else s'.takeFault c x eKv 0 0 0 0) := by
  intro s'
  rw [callBlock, issue_of_ready h, settle_notPlaza, if_neg hx, settle_need, settle_svcFence, settle_pure, settle_call]
  rfl

theorem kvUnpin_of_ready {a : W} (hx : x ≠ 64) (h : Ready s c x (exForm .zero .read .zero f) [.s a]) :
    let s' := noteFallback s c x (exFallback .zero .read .zero f)
    exec (.kvUnpin f) s = .next (if s'.refOk a then fenced s' c x 9
        (plainDone (requested s' c x (s'.refPool a).svc false [(0, a)] .none 4 0) c x false)
      else s'.takeFault c x eKv 0 0 0 0) := by
  intro s'
  rw [exec_kvUnpin, execKvUnpin, issue_of_ready h, settle_notPlaza, if_neg hx, settle_need, settle_svcFence, settle_pure,
    settle_done_any]
  rfl

theorem kvRequests : KvRequests := by
  intro s c x hx
  refine ⟨fun f a t h => ?map, fun p hp f a h => ?block, fun f a h => kvUnpin_of_ready hx h⟩
  case map =>
    intro s' p bad
    have hmap := kvMap_of_ready hx h
    refine ⟨fun e he => hmap.trans (congrArg _ ?_), fun hok => hmap.trans (congrArg _ ?_)⟩
    · exact congrArg (fun o => Option.elim o _ fun e => s'.takeFault c x e 0 0 0 0) he
    · exact congrArg (fun o => Option.elim o _ fun e => s'.takeFault c x e 0 0 0 0) hok
  case block =>
    obtain rfl | rfl := List.mem_pair.mp hp
    · exact callBlock_of_ready hx h
    · exact callBlock_of_ready hx h

/-! ### Commands of the engine (R370 to R372) -/

theorem kvSt_of_ready {a b : W} (hx : x ≠ 64) (h : Ready s c x (exForm .dest .read .read f) [.s a, .s b]) :
    let s' := noteFallback s c x (exFallback .dest .read .read f)
    exec (.kvSt f) s = .next ((firstFault (kvFaults s' a b)).elim (fenced s' c x 5 (kvFills s' c x .st a b f.d.toNat))
      fun e => s'.takeFault c x e 0 0 0 0) := by
  intro s'
  rw [exec_kvSt, execKvSt, issue_of_ready h, settle_notPlaza, if_neg hx]
  refine congrArg _ ((congrArg (settle s' c x) (kvAddr_refOk_bind s' a b _)).trans ((settle_passing ..).trans ?_))
  rw [settle_kvFence, fenced, ← settle_kvFills]
  rfl

theorem kvLd_of_ready {a b : W} (h : Ready s c x (exForm .dest .read .read f) [.s a, .s b]) :
    let s' := noteFallback s c x (exFallback .dest .read .read f)
    exec (.kvLd f) s = .next ((firstFault (kvFaults s' a b)).elim (kvFills s' c x .ld a b f.d.toNat)
      fun e => s'.takeFault c x e 0 0 0 0) := by
  intro s'
  rw [exec_kvLd, execKvLd, issue_of_ready h]
  refine congrArg _ ((congrArg (settle s' c x) (kvAddr_refOk_bind s' a b _)).trans ((settle_passing ..).trans ?_))
  rw [← settle_kvFills]
  rfl

/-! ### `kv.had` (R373) -/

theorem kvHad_of_ready {v0 v1 v2 v3 : Val} (hx : x ≠ 64)
    (h : Ready s c x { exForm .vdest .vread .zero f with
      names := [(f.a.toNat, 4), (f.d.toNat, 4)]
      srcs := (List.range 4).map fun i => { cls := .vt, code := f.a.toNat + i, blk := f.ba == 1 }
      dests := (List.range 4).map fun i => f.d.toNat + i } [v0, v1, v2, v3])
    (htag : ∀ v ∈ [v0, v1, v2, v3], tagOk [1] v = true) :
    let s' := noteFallback s c x (exFallback .vdest .vread .zero f)
    let y := hadamard ([v0, v1, v2, v3].flatMap fun v => (List.range 32).map fun l => (v.lanes.lane l).toNat)
    exec (.kvHad f) s = .next (awaiting ((List.range 4).foldl (fun (t : State) i =>
      (t.writeV c x (f.d.toNat + i) (s.gang c x).lanes (Lanes.of fun l => BitVec.ofNat 32 (y.getD (32 * i + l) 0)) 1).modGang c x
        fun g => g.commit 0 (f.d.toNat + i)) s')
      c x (f.d.setWidth 8)) := by
  intro s' y
  rw [exec_kvHad, execKvHad]
  simp only []
  rw [issue_of_ready h, settle_notPlaza, if_neg hx, settle_need, if_pos (List.all_eq_true.mpr htag), settle_pure, settle_awaiting,
    lanes_noteFallback (State.issuer_gang h.issues), ← BitVec.ofNat_toNat]
  rfl

theorem kvInstructions : KvInstructions := by
  intro s c x hx
  refine ⟨fun f a b h => ?queued, fun f a b h => ?parked, fun f v0 v1 v2 v3 h htag => kvHad_of_ready hx h htag⟩
  case queued =>
    intro s' d bad go
    have hbad : firstFault (kvFaults s' a b) = bad := rfl
    refine ⟨fun e he => ⟨(kvSt_of_ready hx h).trans (congrArg _ ?_), (kvLd_of_ready h).trans (congrArg _ ?_)⟩,
      fun hok => ⟨(kvSt_of_ready hx h).trans (congrArg _ ?_), (kvLd_of_ready h).trans (congrArg _ ?_)⟩⟩
    · rw [hbad, he, Option.elim_some]
    · rw [hbad, he, Option.elim_some]
    · rw [hbad, hok]
      rfl
    · rw [hbad, hok]
      rfl
  case parked =>
    intro s' go
    have key {i : Instr} {op : KvOp} {l : List (Bool × Byte)} {checks : Except Stop Unit}
        (hexec : exec i s = .next (settle s' c x (kvParked s' c x op a b checks)))
        (hchecks : ∀ r, (checks >>= fun _ => r) = passing l r) : go i op (firstFault l) := by
      refine ⟨fun e hf he => hexec.trans (congrArg _ ?_), fun hf hok => hexec.trans (congrArg _ ?_),
        fun m hf => hexec.trans (congrArg _ ?_)⟩
      · rw [settle_kvParked_of_none hx hchecks hf, he, Option.elim_some]
      · rw [settle_kvParked_of_none hx hchecks hf, hok, Option.elim_none]
      · exact settle_kvParked_of_some hx hf
    refine ⟨key ((exec_kvVqlut ..).trans (issue_of_ready h _)) fun r => ?_,
      key ((exec_kvVqsc ..).trans (issue_of_ready h _)) fun r => ?_⟩
    · rw [bind_assoc]
      exact kvAddr_kvAddr_bind a b r
    · rw [bind_assoc]
      exact kvAddr_refOk_bind s' a b r

/-- Settles O40: the instructions that ask the service or the engine stand behind lists of checks (`settle_passing`); those with
a verdict take it up from the command of the group (`State.kvAsked`). -/
theorem kvStore : Obligations.KvStore := ⟨kvRequests, kvInstructions⟩

end Sys2Proof.Safety
end

section
/-! PROOFS. The KV engine of a core (R356, R358, R366, R367, R370 to R374). -/

namespace Sys2Proof.Safety

open Sys2Proof.Machine

theorem exec_kvStExec (c : Nat) (s : State) : exec (.kvStExec c) s = execKvStExec c s := rfl
theorem exec_kvLdExec (c : Nat) (s : State) : exec (.kvLdExec c) s = execKvLdExec c s := rfl
theorem exec_kvVqlutExec (c : Nat) (s : State) : exec (.kvVqlutExec c) s = execKvVqlutExec c s := rfl
theorem exec_kvVqscExec (c : Nat) (s : State) : exec (.kvVqscExec c) s = execKvVqscExec c s := rfl

/-- A check of the engine: it ends the command, or what follows decides. -/
theorem ite_next {p q : Prop} {_ : Decidable p} {_ : Decidable q} (hpq : p ↔ q) {t u : State} {r : Host.Outcome State Fault Refusal}
    (hr : r = .next u) : (if p then .next t else r) = Host.Outcome.next (if q then t else u) := by
  rw [hr, ← apply_ite, if_congr hpq rfl rfl]

/-- The engine acts on its oldest command only where that is one of the operation. -/
theorem ite_op {m : KvCmd} {op : KvOp} (hop : m.op = op) (a b : Host.Outcome State Fault Refusal) :
    (if (m.op != op) = true then a else b) = b := if_neg (by simp [hop])

variable {s : State} {c : Nat} {m : KvCmd}

theorem kvEngine : KvEngine := by
  intro s c m hm p cls blk
  refine ⟨fun hop => ?ld, fun hop ans hans => ?answered, fun hop hslot hasked => ?st, fun hop => ?vqlut, fun hop => ?vqsc⟩
  case ld =>
    intro e ps t w drain
    rw [exec_kvLdExec, execKvLdExec, hm]
    exact (ite_op hop ..).trans (ite_next Iff.rfl (ite_next Iff.rfl (ite_next Iff.rfl rfl)))
  case answered =>
    rw [exec_kvStExec, execKvStExec, hm]
    refine (ite_op hop ..).trans ?_
    rw [hans]
  case st =>
    rw [exec_kvStExec, execKvStExec, hm]
    dsimp only
    refine (ite_op hop ..).trans ?_
    rw [hslot]
    refine (if_neg (by rw [hasked]; exact Bool.false_ne_true)).trans ?_
    refine ite_next Iff.rfl (ite_next Iff.rfl (ite_next ?request (ite_next Iff.rfl (ite_next bne_iff_ne
      (ite_next Iff.rfl (ite_next ?handle rfl))))))
    case request => simp only [Bool.or_eq_true, bne_iff_ne, Bool.not_eq_true', or_assoc]
    case handle => exact Bool.not_eq_true' _ ▸ Iff.rfl
  case vqlut =>
    rw [exec_kvVqlutExec, execKvVqlutExec, hm]
    dsimp only
    refine (ite_op hop ..).trans (ite_next Iff.rfl (ite_next Iff.rfl (ite_next ?lutRequest (ite_next Iff.rfl ?lutWritten))))
    case lutRequest => simp only [Bool.or_eq_true, bne_iff_ne, decide_eq_true_eq, or_assoc]
    case lutWritten =>
      simp only [State.sramWords]
      rfl
  case vqsc =>
    rw [exec_kvVqscExec, execKvVqscExec, hm]
    dsimp only
    refine (ite_op hop ..).trans (ite_next Iff.rfl (ite_next Iff.rfl (ite_next ?scoreRequest (ite_next Iff.rfl (ite_next Iff.rfl
      (ite_next Iff.rfl (ite_next Iff.rfl rfl)))))))
    simp only [Bool.or_eq_true, bne_iff_ne, decide_eq_true_eq, or_assoc]
    rfl

/-- Settles O41: each operation by its checks in order (`ite_next`); reading through the memory-side cache leaves memory and its
marks as they are. -/
theorem kvEngineCommands : Obligations.KvEngineCommands := kvEngine

end Sys2Proof.Safety
end

section
/-! SUPPORT. What a queue holds after the front end's writes, and what memory holds above bytes that are written. -/

namespace Sys2Proof.Machine

/-! ### Memory above a write -/

/-- A byte above the one that is written stays, in any list of cells. -/
theorem memRead_memWrite_of_lt {k k' : Nat} (h : k < k') (m : List Host.Cell) (b : Byte) :
    memRead (memWrite m k b) k' = memRead m k' := by
  induction m with
  | nil =>
    rw [memWrite]
    split
    · rfl
    · simp [memRead, h.ne]
  | cons p r ih =>
    obtain ⟨a, x⟩ := p
    rw [memWrite]
    split
    case isTrue =>
      split
      · rfl
      · rw [memRead, if_neg h.ne, if_neg h.not_gt]
    case isFalse =>
      split
      case isTrue hak =>
        have hskip (y : Byte) : memRead ((k, y) :: r) k' = memRead r k' := by rw [memRead, if_neg h.ne, if_neg h.not_gt]
        subst hak
        split
        · exact (hskip x).symm
        · rw [hskip, hskip]
      case isFalse => rw [memRead, memRead, ih]

theorem memRead_writeBytes_of_le {k k' : Nat} (bs : List Byte) (h : k + bs.length ≤ k') (m : List Host.Cell) :
    memRead (writeBytes m k bs) k' = memRead m k' := by
  induction bs generalizing m k with
  | nil => rfl
  | cons b r ih =>
    rw [List.length_cons] at h
    rw [writeBytes, ih (by omega), memRead_memWrite_of_lt (by omega)]

/-- A value that lies above the bytes that are put stays. -/
theorem State.load_put_of_le {k k' : Nat} {bs : List Byte} (h : k + bs.length ≤ k') (s : State) (n : Nat) :
    (s.put k bs).load k' n = s.load k' n := by
  simp only [State.load, readBytes, mem_put]
  exact congrArg leNat (List.map_congr_left fun i _ => memRead_writeBytes_of_le _ (by omega) _)

/-! ### Queues -/

@[simp] theorem State.queue_modQueue (s : State) (q : Nat) (f : Queue → Queue) : (s.modQueue q f).queue q = f (s.queue q) :=
  sgetD_sput_self ..

theorem State.queue_unselect (s : State) (q : Nat) : (s.unselect q).queue q = { s.queue q with head := none } :=
  State.queue_modQueue s q fun x => { x with head := none }

/-- What a halt leaves of its queue (R379). -/
theorem State.queue_haltQueue (s : State) (q err : Nat) (pkt : Option Nat) :
    (s.haltQueue q err pkt).queue q = { s.queue q with
      head := none, st := 2, err := err, errpkt := (pkt.map (BitVec.ofNat 64)).getD (s.queue q).errpkt } := by
  rw [State.haltQueue, State.queue_modQueue, State.queue_unselect]

theorem State.queue_journal (s : State) (q : Nat) : s.journal.queue q = s.queue q := by
  rw [State.queue, State.queue, State.journal_queues]

theorem State.queue_startHead (s : State) (q : Nat) (sig : Option Sig) (inner : Option Indirect) :
    (s.startHead q sig inner).queue q = (s.queue q).start sig inner := by
  rw [State.startHead, State.queue_journal, State.queue_modQueue]

theorem State.queue_kick (s : State) (i q : Nat) : (s.kick i).queue q = s.queue q := rfl

end Sys2Proof.Machine
end

section
/-! PROOFS. Queue registers, halts, starts and signals (R378, R379, R381, R395, R397). -/

namespace Sys2Proof.Safety

open Sys2Proof.Machine

theorem exec_widxWrite (q : Nat) (v : W) (s : State) : exec (.widxWrite q v) s = execWidxWrite q v s := rfl
theorem exec_queueStateWrite (q : Nat) (v : W) (s : State) : exec (.queueStateWrite q v) s = execQueueStateWrite q v s := rfl
theorem exec_ticketsWrite (q : Nat) (v : W) (s : State) : exec (.ticketsWrite q v) s = execTicketsWrite q v s := rfl

section
variable {q : Nat} (hq : q < 256) (v : W) (s : State)
include hq

/-- The doorbell (R379). -/
theorem widxWrite_of_lt :
    let x := s.refresh.queue q
    exec (.widxWrite q v) s = .next (
      if (v - x.ridx).toNat ≤ 2 ^ x.log2size ∧ (v - x.widx).toNat ≤ 2 ^ x.log2size then
        (s.refresh.kick q).modQueue q fun x => { x with widx := v }
      else (s.refresh.kick q).haltQueue q 1 none).refresh := by
  intro x
  rw [exec_widxWrite, execWidxWrite, if_neg (Nat.not_le.mpr hq)]
  refine congrArg (fun t => Host.Outcome.next (State.refresh t)) (if_congr ?_ rfl rfl)
  simp only [Bool.and_eq_true, decide_eq_true_eq]
  rfl

/-- A STATE that is taken (R378). -/
theorem queueStateWrite_of_lt (hv : v.toNat < 3) :
    exec (.queueStateWrite q v) s = .next ((if v = 1 then s.refresh else s.refresh.unselect q).modQueue q fun x =>
      { (if v = 0 then x.dropChain else x) with st := v.toNat }).refresh := by
  have hno : ¬(decide (256 ≤ q) || decide (3 ≤ v.toNat)) = true := by
    simp only [Bool.or_eq_true, decide_eq_true_eq]
    omega
  rw [exec_queueStateWrite, execQueueStateWrite, if_neg hno]

theorem ticketsWrite_of_lt (hv : v.toNat < 65536) :
    exec (.ticketsWrite q v) s = .next (s.refresh.modQueue q fun x => { x with tickets := v.toNat }).refresh := by
  have hno : ¬(decide (256 ≤ q) || decide (65536 ≤ v.toNat)) = true := by
    simp only [Bool.or_eq_true, decide_eq_true_eq]
    omega
  rw [exec_ticketsWrite, execTicketsWrite, if_neg hno]

end

theorem queueWrites : QueueWrites := by
  intro q v s hq
  refine ⟨?widx, fun hv => ?stateBeyond, fun hv => ?runs, fun hv => ?disabled, fun hv => ?stopped, fun hv => ?ticketsBeyond,
    fun hv => ticketsWrite_of_lt hq v s hv⟩
  case widx =>
    intro x n
    have hwidx := widxWrite_of_lt hq v s
    refine ⟨fun hr hw => hwidx.trans ?_, fun hout => hwidx.trans ?_⟩
    · exact congrArg (fun t => Host.Outcome.next (State.refresh t)) (if_pos ⟨hr, hw⟩)
    · refine congrArg (fun t => Host.Outcome.next (State.refresh t)) (if_neg fun hin => ?_)
      obtain ⟨hr, hw⟩ := hin
      obtain h | h := hout
      · exact absurd hr (Nat.not_le.mpr h)
      · exact absurd hw (Nat.not_le.mpr h)
  case stateBeyond => exact if_pos (by simp [hv])
  case ticketsBeyond => exact if_pos (by simp [hv])
  case runs =>
    subst hv
    exact queueStateWrite_of_lt hq 1 s (by decide)
  case disabled =>
    subst hv
    exact queueStateWrite_of_lt hq 0 s (by decide)
  case stopped =>
    subst hv
    exact queueStateWrite_of_lt hq 2 s (by decide)

/-- A signal whose word can be written and whose mode is 0 writes VALUE and sends no interrupt (R397). -/
theorem signal_of_quiet {s u : State} {g : Sig} {e : TlbEntry} (hl : s.lookupDie 0 g.asid g.va .store = (u, .ok e))
    (hbad : u.isBad (e.key g.va) 32 = false) (hmode : u.load (e.key g.va + 0x14) 1 = 0) :
    let old := BitVec.ofNat 64 (u.load (e.key g.va) 8)
    s.signal g = u.put (e.key g.va) (leBytes 8 (if g.op = 0 then g.val else if g.op = 1 then old + g.val else old - g.val).toNat) := by
  intro old
  have hval : (match g.op with
      | 0 => g.val
      | 1 => old + g.val
      | _ => old - g.val) = if g.op = 0 then g.val else if g.op = 1 then old + g.val else old - g.val := by
    split
    case h_1 h => rw [if_pos h]
    case h_2 h => rw [h]; rfl
    case h_3 h0 h1 => rw [if_neg h0, if_neg h1]
  have hquiet (bs : List Byte) (hlen : bs.length = 8) : (u.put (e.key g.va) bs).load (e.key g.va + 0x14) 1 = 0 := by
    rw [State.load_put_of_le (by omega), hmode]
  rw [State.signal, hl, ← hval]
  dsimp only
  rw [hbad, hquiet _ (leBytes_length ..)]
  rfl

theorem queueActs : QueueActs := by
  intro s q
  refine ⟨fun err pkt => ?halt, fun sig hchain => ?start, fun g e u hl hbad hmode => signal_of_quiet hl hbad hmode⟩
  case halt =>
    intro y
    have hy : y = _ := State.queue_haltQueue s q err pkt
    refine ⟨by rw [hy], by rw [hy], by rw [hy], by rw [hy], fun a ha => ?_⟩
    rw [hy, ha]
    rfl
  case start =>
    intro y
    have hy : y = _ := State.queue_startHead s q sig none
    rw [hy]
    simp only [Queue.start, Queue.stride, Queue.advance, hchain, and_self]

/-- Settles O42: the writes by their ranges, a halt and a start by what they leave of their queue, and a signal by the mode
byte above its VALUE, which the write leaves (`State.load_put_of_le`). -/
theorem queueRegisters : Obligations.QueueRegisters := ⟨queueWrites, queueActs⟩

end Sys2Proof.Safety
end

section
/-! SUPPORT. What the taking up of a head packet, its conditions and a copy come to (R380 to R383, R395). -/

namespace Sys2Proof.Machine

open Sys2Proof.Safety

/-! ### Heads that are not taken up (R380, R395) -/

/-- The head of queue `q`, at address `a`, is read when its turn comes. -/
structure HeadTurn (s : State) (q a : Nat) : Prop where
  runs : (s.refresh.queue q).runs = true
  room : s.refresh.holdFull = false
  addr : (s.refresh.queue q).pktAddr = some a
  turn : s.refresh.pickQueue = some q

section
variable {s u : State} {q a : Nat} (h : HeadTurn s q a)
include h

/-- A head that cannot be read halts its queue with PF. -/
theorem State.takeHead_of_unread (hread : s.refresh.headBytes q = (u, none)) (kind : Nat) :
    s.takeHead q kind = (u.haltQueue q 4 (some a), none) := by
  obtain ⟨hruns, hroom, haddr, hturn⟩ := h
  simp [State.takeHead, hruns, hroom, haddr, hread, hturn, errPf]

/-- One with a bad value halts it with BADPKT. -/
theorem State.takeHead_of_bad {bs : List Byte} (hread : s.refresh.headBytes q = (u, some bs)) (hbad : u.pktOk bs = false)
    (kind : Nat) : s.takeHead q kind = (u.haltQueue q 3 (some a), none) := by
  obtain ⟨hruns, hroom, haddr, hturn⟩ := h
  simp [State.takeHead, hruns, hroom, haddr, hread, hbad, hturn, errBadPkt]

end

/-- A head that waits for earlier packets cannot start while there is one (R381, R382, R395). -/
theorem State.canStart_of_order {s : State} {q : Nat} {bs : List Byte} (hread : (s.headBytes q).2 = some bs)
    (hgood : s.pktOk bs = true) (horder : pktOrder bs = true ∨ bytesNat bs 0 1 = 8) (hchain : (s.queue q).chain = [])
    (hout : (s.queue q).outst ≠ []) : s.canStart q = false := by
  have hno : (s.queue q).orderOk bs = false := by
    have hdue : (pktOrder bs || bytesNat bs 0 1 == 8) = true := by simpa using horder
    obtain ⟨o, r, ho⟩ := List.exists_cons_of_ne_nil hout
    simp [Queue.orderOk, hdue, hchain, ho]
  simp [State.canStart, hread, hgood, hno]

/-! ### Held heads (R382) -/

theorem State.passHead_eq (s : State) (q : Nat) (bs : List Byte) :
    s.passHead q bs = headPassed s q ((s.queue q).pktAddr.getD 0) bs := rfl

section
variable {s : State} {q : Nat} {bs : List Byte}

theorem State.heldHead_of_type {ty : Nat} (hh : (s.queue q).head = some bs) (ht : bytesNat bs 0 1 = ty) :
    s.heldHead q ty = some bs := by
  rw [State.heldHead, hh]
  exact if_pos ht

/-- A WAIT whose word cannot be read halts its queue. -/
theorem State.tryWait_of_fail {u : State} (hfree : s.headFree q bs = true)
    (hr : s.feRead (s.queue q).asid (bytesNat bs 0x18 8) 8 = (u, none)) :
    s.tryWait q bs = u.haltQueue q 4 (u.queue q).pktAddr := by
  simp [State.tryWait, State.waitHolds, hfree, hr, errPf]

/-- One whose word is read starts where its condition holds. -/
theorem State.tryWait_of_read {u : State} {w : List Byte} (hfree : s.headFree q bs = true)
    (hr : s.feRead (s.queue q).asid (bytesNat bs 0x18 8) 8 = (u, some w)) :
    s.tryWait q bs = if condHolds (bytesNat bs 0x28 8) (BitVec.ofNat 64 (leNat w)) (BitVec.ofNat 64 (bytesNat bs 0x20 8)) then
      u.passHead q bs else u := by
  simp only [State.tryWait, State.waitHolds, hfree, hr, Bool.not_true, Bool.false_eq_true, if_false]
  cases condHolds (bytesNat bs 0x28 8) (BitVec.ofNat 64 (leNat w)) (BitVec.ofNat 64 (bytesNat bs 0x20 8)) <;> rfl

theorem State.tryTimer_of_free (hfree : s.headFree q bs = true) :
    s.tryTimer q bs = if s.fe.failover = false ∧ bytesNat bs 0x18 8 ≤ s.ns then s.passHead q bs else s := by
  simp only [State.tryTimer, hfree, Bool.true_and, Bool.and_eq_true, Bool.not_eq_true', decide_eq_true_eq]

end

end Sys2Proof.Machine
end

section
/-! PROOFS. Packets and take-over (R13, R380 to R383, R397, R399, R400). -/

namespace Sys2Proof.Safety

open Sys2Proof.Machine

theorem exec_packetNop (q : Nat) (s : State) : exec (.packetNop q) s = .next (s.atOnce q 0) := rfl
theorem exec_packetSignal (q : Nat) (s : State) : exec (.packetSignal q) s = .next (s.atOnce q 3) := rfl
theorem exec_packetFence (q : Nat) (s : State) : exec (.packetFence q) s = .next (s.atOnce q 8) := rfl
theorem exec_packetWait (q : Nat) (s : State) : exec (.packetWait q) s = execPacketWait q s := rfl
theorem exec_packetTimer (q : Nat) (s : State) : exec (.packetTimer q) s = execPacketTimer q s := rfl
theorem exec_waitReread (q : Nat) (s : State) : exec (.waitReread q) s = execWaitReread q s := rfl
theorem exec_timerPacketDue (q : Nat) (s : State) : exec (.timerPacketDue q) s = execTimerPacketDue q s := rfl
theorem exec_packetIndirect (q : Nat) (s : State) : exec (.packetIndirect q) s = execPacketIndirect q s := rfl
theorem exec_packetCopy (q : Nat) (s : State) : exec (.packetCopy q) s = execPacketCopy q s := rfl
theorem exec_copyPacketDone (n : Nat) (s : State) : exec (.copyPacketDone n) s = execCopyPacketDone n s := rfl
theorem exec_streamOpen (q : Nat) (s : State) : exec (.streamOpen q) s = execStreamOpen q s := rfl
theorem exec_streamTouch (q : Nat) (s : State) : exec (.streamTouch q) s = execStreamTouch q s := rfl
theorem exec_streamRetime (q : Nat) (s : State) : exec (.streamRetime q) s = execStreamRetime q s := rfl
theorem exec_streamClose (q : Nat) (s : State) : exec (.streamClose q) s = execStreamClose q s := rfl

/-! ### Packets that complete at once, and heads that are refused (R380 to R382) -/

/-- A packet of the kind that is asked for, which needs nothing more, passes. -/
theorem atOnce_of_ready {s u : State} {q a : Nat} {bs : List Byte} (h : HeadReady s q u a bs) {kind : Nat}
    (hk : pktKind bs = kind) : s.atOnce q kind = (headPassed u q a bs).refresh := by
  subst hk
  rw [State.atOnce, State.takeHead_of_ready h]
  rfl

/-- Every packet instruction leaves a head that is not taken up. -/
theorem packet_of_no_head {p : Nat → Instr} (hp : p ∈ [Instr.packetNop, .packetSignal, .packetFence, .packetWait, .packetTimer,
      .packetIndirect, .packetCopy, .packetLaunch, .streamOpen, .streamTouch, .streamRetime, .streamClose])
    {s v : State} {q : Nat} (h : ∀ kind, s.takeHead q kind = (v, none)) : exec (p q) s = .next v.refresh := by
  have honce (kind : Nat) : s.atOnce q kind = v.refresh := by rw [State.atOnce, h]
  have hstream (op : Nat) : s.startStream q op = (v, none) := by rw [State.startStream, h]
  simp only [List.mem_cons, List.not_mem_nil, or_false] at hp
  obtain rfl | rfl | rfl | rfl | rfl | rfl | rfl | rfl | rfl | rfl | rfl | rfl := hp
  · rw [exec_packetNop, honce]
  · rw [exec_packetSignal, honce]
  · rw [exec_packetFence, honce]
  · rw [exec_packetWait, execPacketWait, h]
  · rw [exec_packetTimer, execPacketTimer, h]
  · rw [exec_packetIndirect, execPacketIndirect, h]
  · rw [exec_packetCopy, execPacketCopy, h]
  · rw [exec_packetLaunch, execPacketLaunch, h]
  · rw [exec_streamOpen, execStreamOpen, hstream]
  · rw [exec_streamTouch, execStreamTouch, hstream]
  · rw [exec_streamRetime, execStreamRetime, hstream]
  · rw [exec_streamClose, execStreamClose, hstream]

theorem packetsAtOnce : PacketsAtOnce := by
  refine ⟨fun p hp s u q a bs h hk => ?passes, fun s q bs hread hgood horder hchain hout =>
    State.canStart_of_order hread hgood horder hchain hout, fun p hp s u q a hruns hroom haddr hturn => ?refused⟩
  case passes =>
    simp only [List.mem_cons, List.not_mem_nil, or_false] at hp
    obtain rfl | rfl | rfl := hp
    · rw [exec_packetNop, atOnce_of_ready h hk]
    · rw [exec_packetSignal, atOnce_of_ready h hk]
    · rw [exec_packetFence, atOnce_of_ready h hk]
  case refused =>
    have ht : HeadTurn s q a := ⟨hruns, hroom, haddr, hturn⟩
    exact ⟨fun hread => packet_of_no_head hp (State.takeHead_of_unread ht hread),
      fun bs hread hbad => packet_of_no_head hp (State.takeHead_of_bad ht hread hbad)⟩

/-! ### Packets that hold their queue (R382) -/

theorem packetsHeld : PacketsHeld := by
  refine ⟨fun p hp s u q a bs h hk => ?taken, fun s q bs hh hfree => ⟨fun hty => ?wait, fun hty => ?timer⟩⟩
  case taken =>
    intro t
    have htake := State.takeHead_of_ready h
    rw [hk] at htake
    obtain rfl | rfl := List.mem_pair.mp hp
    · rw [exec_packetWait, execPacketWait, htake]
      rfl
    · rw [exec_packetTimer, execPacketTimer, htake]
      rfl
  case wait =>
    intro r
    have hwait : exec (.waitReread q) s = .next (s.tryWait q bs).refresh := by
      rw [exec_waitReread, execWaitReread, State.heldHead_of_type hh hty]
    refine ⟨fun u hr => by rw [hwait, State.tryWait_of_fail hfree hr], fun u w hr => ?_⟩
    intro v x holds
    have hholds : condHolds (bytesNat bs 0x28 8) v x = holds := rfl
    rw [hwait, State.tryWait_of_read hfree hr, hholds, State.passHead_eq]
  case timer =>
    rw [exec_timerPacketDue, execTimerPacketDue, State.heldHead_of_type hh hty]
    exact congrArg (fun t => Host.Outcome.next (State.refresh t)) (State.tryTimer_of_free hfree)

/-! ### INDIRECT and COPY (R382, R383) -/

theorem packetsNested : PacketsNested := by
  refine ⟨fun s u q a bs h hk => ?indirect, fun s u q a bs h hk => ?copy, fun s n j hj hst hroom => ?done⟩
  case indirect =>
    intro x va
    have htake := State.takeHead_of_ready h
    rw [hk] at htake
    rw [exec_packetIndirect, execPacketIndirect, htake]
    refine (ite_congr (propext ?_) (fun _ => rfl) fun _ => rfl).trans (apply_ite Host.Outcome.next _ _ _).symm
    simp only [Bool.or_eq_true, decide_eq_true_eq, List.any_eq_true, beq_iff_eq]
    rfl
  case copy =>
    intro f job t
    have htake := State.takeHead_of_ready h
    rw [hk] at htake
    rw [exec_packetCopy, execPacketCopy, htake]
    rfl
  case done =>
    intro r w stuck
    have hgo : ¬((j.stuck && (s.queue j.queue).st != 1) || s.holdFull) = true := by
      obtain h | h := hst <;> simp [h, hroom]
    rw [exec_copyPacketDone, execCopyPacketDone, hj]
    simp only [if_neg hgo]
    have hpair {x : State × Option (List (Nat × Nat))} {o : Option (List (Nat × Nat))} (ho : x.2 = o) : x = (x.1, o) :=
      Prod.ext rfl ho
    refine ⟨fun hr => ?_, fun src hr hw => ?_, fun src dst hr hw => ?_⟩
    · rw [show s.feRuns _ _ _ _ _ = (r.1, none) from hpair hr]
      rfl
    · rw [show s.feRuns _ _ _ _ _ = (r.1, some src) from hpair hr]
      dsimp only
      rw [show r.1.feRuns _ _ _ _ _ = (w.1, none) from hpair hw]
      rfl
    · rw [show s.feRuns _ _ _ _ _ = (r.1, some src) from hpair hr]
      dsimp only
      rw [show r.1.feRuns _ _ _ _ _ = (w.1, some dst) from hpair hw]

/-! ### Take-over (R13, R399, R400) -/

theorem takeOver : TakeOver := by
  refine fun s => ⟨rfl, fun hf => ?acked, fun g hf => if_pos hf⟩
  have hon : ¬(!s.fe.failover) = true := by rw [hf]; decide
  exact if_neg hon

/-- Settles O43: a head that is ready is taken up (`State.takeHead_of_ready`), one that is not leaves every packet instruction
without effect of its own (`packet_of_no_head`). -/
theorem packets : Obligations.Packets := ⟨packetsAtOnce, packetsHeld, packetsNested, takeOver⟩

end Sys2Proof.Safety
end

section
/-! SUPPORT. What a stream's packets, due times and restores come to, by the state of its context (R390 to R394). -/

namespace Sys2Proof.Machine

open Sys2Proof.Safety

theorem State.stream?_moveRuns (s : State) (src dst : List (Nat × Nat)) (id : Nat) :
    (s.moveRuns src dst).stream? id = s.stream? id := by
  rw [State.stream?, State.stream?, State.moveRuns_fe]

/-- A STREAM packet that is ready starts with what it needs to end. -/
theorem State.startStream_of_ready {s u : State} {q a op : Nat} {bs : List Byte} (h : HeadReady s q u a bs)
    (hk : pktKind bs = 7 + 16 * op) : s.startStream q op = (u, some (closing u q a bs, bs)) := by
  rw [State.startStream, ← hk, State.takeHead_of_ready h]
  rfl

/-! ### Due times (R392) -/

/-- The due time that follows is the first one beyond now, a whole number of periods later. -/
theorem nextDue_spec {next period now : Nat} (hp : 0 < period) (hn : next ≤ now) :
    now < (nextDue next period now).1 ∧ (nextDue next period now).1 ≤ now + period ∧
      (nextDue next period now).1 = next + ((nextDue next period now).2 + 1) * period := by
  unfold nextDue
  dsimp only
  split
  case isTrue h => exact ⟨h, by omega, by omega⟩
  case isFalse h =>
    have hdiv := Nat.div_add_mod (now - (next + period)) period
    have hmod := Nat.mod_lt (now - (next + period)) hp
    have hsucc (k : Nat) : (k + 1) * period = period * k + period := by rw [Nat.succ_mul, Nat.mul_comm]
    dsimp only
    rw [hsucc, hsucc, Nat.mul_add_one]
    exact ⟨by omega, by omega, by omega⟩

/-- A launch that leaves is late where its due time was held for more than 1 µs (R392). -/
def dueLate (s : State) (t : Stream) : W :=
  if t.st != .evicted && t.st != .restoring && t.act && t.held && t.next + 1000 < s.ns then 1 else 0

/-- The context after a due time that acts. -/
def dueNext (s : State) (t : Stream) : Stream :=
  { t with next := (nextDue t.next t.period s.ns).1
           late := t.late + BitVec.ofNat 32 (nextDue t.next t.period s.ns).2 + dueLate s t, held := false }

section
variable {s : State} {id : Nat} {t : Stream} (hs : s.stream? id = some t)
include hs

/-- What a due time does that is not yet there, or that is held. -/
theorem streamDue_of_early (hn : s.ns < t.next) : execStreamDue id s = .next s := by
  rw [execStreamDue, hs]
  exact if_pos hn

theorem streamDue_of_failover (hn : t.next ≤ s.ns) (hf : s.fe.failover = true) :
    execStreamDue id s = .next (s.putStream id { t with held := true }) := by
  rw [execStreamDue, hs]
  exact (if_neg (Nat.not_lt.mpr hn)).trans (if_pos hf)

theorem streamDue_of_due (hn : t.next ≤ s.ns) (hf : s.fe.failover = false) :
    execStreamDue id s = .next (if t.st = .restoring then s.putStream id { dueNext s t with pend := true }
      else if t.st = .evicted then s.putStream id (dueNext s t)
      else if t.act then s.dueLaunch id (dueNext s t)
      else s.putStream id { dueNext s t with
        silent := min (t.silent + 1) 15, st := .silent, evict := t.evict || min (t.silent + 1) 15 == t.silentMax }).refresh := by
  rw [execStreamDue, hs]
  exact (if_neg (Nat.not_lt.mpr hn)).trans (if_neg (by rw [hf]; decide))

end

/-- Without a launch that leaves, no launch is late. -/
theorem dueLate_of_quiet {s : State} {t : Stream} (h : t.st = .restoring ∨ t.st = .evicted ∨ t.act = false) :
    dueLate s t = 0#32 := by
  obtain h | h | h := h <;> simp [dueLate, h]

theorem dueLate_of_launch {s : State} {t : Stream} (hr : t.st ≠ .restoring) (he : t.st ≠ .evicted) (ha : t.act = true) :
    dueLate s t = if t.held = true ∧ t.next + 1000 < s.ns then 1 else 0 := by
  simp [dueLate, hr, he, ha]

end Sys2Proof.Machine
end

section
/-! PROOFS. Streams (R390 to R394). -/

namespace Sys2Proof.Safety

open Sys2Proof.Machine

theorem exec_touchRegisterWrite (v : W) (s : State) : exec (.touchRegisterWrite v) s = execTouchRegisterWrite v s := rfl
theorem exec_streamDue (id : Nat) (s : State) : exec (.streamDue id) s = execStreamDue id s := rfl
theorem exec_streamEvictDone (id : Nat) (s : State) : exec (.streamEvictDone id) s = execStreamEvictDone id s := rfl
theorem exec_streamRestoreStart (id : Nat) (s : State) : exec (.streamRestoreStart id) s = execStreamRestoreStart id s := rfl
theorem exec_streamRestoreDone (id : Nat) (s : State) : exec (.streamRestoreDone id) s = execStreamRestoreDone id s := rfl

/-! ### Packets (R391, R394) -/

theorem openStream_of_bad {s : State} {id : Nat} {d : List Byte} {next : Nat} {asid : Byte} (hd : streamDesc d next asid = none) :
    s.openStream id d next asid = (s, 4) := by
  rw [State.openStream, hd]
  rfl

section
variable {s : State} {id : Nat} {d : List Byte} {next : Nat} {asid : Byte} {t : Stream} (hd : streamDesc d next asid = some t)
include hd

/-- What a good descriptor opens. -/
theorem streamDesc_fields : t.st = .active ∧ t.act = false ∧ t.silent = 0 ∧ t.next = next := by
  unfold streamDesc at hd
  dsimp only at hd
  split at hd
  · cases hd
    exact ⟨rfl, rfl, rfl, rfl⟩
  · cases hd

/-- An OPEN with a good descriptor, by the budget, the ranges in use and the regions that are withheld. -/
theorem openStream_of_good :
    let met := s.fe.streams.any fun p => p.2.pins && rangesMeet t.pinAddr t.pinSize p.2.pinAddr p.2.pinSize
    s.openStream id d next asid =
      if s.fe.pinBudget < s.pinUsed + t.pinSize ∨ met = true ∨ s.pinWithheld t.pinAddr t.pinSize = false then (s, 2)
      else (s.putStream id { t with late := (sgetD s.fe.streams id {}).late, overrun := (sgetD s.fe.streams id {}).overrun }, 0) := by
  intro met
  rw [State.openStream, hd, ite_or, ite_or]
  simp only [Bool.not_eq_true']
  rfl

end

theorem streamPackets : StreamPackets := by
  refine ⟨fun s u q a bs h => ?packets, fun s id d next asid => ?opens, fun s v => ⟨fun hv => if_pos hv, fun hv => ?register⟩,
    fun s id => ⟨fun hnone => ?touchFree, fun t hsome => ?touch⟩⟩
  case packets =>
    intro id k t
    refine ⟨fun hk => ?touches, fun hk => ?retime, fun hk => ?close, fun hk => ?opened⟩
    case touches =>
      rw [exec_streamTouch, execStreamTouch, State.startStream_of_ready h hk]
    case retime =>
      rw [exec_streamRetime, execStreamRetime, State.startStream_of_ready h hk]
      dsimp only
      exact ⟨fun hnone => by rw [hnone]; rfl, fun x hx => by rw [hx]; rfl⟩
    case close =>
      rw [exec_streamClose, execStreamClose, State.startStream_of_ready h hk]
      dsimp only
      refine ⟨fun hnone => ?_, fun x hx hc => ?_, fun x hx hc he => ?_, fun x hx hc he => ?_⟩
      · rw [hnone]
        rfl
      · rw [hx]
        exact if_pos hc
      · rw [hx]
        exact (if_neg (by rw [hc]; decide)).trans (if_pos he)
      · rw [hx]
        exact ((if_neg (by rw [hc]; decide)).trans (if_neg he)).trans (apply_ite Host.Outcome.next _ _ _).symm
    case opened =>
      intro r v
      rw [exec_streamOpen, execStreamOpen, State.startStream_of_ready (op := 0) h hk]
      dsimp only
      have hr {o : Option (List Byte)} (ho : r.2 = o) : u.feRead k.asid (bytesNat bs 0x20 8) 64 = (r.1, o) := Prod.ext rfl ho
      refine ⟨fun hnone => ?_, fun d hd hx => ?_, fun d hd hx => ?_⟩
      · rw [hr hnone]
        rfl
      · obtain ⟨x, hx⟩ := hx
        have hused : (v.stream? id).isSome = true := by rw [hx]; rfl
        rw [hr hd]
        dsimp only
        rw [if_pos hused]
        rfl
      · have hfree : ¬(v.stream? id).isSome = true := by rw [hx]; decide
        rw [hr hd]
        dsimp only
        rw [if_neg hfree]
  case opens =>
    intro o
    refine ⟨openStream_of_bad, fun t hd => ?_⟩
    intro n met
    have ho := openStream_of_good (s := s) (id := id) hd
    obtain ⟨hst, hact, hsilent, hnext⟩ := streamDesc_fields hd
    refine ⟨fun hno => ho.trans (if_pos hno), fun hbudget hmet hheld => ?_⟩
    intro old
    refine ⟨ho.trans (if_neg ?_), hst, hact, hsilent, hnext⟩
    rintro (h | h | h)
    · exact absurd h (Nat.not_lt.mpr hbudget)
    · exact absurd (hmet.symm.trans h) Bool.false_ne_true
    · exact absurd (h.symm.trans hheld) Bool.false_ne_true
  case register =>
    rw [exec_touchRegisterWrite, execTouchRegisterWrite, if_neg (Nat.not_le.mpr hv)]
  case touchFree =>
    rw [State.touchStream, hnone]
    rfl
  case touch =>
    rw [State.touchStream, hsome]
    rfl

/-! ### Due times, evictions and restores (R392 to R394) -/

theorem streamTimes : StreamTimes := by
  intro s id t hs
  refine ⟨fun hn => (exec_streamDue ..).trans (streamDue_of_early hs hn), fun hn hf => (exec_streamDue ..).trans
    (streamDue_of_failover hs hn hf), fun hn hf => ?due, fun he => ?evicted, fun hst hc => ?restores, fun hc => ?restored,
    fun he => ?stays, fun hc => ?waits⟩
  case due =>
    intro d u
    have hdue := (exec_streamDue id s).trans (streamDue_of_due hs hn hf)
    have hquiet (h : t.st = .restoring ∨ t.st = .evicted ∨ t.act = false) : dueNext s t = u := by
      rw [dueNext, dueLate_of_quiet h, BitVec.add_zero]
    refine ⟨fun hr => ?_, fun he => ?_, fun hr he => ⟨fun ha => ?_, fun ha => ?_⟩⟩
    · rw [hdue, if_pos hr, hquiet (.inl hr)]
    · have hr : t.st ≠ .restoring := by rw [he]; decide
      rw [hdue, if_neg hr, if_pos he, hquiet (.inr (.inl he))]
    · have hno : ¬t.act = true := by rw [ha]; decide
      intro n
      rw [hdue, if_neg hr, if_neg he, if_neg hno, hquiet (.inr (.inr ha))]
    · intro l
      rw [hdue, if_neg hr, if_neg he, if_pos ha, State.dueLaunch, dueNext, dueLate_of_launch hr he ha]
      exact congrArg Host.Outcome.next (apply_ite State.refresh _ _ _)
  case evicted =>
    rw [exec_streamEvictDone, execStreamEvictDone, hs]
    exact if_neg (by rw [he]; decide)
  case restores =>
    rw [exec_streamRestoreStart, execStreamRestoreStart, hs]
    simp only [hst, hc, decide_true, Bool.not_false, Bool.true_and]
    exact (apply_ite Host.Outcome.next _ _ _).symm
  case restored =>
    intro v w
    rw [exec_streamRestoreDone, execStreamRestoreDone, hs]
    refine (if_neg (by rw [hc]; decide)).trans ?_
    simp only [State.stream?_moveRuns, hs, Option.any_some]
    rfl
  case stays =>
    rw [exec_streamEvictDone, execStreamEvictDone, hs]
    exact if_pos (by rw [he]; rfl)
  case waits =>
    rw [exec_streamRestoreDone, execStreamRestoreDone, hs]
    exact if_pos (by rw [hc]; rfl)

/-- Settles O45: the packets go on from `State.startStream_of_ready`, a due time by the state of its context
(`streamDue_of_due`), and the due time that follows by `nextDue_spec`. -/
theorem streams : Obligations.Streams := ⟨streamPackets, streamTimes, fun _ _ _ hp hn => nextDue_spec hp hn⟩

end Sys2Proof.Safety
end

section
/-! SUPPORT. What start-up, the check of an image, and a commit of features come to (R15, R412 to R416). -/

namespace Sys2Proof.Machine

/-! ### Images (R415) -/

/-- The header of an image, field by field; that it holds 64 bytes follows from the signature behind it. -/
theorem imageHeaderOk_iff (bs : List Byte) : imageHeaderOk bs = true ↔
    bytesNat bs 0 4 = 0x5a465731 ∧ 0x80 ≤ bytesNat bs 4 4 ∧ bytesNat bs 4 4 ≤ 2 ^ 31 ∧
      bytesNat bs 0x10 4 = bytesNat bs 4 4 - 64 ∧ bytesNat bs 0x14 44 = 0 ∧ bytesNat bs 4 4 + 29792 ≤ bs.length := by
  simp only [imageHeaderOk, zeroAt, Bool.and_eq_true, decide_eq_true_eq, beq_iff_eq, and_assoc]
  refine ⟨fun ⟨_, h⟩ => h, fun h => ⟨?_, h⟩⟩
  obtain ⟨_, hlen, _, _, _, hsig⟩ := h
  omega

/-! ### Attestation (R416) -/

/-- The report that is made on a nonce. -/
def reportOf (s : State) (nonce : BitVec 256) : Report :=
  let r : Report := { digest := (s.sys.image.getD Config.romImage).1, svn := (s.sys.image.getD Config.romImage).2
                      off := s.sys.featOff, acc := s.sys.committed, diemap := s.dieMap, nonce := nonce, sig := [] }
  { r with sig := Config.slhSign r.signed }

theorem attestationReportReady_of_busy {s : State} {n : BitVec 256} (h : s.sys.attBusy = some n) :
    execAttestationReportReady s =
      .next { s with sys := { s.sys with attBusy := none, attStat := 1, attRep := some (reportOf s n) } } := by
  rw [execAttestationReportReady, h]
  rfl

theorem bit_dieMap (s : State) {d : Nat} (hd : d < 24) : bit s.dieMap d = (s.die d).ok := by
  rw [State.dieMap, bit_maskOf, decide_eq_true hd, Bool.true_and]

/-! ### Features (R412) -/

/-- A commit that is refused. -/
def commitRefused (s : State) : Prop :=
  (∃ q ∈ s.fe.queues, q.2.st ≠ 0) ∨ s.sys.featAcc &&& ~~~s.sys.featOff ≠ 0 ∨
    (bit s.sys.featOff 0 = true ∧ bit s.sys.featAcc 0 = false)

theorem commitRefused_iff (s : State) :
    (s.fe.queues.any (fun q => q.2.st != 0) || s.sys.featAcc &&& ~~~s.sys.featOff != 0 ||
      (bit s.sys.featOff 0 && !bit s.sys.featAcc 0)) = true ↔ commitRefused s := by
  simp only [commitRefused, Bool.or_eq_true, Bool.and_eq_true, List.any_eq_true, bne_iff_ne, Bool.not_eq_true', or_assoc]

theorem featcommit_of_refused {s : State} (h : commitRefused s) :
    execFeatcommit 1 s = .next { s with sys := { s.sys with featStat := 2 } } :=
  if_pos ((commitRefused_iff s).mpr h)

theorem featcommit_of_accepted {s : State} (h : ¬commitRefused s) :
    let t : State := { s with sys := { s.sys with featStat := 1, committed := s.sys.featAcc } }
    execFeatcommit 1 s = .next (if s.time.source = sourceOf s.sys.featAcc then t
      else { t with time := { t.time with source := none, target := none } }) :=
  if_neg (mt (commitRefused_iff s).mp h)

end Sys2Proof.Machine
end

section
/-! PROOFS. Start-up, images, features and attestation (R15, R289, R412 to R416). -/

namespace Sys2Proof.Safety

open Sys2Proof.Machine

theorem exec_powerGood (s : State) : exec .powerGood s = execPowerGood s := rfl
theorem exec_bootRomImageCheck (p0 p1 : Option (List Byte)) (s : State) :
    exec (.bootRomImageCheck p0 p1) s = execBootRomImageCheck p0 p1 s := rfl
theorem exec_reducedServiceReached (s : State) : exec .reducedServiceReached s = execReducedServiceReached s := rfl
theorem exec_fullFunctionReached (good : BitVec 24) (s : State) :
    exec (.fullFunctionReached good) s = execFullFunctionReached good s := rfl
theorem exec_bootload (len : W) (s : State) : exec (.bootload len) s = execBootload len s := rfl
theorem exec_featcommit (v : W) (s : State) : exec (.featcommit v) s = execFeatcommit v s := rfl
theorem exec_attgo (v : W) (s : State) : exec (.attgo v) s = execAttgo v s := rfl
theorem exec_attestationReportReady (s : State) : exec .attestationReportReady s = execAttestationReportReady s := rfl

/-! ### Start-up and images (R289, R412, R413, R415) -/

theorem startUp : StartUp := by
  intro s
  refine ⟨rfl, fun p0 p1 hb => ?image, fun hb => ?reduced, fun hb hi good => ?full, fun hb len => ?load⟩
  case image =>
    rw [exec_bootRomImageCheck, execBootRomImageCheck.eq_def]
    refine (if_neg (by rw [hb]; decide)).trans ?_
    cases p0 with
    | some bs => cases hc : s.sys.checkImage bs <;> simp [hc, State.modSys]
    | none =>
      cases p1 with
      | some bs => cases hc : s.sys.checkImage bs <;> simp [hc, State.modSys]
      | none => rfl
  case reduced =>
    rw [exec_reducedServiceReached, execReducedServiceReached]
    refine (if_neg ?_).trans rfl
    obtain h | h := hb <;> rw [h] <;> decide
  case full =>
    have hgo : ¬(s.sys.bootstat != 1 || s.sys.image.isNone) = true := by
      rw [hb, Option.isNone_eq_false_iff.mpr (Option.isSome_iff_ne_none.mpr hi)]
      decide
    rw [exec_fullFunctionReached, execFullFunctionReached, if_neg hgo]
    refine ⟨fun h0 => if_pos (by rw [h0]; rfl), fun h0 => (if_neg (by rw [h0]; decide)).trans ?_⟩
    simp only [offFull, beq_iff_eq]
    rfl
  case load =>
    intro r
    have hr {o : Option (List Byte)} (ho : r.2 = o) : s.apRead? 0 len.toNat = (r.1, o) := Prod.ext rfl ho
    have hno : ¬(s.sys.bootstat != 3) = true := by rw [hb]; decide
    rw [exec_bootload, execBootload, if_neg hno]
    refine ⟨fun hnone => by rw [hr hnone]; rfl, fun bs hbs => ?_⟩
    rw [hr hbs]
    dsimp only
    cases r.1.sys.checkImage bs <;> rfl

theorem imagesChecked : ImagesChecked := by
  intro y bs len key svn
  rw [Sys.checkImage]
  by_cases hhead : imageHeaderOk bs = true
  · obtain ⟨h0, h1, h2, h3, h4, h5⟩ := (imageHeaderOk_iff bs).mp hhead
    refine (if_neg (by rw [hhead]; decide)).trans (if_congr ?_ rfl rfl)
    simp only [Bool.and_eq_true, beq_iff_eq, decide_eq_true_eq, and_assoc]
    exact ⟨fun h => ⟨h0, h1, h2, h3, h4, h5, h⟩, fun ⟨_, _, _, _, _, _, h⟩ => h⟩
  · refine (if_pos (by simpa using hhead)).trans (if_neg fun h => hhead ?_).symm
    obtain ⟨h0, h1, h2, h3, h4, h5, _⟩ := h
    exact (imageHeaderOk_iff bs).mpr ⟨h0, h1, h2, h3, h4, h5⟩

/-! ### Features (R15, R412) and attestation (R416) -/

theorem features : Features := by
  intro s v
  refine ⟨fun hv => ⟨if_pos (bne_iff_ne.mpr hv), if_pos ?_⟩, ?commit⟩
  · rw [bne_iff_ne.mpr hv]
    rfl
  case commit =>
    intro refused
    refine ⟨fun h => featcommit_of_refused h, fun h => ?_⟩
    intro t src
    exact featcommit_of_accepted h

theorem attestation : Attestation := by
  intro s
  refine ⟨fun h => ?busy, fun hc hb => ?begins, fun n hn => ⟨reportOf s n, attestationReportReady_of_busy hn, fun d v hi => ?image,
    rfl, rfl, rfl, fun d hd => bit_dieMap s hd, rfl⟩, fun r i hr => ?shows, fun hr i => ?none, fun i => rfl⟩
  case busy =>
    rw [exec_attgo, execAttgo]
    refine if_pos ?_
    obtain h | h := h
    · simp [h]
    · simp [Option.isSome_iff_ne_none.mpr h]
  case begins =>
    rw [exec_attgo, execAttgo]
    exact if_neg (by rw [hc, hb]; decide)
  case image =>
    rw [reportOf, hi]
    exact ⟨rfl, rfl⟩
  case shows =>
    rw [State.readBar, hr]
    rfl
  case none =>
    rw [State.readBar, hr, Option.map_none, Option.getD_none, wordAt, List.drop_nil, List.take_nil]
    rfl

/-- Settles O47: the steps of start-up by BOOTSTAT, an image by the fields of its header (`imageHeaderOk_iff`), a commit by what
refuses it (`commitRefused_iff`), and the report by `reportOf`. -/
theorem startsUp : Obligations.StartsUp := ⟨startUp, imagesChecked, features, attestation⟩

end Sys2Proof.Safety
end
